-- ==== Sys2Proof/Word.lean ====
section
/-! DEFINITION. The word types of the FJA-9416 (00_scope.md R3, 01_base_machine.md R7). -/

namespace Sys2Proof

/-- A byte. -/
abbrev Byte := BitVec 8
/-- One bit per lane: em, a predicate, a lane set (R7, R8). -/
abbrev Mask := BitVec 32
/-- One 32-bit value per lane of a group (R7). -/
abbrev Lanes := Vector (BitVec 32) 32
/-- A virtual address or a segment offset (R7, R189). -/
abbrev VA := BitVec 52

/-- The same value in every lane. -/
def Lanes.splat (x : BitVec 32) : Lanes := Vector.ofFn fun _ => x
/-- Lane `l` (0 beyond lane 31). -/
def Lanes.get (v : Lanes) (l : Nat) : BitVec 32 := if h : l < 32 then v[l] else 0

end Sys2Proof
end

