-- ==== Sys2Proof/Syntax.lean ====
section
/-! DEFINITION. The instructions and events of the FJA-9416: one constructor per row of spec/opcode_table.json.
Encoded rows carry the fields of 01_base_machine.md R28; rows without an encoding (steps of the engines, the scheduler,
the host, the debugger, the security firmware and the links, 95_what_each_step_holds.md) carry what tells one
occurrence from another. -/

namespace Sys2Proof

/-- A vector or scalar register number, 0 to 31 (R7). -/
abbrev Reg := BitVec 5
/-- A predicate register number, 0 to 7 (R7). -/
abbrev PReg := BitVec 3

/-- Last-read and reuse bits of two sources (R28 format A: Ub, Ua, Lb, La). -/
structure Marks2 where
  ub : Bool
  ua : Bool
  lb : Bool
  la : Bool
  deriving DecidableEq, Repr

/-- Last-read and reuse bits of one source, field a (R28). -/
structure Marks1 where
  ua : Bool
  la : Bool
  deriving DecidableEq, Repr

/-- Access width per lane (R36). -/
inductive Width where | w8 | w16 | w32 | w64
  deriving DecidableEq, Repr

/-- The twelve memory scopes in the order of their codes (R36, R256). -/
inductive Scope where | lane | grp | blk | cu | clu | die | dev | mem | host | peer | pod | fab
  deriving DecidableEq, Repr

/-- Conditions of ICMP in func order (R32, R87). -/
inductive ICond where | eq | ne | lt | le | gt | ge | ltn | gen
  deriving DecidableEq, Repr

/-- Conditions of ICMPI (R88). -/
inductive ICond4 where | eq | ne | lt | ge
  deriving DecidableEq, Repr

/-- Conditions of FCMP in func order (R32, R115). -/
inductive FCond where | eq | ne | lt | le | gt | ge | un | ord
  deriving DecidableEq, Repr

/-- Special registers of SREAD in id order (R85). -/
inductive SpecReg where
  | laneid | grpidx | ngrp | blkx | blky | blkz | gridx | gridy | gridz | gst | place | clk | launchid | devid
  deriving DecidableEq, Repr

/-- System registers in id order (R341). -/
inductive SysReg where | tcause | taddr | tmask | tepc | tem | tstate | cst
  deriving DecidableEq, Repr

/-- Watchpoint kinds (R339, R340). -/
inductive WpKind where | rd | wr | rw | key
  deriving DecidableEq, Repr

/-- Levels of the work hierarchy (R185). -/
inductive Level where | launch | graph | phase | job
  deriving DecidableEq, Repr

/-- Selectors of TSTAT (R253). -/
inductive StatSel where | rows | height | splits | merges | freeSlots | freeNodes
  deriving DecidableEq, Repr

/-- Operations of ATOM and RATOM in func order (R239, R397). -/
inductive AtomOp where | add | min | max | and | or | xor | xchg | f32
  deriving DecidableEq, Repr

/-- One rebalancing step (R221, R222): the leaf, inner node or bucket it acts on. -/
inductive RebalanceStep where
  | leaf (i : Nat)
  | inner (level i : Nat)
  | root
  | bucket (b : Nat)
  deriving DecidableEq, Repr

/-- A barrier named from outside a group (R154, R155): of block `blk` of launch `l`, of cluster launch `c` of launch
`l`, or of launch `l`. -/
inductive BarRef where
  | block (l blk : Nat) (n : BitVec 4)
  | cluster (l c : Nat) (n : BitVec 3)
  | launch (l : Nat) (n : BitVec 2)
  deriving DecidableEq, Repr

/-- A CU by die, cluster within the die and CU within the cluster (R85 PLACE). -/
structure CuRef where
  die : BitVec 2
  cluster : BitVec 3
  cu : BitVec 3
  deriving DecidableEq, Repr

/-- A scheduler partition (R85 PLACE, R351). -/
structure Partition where
  cu : CuRef
  part : BitVec 2
  deriving DecidableEq, Repr

/-- The steps of the compute clock in MHz (R360, R408). -/
inductive ClockStep where | mhz1800 | mhz2400 | mhz3000 | mhz3600
  deriving DecidableEq, Repr

/-- A function that reports ready by a bit of READY (R403). -/
inductive ReadyBit where
  | clu (n : BitVec 5)
  | cpy (n : BitVec 2)
  | reed (n : BitVec 3)
  | sedge (n : BitVec 2)
  | teth (n : BitVec 4)
  | hbm (n : BitVec 3)
  deriving DecidableEq, Repr

/-- A storage other than HBM in which an error shows: L2 by address, the scratchpad, a tile's element or a byte of a scale register of a
block, a CU's register files, a line of an L1, a translation of a TLB (R209). -/
inductive Storage where
  | l2 (pa : Nat)
  | scratch (l blk off : Nat)
  | tile (l blk tile element : Nat)
  | scale (l blk reg byte : Nat)
  | regs (cu : CuRef)
  | l1 (cu : CuRef) (line : Nat)
  | tlb (die : BitVec 2) (cu : Option (BitVec 6)) (job : BitVec 32) (base : Nat)
  deriving DecidableEq, Repr

/-- What a patrol scrub finds in a codeword, or an error that shows elsewhere (R209). -/
inductive ScrubFinding where
  | clean
  | correctable
  | uncorrectable
  | elsewhere (place : Storage) (uncorrectable : Bool)
  deriving DecidableEq, Repr

/-- A firmware image (R386): which of the two it is, its header and body bytes and its signature. -/
structure FirmwareImage where
  security : Bool
  bytes : List Byte
  signature : List Byte
  deriving DecidableEq, Repr

/-- How a Tether flit arrives (R371, R372, R389): port, link sequence number, key index, and whether it is authentic under that key of
the port's inward stream. -/
structure FlitIn where
  port : BitVec 4
  seq : Nat
  key : Bool
  authentic : Bool
  deriving DecidableEq, Repr

/-- The request header of a Tether flit (R389): the flit, source device, stream, stream sequence, virtual address, and the
job that R393 translates it for. -/
structure ReqHeader where
  flit : FlitIn
  src : BitVec 21
  stream : Nat
  seq : Nat
  va : VA
  job : BitVec 32
  deriving DecidableEq, Repr

/-- What one part of a remote read brings back (R393, R396). -/
inductive ReadAnswer where
  | data (bytes : List Byte)
  | poisoned (bytes : List Byte)
  | refused
  deriving DecidableEq, Repr

/-- One participant's contribution to an all-reduce (R398, R399): its buffer bytes, or the refusal of its list. -/
structure Contribution where
  src : BitVec 21
  job : BitVec 32
  coll : BitVec 32
  k : Nat
  op : BitVec 3
  count : BitVec 24
  list : List (BitVec 32)
  data : List Byte
  deriving DecidableEq, Repr

/-- A contribution as it arrives (R398, R399), with its request header. -/
structure ContributionIn where
  h : ReqHeader
  c : Contribution
  deriving DecidableEq, Repr

/-- A request of this device: the operation that sent it, and the part or lane that it is for. -/
structure PartRef where
  op : Nat
  part : Nat
  deriving DecidableEq, Repr

/-- What is acknowledged (R390, R393, R394): flits up to a link sequence number, by the port's other end; or a request, by its
destination in a flit of that link sequence number and key index. -/
inductive TetherAck where
  | flits (upTo : Nat)
  | request (seq : Nat) (key authentic : Bool) (of : PartRef)
  deriving DecidableEq, Repr

/-- What a link-control flit or the link layer reports for a port (R390). -/
inductive LinkControl where
  | trained (peer : BitVec 21) (fewer : Bool)
  | retrain
  | down
  deriving DecidableEq, Repr

/-- A protected stream: a selective IDE stream of the host link, or one direction of a Tether port (R371). -/
inductive StreamRef where
  | ide (n : BitVec 3)
  | tether (port : BitVec 4) (out : Bool)
  deriving DecidableEq, Repr

/-- Host and firmware writes to registers that have no row of their own (R407, R402, R406, R408, R352, R356, R364,
R390, R391, R393, R176, R177). -/
inductive HostWrite where
  | jobCfg (job : BitVec 32) (pasid : BitVec 20) (priv prot ats : Bool)
  | ptRoot (job : BitVec 32) (a : BitVec 64)
  | tDir (job : BitVec 32) (a : BitVec 64)
  | wdog (job : BitVec 32) (cycles : BitVec 64)
  | qCfg (q : BitVec 8) (level : BitVec 6) (tickets : BitVec 16) (pq : Bool) (job : BitVec 32)
  | bar2Win (a : BitVec 64)
  | modeSplit (bits : BitVec 6)
  | pwrLim (watts : Nat)
  | dumpA (a : BitVec 64)
  | traceA (a : BitVec 64)
  | logA (a : BitVec 64)
  | devId (d : BitVec 21)
  | dbgSlot (p : Partition) (slot : BitVec 5)
  | dbgRefusedClear (p : Partition)
  | debugWp (p : Partition) (n : BitVec 2) (lo hi : BitVec 64) (table : BitVec 16) (kind : WpKind) (en : Bool)
  | inject (die : BitVec 2) (lo hi : VA) (en : Bool) (n : BitVec 16)
  | lnkCfg (port : BitVec 4) (tier : BitVec 4) (en : Bool)
  | exportPin (job : BitVec 32) (lo hi : VA)
  | exportUnpin (job : BitVec 32) (lo hi : VA)
  | cancel (lvl : Level) (job id : BitVec 32)
  | retireJob (job : BitVec 32)
  | egress (job : BitVec 32) (rate burst : BitVec 32)
  deriving DecidableEq, Repr

/-- The instructions and events, one constructor per row of spec/opcode_table.json: encoded instructions with operands,
encoded instructions without, then events. -/
inductive Instr where
  /-- BRA (R90). -/
  | bra (g : PReg) (o : BitVec 22)
  /-- CALL (R91). -/
  | call (o : BitVec 22)
  /-- BRI (R92). -/
  | bri (a : Reg)
  /-- CALLI (R91). -/
  | calli (a : Reg)
  /-- TRAP (R338). -/
  | trap (n : BitVec 10)
  /-- WPCLR (R340). -/
  | wpclr (n : BitVec 2)
  /-- JOIN (R153). -/
  | join (o : BitVec 22)
  /-- WAIT (R95). -/
  | wait (mx cp st ld : BitVec 5)
  /-- WAIT_ANY (R95). -/
  | waitAny (mx cp st ld : BitVec 5)
  /-- PUSHM (R98). -/
  | pushm (c : BitVec 5) (scalar free : Bool) (d : Reg)
  /-- POPM (R99). -/
  | popm (c : BitVec 5) (scalar : Bool) (d : Reg)
  /-- SPGET (R100). -/
  | spget (d : Reg)
  /-- SPSET (R100). -/
  | spset (a : Reg)
  /-- SYSRD (R341). -/
  | sysrd (c : SysReg) (d : Reg)
  /-- SYSWR (R341). -/
  | syswr (c : SysReg) (a : Reg)
  /-- SEGLD (R343). -/
  | segld (a : Reg) (n : BitVec 3)
  /-- WPSET (R340). -/
  | wpset (k : WpKind) (b : Reg) (a : BitVec 4) (n : BitVec 2)
  /-- ADD (R81). -/
  | add (g : PReg) (m : Marks2) (d a b : Reg)
  /-- SUB (R81). -/
  | sub (g : PReg) (m : Marks2) (d a b : Reg)
  /-- MUL (R81). -/
  | mul (g : PReg) (m : Marks2) (d a b : Reg)
  /-- MULHI (R81). -/
  | mulhi (g : PReg) (m : Marks2) (d a b : Reg)
  /-- IMIN (R81). -/
  | imin (g : PReg) (m : Marks2) (d a b : Reg)
  /-- IMAX (R81). -/
  | imax (g : PReg) (m : Marks2) (d a b : Reg)
  /-- IABS (R81). -/
  | iabs (g : PReg) (m : Marks1) (d a : Reg)
  /-- POPC (R81). -/
  | popc (g : PReg) (m : Marks1) (d a : Reg)
  /-- AND (R81). -/
  | and (g : PReg) (m : Marks2) (d a b : Reg)
  /-- OR (R81). -/
  | or (g : PReg) (m : Marks2) (d a b : Reg)
  /-- XOR (R81). -/
  | xor (g : PReg) (m : Marks2) (d a b : Reg)
  /-- ANDN (R81). -/
  | andn (g : PReg) (m : Marks2) (d a b : Reg)
  /-- SHL (R81). -/
  | shl (g : PReg) (m : Marks2) (d a b : Reg)
  /-- SHR (R81). -/
  | shr (g : PReg) (m : Marks2) (d a b : Reg)
  /-- SAR (R81). -/
  | sar (g : PReg) (m : Marks2) (d a b : Reg)
  /-- ROTL (R81). -/
  | rotl (g : PReg) (m : Marks2) (d a b : Reg)
  /-- CLZ (R81). -/
  | clz (g : PReg) (m : Marks1) (d a : Reg)
  /-- BREV (R81). -/
  | brev (g : PReg) (m : Marks1) (d a : Reg)
  /-- ADDC (R81). -/
  | addc (g : PReg) (m : Marks2) (d a b : Reg)
  /-- SUBB (R81). -/
  | subb (g : PReg) (m : Marks2) (d a b : Reg)
  /-- MOV (R81). -/
  | mov (g : PReg) (m : Marks1) (d a : Reg)
  /-- BCAST (R84). -/
  | bcast (g : PReg) (d a : Reg)
  /-- LANEGET (R84). -/
  | laneget (g : PReg) (m : Marks1) (d a b : Reg)
  /-- SREAD (R85). -/
  | sread (g : PReg) (d : Reg) (r : SpecReg)
  /-- IMAD (R83). -/
  | imad (g : PReg) (d a b c : Reg)
  /-- BFX (R83). -/
  | bfx (g : PReg) (d a : Reg) (pos len1 : BitVec 5)
  /-- BFI (R83). -/
  | bfi (g : PReg) (d a : Reg) (pos len1 : BitVec 5)
  /-- SEL (R83). -/
  | sel (g : PReg) (d a b : Reg) (k : PReg)
  /-- ADDI (R82). -/
  | addi (g : PReg) (la : Bool) (d a : Reg) (i : BitVec 11)
  /-- MOVI (R82). -/
  | movi (g : PReg) (d : Reg) (i : BitVec 16)
  /-- MOVHI (R82). -/
  | movhi (g : PReg) (d : Reg) (i : BitVec 16)
  /-- ADD_SCALAR (R81). -/
  | addScalar (d a b : Reg)
  /-- SUB_SCALAR (R81). -/
  | subScalar (d a b : Reg)
  /-- MUL_SCALAR (R81). -/
  | mulScalar (d a b : Reg)
  /-- MULHI_SCALAR (R81). -/
  | mulhiScalar (d a b : Reg)
  /-- IMIN_SCALAR (R81). -/
  | iminScalar (d a b : Reg)
  /-- IMAX_SCALAR (R81). -/
  | imaxScalar (d a b : Reg)
  /-- MOV_SCALAR (R81). -/
  | movScalar (d a : Reg)
  /-- SREAD_SCALAR (R85). -/
  | sreadScalar (d : Reg) (r : SpecReg)
  /-- AND_SCALAR (R81). -/
  | andScalar (d a b : Reg)
  /-- OR_SCALAR (R81). -/
  | orScalar (d a b : Reg)
  /-- XOR_SCALAR (R81). -/
  | xorScalar (d a b : Reg)
  /-- ANDN_SCALAR (R81). -/
  | andnScalar (d a b : Reg)
  /-- SHL_SCALAR (R81). -/
  | shlScalar (d a b : Reg)
  /-- SHR_SCALAR (R81). -/
  | shrScalar (d a b : Reg)
  /-- SAR_SCALAR (R81). -/
  | sarScalar (d a b : Reg)
  /-- ROTL_SCALAR (R81). -/
  | rotlScalar (d a b : Reg)
  /-- ADDI_SCALAR (R82). -/
  | addiScalar (d a : Reg) (i : BitVec 11)
  /-- MOVI_SCALAR (R82). -/
  | moviScalar (d : Reg) (i : BitVec 16)
  /-- MOVHI_SCALAR (R82). -/
  | movhiScalar (d : Reg) (i : BitVec 16)
  /-- ICMP (R87). -/
  | icmp (g : PReg) (m : Marks2) (cc : ICond) (d : PReg) (a b : Reg)
  /-- ICMP_SCALAR (R87). -/
  | icmpScalar (cc : ICond) (d : PReg) (a b : Reg)
  /-- ICMPI (R88). -/
  | icmpi (g : PReg) (la : Bool) (cc : ICond4) (d : PReg) (a : Reg) (i : BitVec 11)
  /-- KAND (R89). -/
  | kand (g : PReg) (d a b : PReg)
  /-- KOR (R89). -/
  | kor (g : PReg) (d a b : PReg)
  /-- KXOR (R89). -/
  | kxor (g : PReg) (d a b : PReg)
  /-- SHFL_IDX (R150). -/
  | shflIdx (g : PReg) (m : Marks2) (d a b : Reg)
  /-- SHFL_UP (R150). -/
  | shflUp (g : PReg) (m : Marks1) (d a : Reg) (n : BitVec 5)
  /-- SHFL_DOWN (R150). -/
  | shflDown (g : PReg) (m : Marks1) (d a : Reg) (n : BitVec 5)
  /-- SHFL_XOR (R150). -/
  | shflXor (g : PReg) (m : Marks1) (d a : Reg) (n : BitVec 5)
  /-- KNOT (R89). -/
  | knot (g : PReg) (d a : PReg)
  /-- KMOV (R89). -/
  | kmov (g : PReg) (d a : PReg)
  /-- KFROMS (R89). -/
  | kfroms (g : PReg) (d : PReg) (a : Reg)
  /-- KTOS (R89). -/
  | ktos (d : Reg) (a : PReg)
  /-- EMGET (R152). -/
  | emget (g : PReg) (d : Reg)
  /-- EMSET (R152). -/
  | emset (a : Reg)
  /-- VOTE_ANY (R151). -/
  | voteAny (g : PReg) (d a : PReg)
  /-- VOTE_ALL (R151). -/
  | voteAll (g : PReg) (d a : PReg)
  /-- VOTE_BAL (R151). -/
  | voteBal (g : PReg) (d : Reg) (a : PReg)
  /-- ELECT (R151). -/
  | elect (g : PReg) (d : PReg)
  /-- LSCAN (R151). -/
  | lscan (g : PReg) (d a : Reg)
  /-- REDUX_ADD (R151). -/
  | reduxAdd (g : PReg) (d a : Reg)
  /-- REDUX_MIN (R151). -/
  | reduxMin (g : PReg) (d a : Reg)
  /-- REDUX_MAX (R151). -/
  | reduxMax (g : PReg) (d a : Reg)
  /-- REDUX_AND (R151). -/
  | reduxAnd (g : PReg) (d a : Reg)
  /-- REDUX_OR (R151). -/
  | reduxOr (g : PReg) (d a : Reg)
  /-- REDUX_XOR (R151). -/
  | reduxXor (g : PReg) (d a : Reg)
  /-- FADD (R111). -/
  | fadd (g : PReg) (m : Marks2) (d a b : Reg)
  /-- FSUB (R111). -/
  | fsub (g : PReg) (m : Marks2) (d a b : Reg)
  /-- FMUL (R111). -/
  | fmul (g : PReg) (m : Marks2) (d a b : Reg)
  /-- FMIN (R111). -/
  | fmin (g : PReg) (m : Marks2) (d a b : Reg)
  /-- FMAX (R111). -/
  | fmax (g : PReg) (m : Marks2) (d a b : Reg)
  /-- FABS (R111). -/
  | fabs (g : PReg) (m : Marks1) (d a : Reg)
  /-- FNEG (R111). -/
  | fneg (g : PReg) (m : Marks1) (d a : Reg)
  /-- FRND (R112). -/
  | frnd (g : PReg) (m : Marks1) (mode : BitVec 4) (d a : Reg)
  /-- FFMA (R113). -/
  | ffma (g : PReg) (d a b c : Reg)
  /-- HFMA2 (R113). -/
  | hfma2 (g : PReg) (d a b c : Reg)
  /-- FDOT4 (R114). -/
  | fdot4 (g : PReg) (d a b c : Reg)
  /-- FCMP (R115). -/
  | fcmp (g : PReg) (m : Marks2) (cc : FCond) (d : PReg) (a b : Reg)
  /-- FRCP (R116). -/
  | frcp (g : PReg) (m : Marks1) (d a : Reg)
  /-- FRSQ (R116). -/
  | frsq (g : PReg) (m : Marks1) (d a : Reg)
  /-- FSQRT (R116). -/
  | fsqrt (g : PReg) (m : Marks1) (d a : Reg)
  /-- FEXP2 (R116). -/
  | fexp2 (g : PReg) (m : Marks1) (d a : Reg)
  /-- FLOG2 (R116). -/
  | flog2 (g : PReg) (m : Marks1) (d a : Reg)
  /-- FSIN (R116). -/
  | fsin (g : PReg) (m : Marks1) (d a : Reg)
  /-- FCOS (R116). -/
  | fcos (g : PReg) (m : Marks1) (d a : Reg)
  /-- FTANH (R116). -/
  | ftanh (g : PReg) (m : Marks1) (d a : Reg)
  /-- HADD2 (R117). -/
  | hadd2 (g : PReg) (m : Marks2) (d a b : Reg)
  /-- HMUL2 (R117). -/
  | hmul2 (g : PReg) (m : Marks2) (d a b : Reg)
  /-- FLDEXP (R117). -/
  | fldexp (g : PReg) (m : Marks2) (d a b : Reg)
  /-- PACK (R118). -/
  | pack (g : PReg) (m : Marks2) (d a b : Reg)
  /-- UNPK (R119). -/
  | unpk (g : PReg) (m : Marks1) (d a : Reg) (i : BitVec 5)
  /-- FMTSET (R120). -/
  | fmtset (a b : Reg)
  /-- FMTGET (R120). -/
  | fmtget (d : Reg)
  /-- FCVT (R121). -/
  | fcvt (g : PReg) (dst src : BitVec 6) (d a : Reg)
  /-- ICVT (R121). -/
  | icvt (g : PReg) (dst src : BitVec 6) (d a : Reg)
  /-- FTOI (R121). -/
  | ftoi (g : PReg) (dst src : BitVec 6) (d a : Reg)
  /-- TSEED (R131). -/
  | tseed (g : PReg) (j : BitVec 5) (d a b : Reg)
  /-- TGET (R131). -/
  | tget (g : PReg) (j : BitVec 5) (d a : Reg)
  /-- TSET (R131). -/
  | tset (g : PReg) (j : BitVec 5) (d b : Reg)
  /-- TZERO (R131). -/
  | tzero (g : PReg) (j : BitVec 5) (d : Reg)
  /-- TCNT (R132). -/
  | tcnt (d : Reg)
  /-- SCBIND (R312). -/
  | scbind (x : BitVec 6) (b : Reg)
  /-- SCMOV (R312). -/
  | scmov (x y : BitVec 6)
  /-- SCSET (R312). -/
  | scset (x : BitVec 6) (j : BitVec 4) (b : Reg)
  /-- SCGET (R312). -/
  | scget (x : BitVec 6) (j : BitVec 4) (b : Reg)
  /-- SCMUL (R312). -/
  | scmul (x y : BitVec 6)
  /-- SCMAX (R312). -/
  | scmax (x y : BitVec 6)
  /-- SCREL (R312). -/
  | screl (x : BitVec 6)
  /-- LD (R105). -/
  | ld (g : PReg) (w : Width) (sc : Scope) (ord : Bool) (d a b : Reg)
  /-- ST (R106). -/
  | st (g : PReg) (w : Width) (sc : Scope) (ord : Bool) (d a b : Reg)
  /-- LDS (R237). -/
  | lds (g : PReg) (w : Width) (d a b : Reg)
  /-- STS (R237). -/
  | sts (g : PReg) (w : Width) (d a b : Reg)
  /-- LDC (R238). -/
  | ldc (w : Width) (disp : BitVec 5) (d b : Reg)
  /-- LDR (R248). -/
  | ldr (g : PReg) (q : PReg) (w : Width) (d a b : Reg)
  /-- STR (R248). -/
  | str (g : PReg) (q : PReg) (w : Width) (d a b : Reg)
  /-- QAPP (R245). -/
  | qapp (q : BitVec 3) (d b : Reg)
  /-- QPOP (R246). -/
  | qpop (q : BitVec 3) (d a : Reg)
  /-- ATOM_ADD_W32 (R239). -/
  | atomAddW32 (g : PReg) (m : Marks1) (d a b : Reg)
  /-- ATOM_MIN_W32 (R239). -/
  | atomMinW32 (g : PReg) (m : Marks1) (d a b : Reg)
  /-- ATOM_MAX_W32 (R239). -/
  | atomMaxW32 (g : PReg) (m : Marks1) (d a b : Reg)
  /-- ATOM_AND_W32 (R239). -/
  | atomAndW32 (g : PReg) (m : Marks1) (d a b : Reg)
  /-- ATOM_OR_W32 (R239). -/
  | atomOrW32 (g : PReg) (m : Marks1) (d a b : Reg)
  /-- ATOM_XOR_W32 (R239). -/
  | atomXorW32 (g : PReg) (m : Marks1) (d a b : Reg)
  /-- ATOM_XCHG_W32 (R239). -/
  | atomXchgW32 (g : PReg) (m : Marks1) (d a b : Reg)
  /-- ATOM_F32 (R239). -/
  | atomF32 (g : PReg) (m : Marks1) (d a b : Reg)
  /-- ATOM_ADD_W64 (R239). -/
  | atomAddW64 (g : PReg) (m : Marks1) (d a b : Reg)
  /-- ATOM_MIN_W64 (R239). -/
  | atomMinW64 (g : PReg) (m : Marks1) (d a b : Reg)
  /-- ATOM_MAX_W64 (R239). -/
  | atomMaxW64 (g : PReg) (m : Marks1) (d a b : Reg)
  /-- ATOM_AND_W64 (R239). -/
  | atomAndW64 (g : PReg) (m : Marks1) (d a b : Reg)
  /-- ATOM_OR_W64 (R239). -/
  | atomOrW64 (g : PReg) (m : Marks1) (d a b : Reg)
  /-- ATOM_XOR_W64 (R239). -/
  | atomXorW64 (g : PReg) (m : Marks1) (d a b : Reg)
  /-- ATOM_XCHG_W64 (R239). -/
  | atomXchgW64 (g : PReg) (m : Marks1) (d a b : Reg)
  /-- ARW_RD (R243). -/
  | arwRd (g : PReg) (sc : Scope) (d a b : Reg)
  /-- ARW_RDX (R243). -/
  | arwRdx (g : PReg) (sc : Scope) (d a b : Reg)
  /-- ARW_WR (R243). -/
  | arwWr (g : PReg) (sc : Scope) (d a b : Reg)
  /-- ARW_WRX (R243). -/
  | arwWrx (g : PReg) (sc : Scope) (d a b : Reg)
  /-- ACAS_W32 (R241). -/
  | acasW32 (g : PReg) (d a b c : Reg)
  /-- ACAS_W64 (R241). -/
  | acasW64 (g : PReg) (d a b c : Reg)
  /-- FENCE (R244). -/
  | fence (sc : Scope)
  /-- QFREE (R247). -/
  | qfree (q : BitVec 3) (b : Reg)
  /-- TFIND (R250). -/
  | tfind (g : PReg) (d a b : Reg)
  /-- TINS (R250). -/
  | tins (g : PReg) (d a b : Reg)
  /-- TREPL (R250). -/
  | trepl (g : PReg) (d a b : Reg)
  /-- TDEL (R250). -/
  | tdel (g : PReg) (d a b : Reg)
  /-- TFIND_Q (R250). -/
  | tfindQ (g : PReg) (d a b : Reg)
  /-- TINS_Q (R250). -/
  | tinsQ (g : PReg) (d a b : Reg)
  /-- TREPL_Q (R250). -/
  | treplQ (g : PReg) (d a b : Reg)
  /-- TDEL_Q (R250). -/
  | tdelQ (g : PReg) (d a b : Reg)
  /-- TSCAN (R252). -/
  | tscan (g : PReg) (cur : BitVec 2) (a b c : Reg)
  /-- TNEXT (R252). -/
  | tnext (g : PReg) (cur : BitVec 2) (n1 : BitVec 3) (d b : Reg)
  /-- TCLOSE (R252). -/
  | tclose (g : PReg) (cur : BitVec 2)
  /-- TSTAT (R253). -/
  | tstat (sel : StatSel) (d b : Reg)
  /-- TXC (R255). -/
  | txc (d : Reg)
  /-- TXST (R254). -/
  | txst (d : Reg)
  /-- SHAPE (R301). -/
  | shape (g : PReg) (a : Reg) (n : BitVec 3)
  /-- CPY_IN (R302). -/
  | cpyIn (g : PReg) (n : BitVec 3) (a b : Reg)
  /-- CPY_OUT (R302). -/
  | cpyOut (g : PReg) (n : BitVec 3) (a b : Reg)
  /-- CPY_REM (R302). -/
  | cpyRem (g : PReg) (n : BitVec 3) (a b : Reg)
  /-- MMA (R305). -/
  | mma (g : PReg) (nsb nsa z : Bool) (t : BitVec 4) (a b : Reg)
  /-- MMAG (R306). -/
  | mmag (g : PReg) (nsb nsa z : Bool) (t : BitVec 4) (a b : Reg)
  /-- MMA_T (R307). -/
  | mmaT (g : PReg) (nsb nsa z : Bool) (t : BitVec 4) (a b : Reg)
  /-- OPRDY (R308). -/
  | oprdy (a b : Reg)
  /-- AMLD (R309). -/
  | amld (g : PReg) (t : BitVec 4) (a : Reg)
  /-- AMST (R309). -/
  | amst (g : PReg) (t : BitVec 4) (a : Reg)
  /-- AMZERO (R309). -/
  | amzero (g : PReg) (t : BitVec 4)
  /-- AMROW (R310). -/
  | amrow (g : PReg) (t : BitVec 4) (d b : Reg)
  /-- AMSCL (R309). -/
  | amscl (g : PReg) (m : Marks2) (t : BitVec 4) (a b : Reg)
  /-- DRAIN_ST (R311). -/
  | drainSt (g : PReg) (t : BitVec 4) (a b : Reg)
  /-- DRAIN_ADD (R311). -/
  | drainAdd (g : PReg) (t : BitVec 4) (a b : Reg)
  /-- BAR_ARV (R158). -/
  | barArv (c : BitVec 5) (d : Reg)
  /-- BAR_WT (R158). -/
  | barWt (c : BitVec 5) (a : Reg)
  /-- BAR_SYNC (R158). -/
  | barSync (c : BitVec 5)
  /-- BAR_ARM (R158). -/
  | barArm (c : BitVec 5) (b : Reg)
  /-- BAR_TST (R159). -/
  | barTst (c : BitVec 5) (d : Reg)
  /-- REGROUP (R162). -/
  | regroup (bar : BitVec 4) (d a b : Reg)
  /-- RQXFER (R166). -/
  | rqxfer (d a b : Reg)
  /-- RQGET (R165). -/
  | rqget (d : Reg)
  /-- ROLESET (R165). -/
  | roleset (a : Reg)
  /-- ROLEGET (R165). -/
  | roleget (d : Reg)
  /-- KVAPP (R324). -/
  | kvapp (g : PReg) (d a b : Reg)
  /-- KVAPP_DROP (R324). -/
  | kvappDrop (g : PReg) (a b : Reg)
  /-- QPOST (R325). -/
  | qpost (g : PReg) (c : BitVec 5) (d a b : Reg)
  /-- QGET (R326). -/
  | qget (g : PReg) (q : PReg) (d a b : Reg)
  /-- BTLD (R327). -/
  | btld (g : PReg) (n1 : BitVec 5) (a b : Reg)
  /-- XMERGE (R328). -/
  | xmerge (g : PReg) (d a b : Reg)
  /-- LAUNCH (R186). -/
  | launch (d a b : Reg)
  /-- CANCEL (R187). -/
  | cancel (lvl : Level) (d a : Reg)
  /-- CNTRD (R185). -/
  | cntrd (lvl : Level) (d a : Reg)
  /-- CNTWT (R188). -/
  | cntwt (lvl : Level) (d a b : Reg)
  /-- TSEND (R396). -/
  | tsend (g : PReg) (c : BitVec 5) (a b : Reg)
  /-- TRECV (R396). -/
  | trecv (g : PReg) (c : BitVec 5) (a b : Reg)
  /-- RATOM (R397). -/
  | ratom (g : PReg) (w64 : Bool) (op : AtomOp) (d a b : Reg)
  /-- ARED (R398). -/
  | ared (g : PReg) (c : BitVec 5) (a b : Reg)
  /-- MOV_16BIT (R26). -/
  | mov16bit (d b : Reg)
  /-- MOVI_16BIT (R26). -/
  | movi16bit (d : Reg) (i : BitVec 5)
  /-- ADD_16BIT (R26). -/
  | add16bit (d b : Reg)
  /-- ADDI_16BIT (R26). -/
  | addi16bit (d : Reg) (i : BitVec 5)
  /-- SUB_16BIT (R26). -/
  | sub16bit (d b : Reg)
  /-- AND_16BIT (R26). -/
  | and16bit (d b : Reg)
  /-- OR_16BIT (R26). -/
  | or16bit (d b : Reg)
  /-- XOR_16BIT (R26). -/
  | xor16bit (d b : Reg)
  /-- SHL_16BIT (R26). -/
  | shl16bit (d b : Reg)
  /-- SHR_16BIT (R26). -/
  | shr16bit (d b : Reg)
  /-- IMIN_16BIT (R26). -/
  | imin16bit (d b : Reg)
  /-- IMAX_16BIT (R26). -/
  | imax16bit (d b : Reg)
  /-- FADD_16BIT (R26). -/
  | fadd16bit (d b : Reg)
  /-- FSUB_16BIT (R26). -/
  | fsub16bit (d b : Reg)
  /-- FMUL_16BIT (R26). -/
  | fmul16bit (d b : Reg)
  /-- FMAX_16BIT (R26). -/
  | fmax16bit (d b : Reg)
  /-- DL (R129). -/
  | dl (mode : Bool)
  /-- RET (R91). -/
  | ret
  /-- END (R93). -/
  | endFrag
  /-- ERET (R337). -/
  | eret
  /-- ERET_SKIP (R337). -/
  | eretSkip
  /-- TXB (R254). -/
  | txb
  /-- TXA (R254). -/
  | txa
  /-- NOP (R94). -/
  | nop
  /-- YIELD (R94). -/
  | yield
  /-- PLACE_LAUNCH_RECORD (R170). -/
  | placeLaunchRecord (q : BitVec 8) (image : List (BitVec 8))
  /-- LEASE_SETUP (R181). -/
  | leaseSetup (l : Nat)
  /-- DISPATCH_BLOCK (R177). -/
  | dispatchBlock (choice : Option (BitVec 8))
  /-- PREEMPTION (R180). -/
  | preemption
  /-- CONTEXT_SAVE (R345). -/
  | contextSave (l blk : Nat)
  /-- CONTEXT_RESTORE (R346). -/
  | contextRestore (l blk : Nat)
  /-- SPLIT_ENTRY_RELOAD (R137). -/
  | splitEntryReload (l blk grp entry : Nat)
  /-- ISSUE_RUN_END (R182). -/
  | issueRunEnd
  /-- REGISTERS_RETURN (R93). -/
  | registersReturn (l blk grp : Nat)
  /-- RESERVED_REGISTER_RETURN (R16). -/
  | reservedRegisterReturn (op : Nat)
  /-- LOAD_COMPLETE (R96). -/
  | loadComplete (op : Nat) (lineKept : Bool)
  /-- STORE_COMPLETE (R96). -/
  | storeComplete (op : Nat)
  /-- ATOMIC_PERFORM (R236). -/
  | atomicPerform (op : Nat)
  /-- TABLE_OPERATION (R218). -/
  | tableOperation (op : Nat)
  /-- REBALANCE (R221). -/
  | rebalance (job : BitVec 32) (table : BitVec 16) (what : RebalanceStep)
  /-- COPY_START (R293). -/
  | copyStart (op : Nat)
  /-- COPY_PART (R276). -/
  | copyPart (op i : Nat)
  /-- COPY_COMPLETE (R280). -/
  | copyComplete (op : Nat)
  /-- DEFERRED_ENTRY_START (R294). -/
  | deferredEntryStart (op : Nat)
  /-- MATRIX_START (R287). -/
  | matrixStart (op : Nat)
  /-- MATRIX_COMPLETE (R298). -/
  | matrixComplete (op : Nat)
  /-- DRAIN_START (R291). -/
  | drainStart (op : Nat)
  /-- DRAIN_COMPLETE (R311). -/
  | drainComplete (op : Nat)
  /-- DETERMINISM_BUFFER_APPLY (R240). -/
  | determinismBufferApply (l : Nat)
  /-- BLOCK_RESOLVE (R316). -/
  | blockResolve (op : Nat)
  /-- STACK_QUERY (R318). -/
  | stackQuery (op stack : Nat)
  /-- QUERY_COMPLETE (R325). -/
  | queryComplete (op : Nat)
  /-- PIN_RELEASE (R317). -/
  | pinRelease (op : Nat)
  /-- PER_BANK_REFRESH (R319). -/
  | perBankRefresh (stack : BitVec 3) (bank : BitVec 10)
  /-- LINK_SEND_COMPLETE (R396). -/
  | linkSendComplete (op : Nat)
  /-- ARED_COMPLETE (R399). -/
  | aredComplete (op : Nat)
  /-- ARED_TIMEOUT (R399). -/
  | aredTimeout (op : Nat)
  /-- BLOCK_COMPLETE (R172). -/
  | blockComplete (l blk : Nat)
  /-- LAUNCH_COMPLETE (R172). -/
  | launchComplete (l : Nat)
  /-- CANCEL_COMPLETE (R175). -/
  | cancelComplete (l : Nat)
  /-- BARRIER_HANG (R349). -/
  | barrierHang (bar : BarRef)
  /-- PAGE_WALK (R202). -/
  | pageWalk (die : BitVec 2) (cu : Option (BitVec 6)) (job : BitVec 32) (va : BitVec 52)
  /-- HOST_REQUEST_COMPLETION (R406). -/
  | hostRequestCompletion (id : Nat) (ok : Bool) (digest : BitVec 256)
  /-- ATS_INVALIDATION (R207). -/
  | atsInvalidation (pasid : BitVec 20) (page : BitVec 40)
  /-- PRI_RESPONSE (R207). -/
  | priResponse (pasid : BitVec 20) (page : BitVec 40) (granted : Bool)
  /-- HOST_MEMORY_WRITE (R272). -/
  | hostMemoryWrite (off : BitVec 32) (bytes : List (BitVec 8))
  /-- HOST_MEMORY_READ (R375). -/
  | hostMemoryRead (off : BitVec 32) (len : Nat)
  /-- PATROL_SCRUB (R209). -/
  | patrolScrub (codeword : Nat) (found : ScrubFinding)
  /-- INJECTOR_RELEASE (R364). -/
  | injectorRelease (op : Nat)
  /-- REGISTER_WRITE (R407). -/
  | registerWrite (w : HostWrite)
  /-- CNTNEW (R174). -/
  | cntnew (lvl : Level) (id job : BitVec 32) (expected : BitVec 48)
  /-- TLBINV (R407). -/
  | tlbinv (job : BitVec 32) (lo hi : BitVec 52)
  /-- HALT (R351). -/
  | halt (p : Partition)
  /-- RESUME (R353). -/
  | resume (p : Partition)
  /-- STEP (R354). -/
  | step (p : Partition) (slot : BitVec 5)
  /-- DUMP (R355). -/
  | dump (p : Partition)
  /-- SNAPSHOT (R359). -/
  | snapshot (p : Partition)
  /-- CLOCK_LOCK (R360). -/
  | clockLock (freq : ClockStep)
  /-- LOCK_BROKEN (R360). -/
  | lockBroken (die : BitVec 2) (freq : ClockStep) (power : Bool)
  /-- LOCK_RESTORED (R360). -/
  | lockRestored (die : BitVec 2)
  /-- CLOCK_STEP_DOWN (R408). -/
  | clockStepDown (die : BitVec 2)
  /-- CLOCK_STEP_UP (R408). -/
  | clockStepUp (die : BitVec 2)
  /-- FATAL_STATE (R405). -/
  | fatalState
  /-- CONVENTIONAL_RESET (R405). -/
  | conventionalReset
  /-- FUNCTION_LEVEL_RESET (R405). -/
  | functionLevelReset
  /-- D3HOT_ENTRY (R409). -/
  | d3hotEntry
  /-- D3COLD_EXIT (R409). -/
  | d3coldExit
  /-- FIRMWARE_IMAGE_LOAD (R386). -/
  | firmwareImageLoad (image : FirmwareImage)
  /-- FUNCTION_READY (R403). -/
  | functionReady (f : ReadyBit)
  /-- BRIDLE_FLIT_REPLAY (R388). -/
  | bridleFlitReplay (link : BitVec 3)
  /-- BRIDLE_LANE_LOSS (R388). -/
  | bridleLaneLoss (link : BitVec 3)
  /-- BRIDLE_RETRAIN_TIMEOUT (R388). -/
  | bridleRetrainTimeout (link : BitVec 3)
  /-- TETHER_WRITE (R393). -/
  | tetherWrite (h : ReqHeader) (bytes : List (BitVec 8))
  /-- TETHER_READ_REQUEST (R393). -/
  | tetherReadRequest (h : ReqHeader) (parts : Nat)
  /-- TETHER_READ_DATA (R396). -/
  | tetherReadData (f : FlitIn) (of : PartRef) (answer : ReadAnswer)
  /-- TETHER_ATOMIC (R397). -/
  | tetherAtomic (h : ReqHeader) (w64 : Bool) (f : AtomOp) (x : BitVec 64)
  /-- TETHER_ATOMIC_RESULT (R397). -/
  | tetherAtomicResult (f : FlitIn) (of : PartRef) (answer : Option (BitVec 64))
  /-- TETHER_ACKNOWLEDGE (R390). -/
  | tetherAcknowledge (port : BitVec 4) (what : TetherAck) (declined : Bool)
  /-- TETHER_BUSY (R390). -/
  | tetherBusy (f : FlitIn) (of : PartRef)
  /-- TETHER_COLLECTIVE (R399). -/
  | tetherCollective (x : ContributionIn)
  /-- TETHER_LINK_CONTROL (R390). -/
  | tetherLinkControl (port : BitVec 4) (what : LinkControl)
  /-- TETHER_ACK_TIMEOUT (R390). -/
  | tetherAckTimeout (port : BitVec 4)
  /-- BUSY_RETRY (R390). -/
  | busyRetry (port : BitVec 4) (of : PartRef)
  /-- ROUTE_TIMEOUT (R392). -/
  | routeTimeout (op : Nat)
  /-- COMPLETION_RECEIVED (R372). -/
  | completionReceived (stream : BitVec 3) (id : Nat) (keyIndex authentic : Bool)
  /-- LINK_KEY_LOAD (R372). -/
  | linkKeyLoad (stream : StreamRef) (slot : BitVec 10) (job : BitVec 32) (key : BitVec 256)
  /-- KEY_INDEX_FLIP (R372). -/
  | keyIndexFlip (stream : StreamRef)
  /-- KEY_SET_RETIRE (R372). -/
  | keySetRetire (stream : StreamRef)
  /-- KEY_SLOT_LOAD (R369). -/
  | keySlotLoad (slot : BitVec 10) (job : BitVec 32) (twbase : BitVec 52) (key : BitVec 512)
  /-- KEY_SLOT_ZEROISE (R370). -/
  | keySlotZeroise (slot : BitVec 10)
  /-- SEAL_KEY_DERIVE (R373). -/
  | sealKeyDerive (slot : BitVec 10) (job : BitVec 32) (region : BitVec 64) (base : BitVec 52) (policy : BitVec 256)
  /-- WEIGHT_REGION_SET (R374). -/
  | weightRegionSet (job : BitVec 32) (lo hi : BitVec 52) (policy : BitVec 256)
  /-- TOKEN_REFILL (R375). -/
  | tokenRefill (job : BitVec 32)
  /-- LOG_ACKNOWLEDGE (R378). -/
  | logAcknowledge (upTo : BitVec 64)
  /-- CLEAR_SEQUENCE (R367). -/
  | clearSequence (cluster : Nat)
  /-- HEARTBEAT_LOSS (R381). -/
  | heartbeatLoss (tdi : BitVec 4)
  /-- RWL_DIGEST_WALK (R380). -/
  | rwlDigestWalk (tdi : BitVec 4)
  /-- GET_VERSION (R384). -/
  | getVersion (msg : List (BitVec 8))
  /-- GET_CAPABILITIES (R384). -/
  | getCapabilities (msg : List (BitVec 8))
  /-- NEGOTIATE_ALGORITHMS (R384). -/
  | negotiateAlgorithms (msg : List (BitVec 8))
  /-- GET_DIGESTS (R384). -/
  | getDigests (msg : List (BitVec 8))
  /-- GET_CERTIFICATE (R384). -/
  | getCertificate (msg : List (BitVec 8))
  /-- CHALLENGE (R384). -/
  | challenge (msg : List (BitVec 8))
  /-- GET_MEASUREMENTS (R385). -/
  | getMeasurements (msg : List (BitVec 8)) (index : BitVec 8) (signed : Bool)
  /-- PSK_EXCHANGE (R384). -/
  | pskExchange (msg : List (BitVec 8)) (session : BitVec 32)
  /-- PSK_FINISH (R384). -/
  | pskFinish (msg : List (BitVec 8)) (session : BitVec 32)
  /-- HEARTBEAT (R384). -/
  | heartbeat (msg : List (BitVec 8)) (session : BitVec 32)
  /-- KEY_UPDATE (R384). -/
  | keyUpdate (msg : List (BitVec 8)) (session : BitVec 32)
  /-- END_SESSION (R384). -/
  | endSession (msg : List (BitVec 8)) (session : BitVec 32)
  /-- VENDOR_DEFINED_REQUEST (R371). -/
  | vendorDefinedRequest (msg : List (BitVec 8)) (session : BitVec 32) (stream : BitVec 3) (slot : BitVec 10)
      (job : BitVec 32) (key : BitVec 256)
  /-- LOCK_INTERFACE_REQUEST (R380). -/
  | lockInterfaceRequest (tdi : BitVec 4)
  /-- START_INTERFACE_REQUEST (R379). -/
  | startInterfaceRequest (tdi : BitVec 4)
  /-- STOP_INTERFACE_REQUEST (R379). -/
  | stopInterfaceRequest (tdi : BitVec 4)
  /-- ILLEGAL_ENCODING (R32). -/
  | illegalEncoding
  /-- BUNDLE_MALFORMED (R19). -/
  | bundleMalformed
  /-- COMPLETION_TIMEOUT (R372). -/
  | completionTimeout (stream : BitVec 3) (id : Nat)
  /-- ATS_TRANSLATION_COMPLETION (R207). -/
  | atsTranslationCompletion (pasid : BitVec 20) (page : BitVec 40) (present : Bool)
  /-- UNSUPPORTED_REQUEST (R384). -/
  | unsupportedRequest (code : BitVec 8)
  deriving DecidableEq, Repr

end Sys2Proof
end

