-- ==== Sys2Proof/WellFormed.lean ====
section
/-! DEFINITION. Which terms of Instr stand for an instruction of the device: the operand rules that the entries state on
the encoded fields and whose violation raises illegal encoding, and the ranges of names in events. -/

namespace Sys2Proof

/-- Classes of format codes (R52). -/
inductive FmtClass where | int | float | unassigned
  deriving DecidableEq, Repr

/-- The class of a 6-bit format code (R52). -/
def fmtClass (c : BitVec 6) : FmtClass :=
  if c.toNat ≤ 7 then .int
  else if c.toNat ≤ 0x10 ∨ (0x20 ≤ c.toNat ∧ c.toNat ≤ 0x3B) then .float
  else .unassigned

/-- No source carries both its last-read and its reuse bit (R15). -/
def Marks2.ok (m : Marks2) : Bool := !(m.ua && m.la) && !(m.ub && m.lb)
/-- Source a does not carry both bits (R15). -/
def Marks1.ok (m : Marks1) : Bool := !(m.ua && m.la)
/-- The register can name a pair (R103, R234). -/
def Reg.even (r : Reg) : Bool := !r.getLsbD 0
/-- A 64-bit access names an even register (R103, R234). -/
def pairOk (w : Width) (d : Reg) : Bool := w != .w64 || Reg.even d
/-- A barrier code (R155). -/
def barCode (c : BitVec 5) : Bool := c.toNat ≤ 27
/-- A barrier code, or 31 for none (R325, R396). -/
def barOrNone (c : BitVec 5) : Bool := c.toNat ≤ 27 || c.toNat == 31
/-- A 64-bit integer format (R121). -/
def fmt64 (c : BitVec 6) : Bool := c == 3 || c == 7
/-- A CU of the device: 5 clusters of 8 (R1, R85). -/
def CuRef.ok (c : CuRef) : Bool := c.cluster.toNat < 5
/-- A partition of the device. -/
def Partition.ok (p : Partition) : Bool := p.cu.ok

/-- The term stands for an instruction or an event of the device. -/
def Instr.wf : Instr → Bool
  | .pushm c scalar free d => (c.toNat + d.toNat ≤ 31) && (!free || !scalar)
  | .popm c _ d => c.toNat + d.toNat ≤ 31
  | .add _ m _ _ _ | .sub _ m _ _ _ | .mul _ m _ _ _ | .mulhi _ m _ _ _ | .imin _ m _ _ _ | .imax _ m _ _ _
  | .and _ m _ _ _ | .or _ m _ _ _ | .xor _ m _ _ _ | .andn _ m _ _ _ | .shl _ m _ _ _ | .shr _ m _ _ _
  | .sar _ m _ _ _ | .rotl _ m _ _ _ | .addc _ m _ _ _ | .subb _ m _ _ _ | .icmp _ m _ _ _ _
  | .shflIdx _ m _ _ _ | .fadd _ m _ _ _ | .fsub _ m _ _ _ | .fmul _ m _ _ _ | .fmin _ m _ _ _ | .fmax _ m _ _ _
  | .fcmp _ m _ _ _ _ | .hadd2 _ m _ _ _ | .hmul2 _ m _ _ _ | .fldexp _ m _ _ _ | .pack _ m _ _ _
  | .amscl _ m _ _ _ => m.ok
  | .iabs _ m _ _ | .popc _ m _ _ | .clz _ m _ _ | .brev _ m _ _ | .mov _ m _ _ | .laneget _ m _ _ _
  | .shflUp _ m _ _ _ | .shflDown _ m _ _ _ | .shflXor _ m _ _ _ | .fabs _ m _ _ | .fneg _ m _ _
  | .frcp _ m _ _ | .frsq _ m _ _ | .fsqrt _ m _ _ | .fexp2 _ m _ _ | .flog2 _ m _ _ | .fsin _ m _ _
  | .fcos _ m _ _ | .ftanh _ m _ _ | .unpk _ m _ _ _
  | .atomAddW32 _ m _ _ _ | .atomMinW32 _ m _ _ _ | .atomMaxW32 _ m _ _ _ | .atomAndW32 _ m _ _ _
  | .atomOrW32 _ m _ _ _ | .atomXorW32 _ m _ _ _ | .atomXchgW32 _ m _ _ _ | .atomF32 _ m _ _ _ => m.ok
  | .atomAddW64 _ m d _ _ | .atomMinW64 _ m d _ _ | .atomMaxW64 _ m d _ _ | .atomAndW64 _ m d _ _
  | .atomOrW64 _ m d _ _ | .atomXorW64 _ m d _ _ | .atomXchgW64 _ m d _ _ => m.ok && Reg.even d
  | .sreadScalar _ r => r != .laneid
  | .frnd _ m mode _ _ => m.ok && (!mode.getLsbD 3 || mode.setWidth 3 == 0)
  | .tseed _ j _ _ _ | .tget _ j _ _ | .tset _ j _ _ | .tzero _ j _ => 1 ≤ j.toNat && j.toNat ≤ 4
  | .fcvt _ dst src _ _ => fmtClass dst == .float && fmtClass src == .float
  | .icvt _ dst src _ a => fmtClass dst == .float && fmtClass src == .int && (!fmt64 src || Reg.even a)
  | .ftoi _ dst src d _ => fmtClass dst == .int && fmtClass src == .float && (!fmt64 dst || Reg.even d)
  | .ld _ w _ _ d _ _ | .st _ w _ _ d _ _ | .lds _ w d _ _ | .sts _ w d _ _ => pairOk w d
  | .ldr _ _ w d a _ | .str _ _ w d a _ => pairOk w d && Reg.even a
  | .acasW64 _ d _ _ c => Reg.even d && Reg.even c
  | .tfind _ d a _ | .tins _ d a _ | .trepl _ d a _ | .tdel _ d a _ | .tfindQ _ d a _ | .tinsQ _ d a _
  | .treplQ _ d a _ | .tdelQ _ d a _ => Reg.even d && Reg.even a
  | .tscan _ _ a _ c => Reg.even a && Reg.even c
  | .tnext _ _ n1 d _ => Reg.even d && (d.toNat + 4 * (n1.toNat + 1) ≤ 32)
  | .cpyIn _ _ _ b | .cpyOut _ _ _ b | .cpyRem _ _ _ b => b.toNat ≤ 28
  | .amrow _ _ d _ => d.toNat ≤ 28
  | .barArv c _ | .barWt c _ | .barSync c | .barArm c _ | .barTst c _ => barCode c
  | .regroup _ _ a b => a.toNat ≤ b.toNat
  | .kvapp _ _ _ b => b.toNat ≤ 29
  | .qpost _ c _ _ b => b.toNat ≤ 30 && barOrNone c
  | .qget _ _ d _ _ => d.toNat ≤ 26
  | .xmerge _ d a b => d.toNat ≤ 26 && a.toNat ≤ 26 && b.toNat ≤ 26
  | .tsend _ c a b | .trecv _ c a b | .ared _ c a b => a.toNat ≤ 30 && b.toNat ≤ 30 && barOrNone c
  | .ratom _ w64 op d _ b => b.toNat ≤ 30 && (!w64 || (Reg.even d && op != .f32))
  | .mov16bit d b => d != 0 || b != 0
  | .pageWalk _ (some cu) _ _ => cu.toNat < 40
  | .halt p | .resume p | .step p _ | .dump p | .snapshot p => p.ok
  | .registerWrite (.dbgSlot p _) | .registerWrite (.dbgRefusedClear p) | .registerWrite (.debugWp p _ _ _ _ _ _) => p.ok
  | .functionReady (.clu n) => n.toNat < 20
  | .clearSequence n => n < 20
  | .bridleFlitReplay l | .bridleLaneLoss l | .bridleRetrainTimeout l => l.toNat < 6
  | _ => true

end Sys2Proof
end

