-- ==== Sys2Proof/Decode.lean ====
section
/-! DEFINITION. Decoding of the bytes of an instruction, total and rejecting by name, and the encoder, both written from
the encodings of 01_base_machine.md R25 to R37. -/

namespace Sys2Proof

/-- Why bytes hold no instruction. -/
inductive DecodeError where
  /-- Fewer bytes than the first halfword's length bit asks for (R25). -/
  | short
  /-- No instruction is assigned, or a field that must be 0 is not (R26, R29, R31, R32). -/
  | reserved
  /-- The instruction is assigned, but an operand field breaks a rule of its entry. -/
  | operand
  deriving DecidableEq, Repr

/-- A 32-bit word cut into the fields of format S (R28), field c into its bits [26:25] and [24:22]. -/
structure Fields where
  g : BitVec 3
  mod : BitVec 2
  cHi : BitVec 2
  func : BitVec 3
  b : BitVec 5
  a : BitVec 5
  d : BitVec 5
  maj : BitVec 6
  deriving DecidableEq, Repr

/-- The fields of a word. -/
def Fields.ofWord (w : BitVec 32) : Fields :=
  { g := BitVec.ofNat 3 (w.toNat / 2 ^ 29), mod := BitVec.ofNat 2 (w.toNat / 2 ^ 27),
    cHi := BitVec.ofNat 2 (w.toNat / 2 ^ 25), func := BitVec.ofNat 3 (w.toNat / 2 ^ 22),
    b := BitVec.ofNat 5 (w.toNat / 2 ^ 17), a := BitVec.ofNat 5 (w.toNat / 2 ^ 12),
    d := BitVec.ofNat 5 (w.toNat / 2 ^ 7), maj := BitVec.ofNat 6 (w.toNat / 2) }

/-- The word of the fields, bit 0 set (R25, R28). -/
def Fields.toWord (f : Fields) : BitVec 32 :=
  BitVec.ofNat 32 (f.g.toNat * 2 ^ 29 + f.mod.toNat * 2 ^ 27 + f.cHi.toNat * 2 ^ 25 + f.func.toNat * 2 ^ 22
    + f.b.toNat * 2 ^ 17 + f.a.toNat * 2 ^ 12 + f.d.toNat * 2 ^ 7 + f.maj.toNat * 2 + 1)

/-- Field c, bits [26:22]. -/
def Fields.c (f : Fields) : BitVec 5 := f.cHi ++ f.func
/-- Bit 28. -/
def Fields.ub (f : Fields) : Bool := f.mod.getLsbD 1
/-- Bit 27. -/
def Fields.ua (f : Fields) : Bool := f.mod.getLsbD 0
/-- Bit 26. -/
def Fields.lb (f : Fields) : Bool := f.cHi.getLsbD 1
/-- Bit 25. -/
def Fields.la (f : Fields) : Bool := f.cHi.getLsbD 0
/-- The marks of two sources (format A). -/
def Fields.marks2 (f : Fields) : Marks2 := { ub := f.ub, ua := f.ua, lb := f.lb, la := f.la }
/-- The marks of source a (format A). -/
def Fields.marks1 (f : Fields) : Marks1 := { ua := f.ua, la := f.la }

/-- Bits [28:27] of marks. -/
def Marks2.u (m : Marks2) : BitVec 2 := BitVec.ofBool m.ub ++ BitVec.ofBool m.ua
/-- Bits [26:25] of marks. -/
def Marks2.l (m : Marks2) : BitVec 2 := BitVec.ofBool m.lb ++ BitVec.ofBool m.la
/-- Bits [28:27] of marks on source a. -/
def Marks1.u (m : Marks1) : BitVec 2 := (0 : BitVec 1) ++ BitVec.ofBool m.ua
/-- Bits [26:25] of marks on source a. -/
def Marks1.l (m : Marks1) : BitVec 2 := (0 : BitVec 1) ++ BitVec.ofBool m.la
/-- A flag in a 5-bit field. -/
def bit5 (x : Bool) : BitVec 5 := (BitVec.ofBool x).setWidth 5

/-- Width codes (R36). -/
def width (c : BitVec 2) : Width := match c.toNat with | 0 => .w8 | 1 => .w16 | 2 => .w32 | _ => .w64
/-- Width codes (R36) in a 3-bit field. -/
def Width.code : Width → BitVec 3 | .w8 => 0 | .w16 => 1 | .w32 => 2 | .w64 => 3
/-- Scope codes (R36); 12 to 15 are not assigned. -/
def scope (c : BitVec 4) : Option Scope :=
  match c.toNat with
  | 0 => some .lane | 1 => some .grp | 2 => some .blk | 3 => some .cu | 4 => some .clu | 5 => some .die
  | 6 => some .dev | 7 => some .mem | 8 => some .host | 9 => some .peer | 10 => some .pod | 11 => some .fab
  | _ => none
/-- Scope codes (R36). -/
def Scope.code : Scope → BitVec 4
  | .lane => 0 | .grp => 1 | .blk => 2 | .cu => 3 | .clu => 4 | .die => 5
  | .dev => 6 | .mem => 7 | .host => 8 | .peer => 9 | .pod => 10 | .fab => 11
/-- ICMP conditions (R32, R87). -/
def icond (c : BitVec 3) : ICond :=
  match c.toNat with
  | 0 => .eq | 1 => .ne | 2 => .lt | 3 => .le | 4 => .gt | 5 => .ge | 6 => .ltn | _ => .gen
/-- ICMP conditions (R32, R87). -/
def ICond.code : ICond → BitVec 3
  | .eq => 0 | .ne => 1 | .lt => 2 | .le => 3 | .gt => 4 | .ge => 5 | .ltn => 6 | .gen => 7
/-- ICMPI conditions (R88). -/
def icond4 (c : BitVec 2) : ICond4 := match c.toNat with | 0 => .eq | 1 => .ne | 2 => .lt | _ => .ge
/-- ICMPI conditions (R88). -/
def ICond4.code : ICond4 → BitVec 2 | .eq => 0 | .ne => 1 | .lt => 2 | .ge => 3
/-- FCMP conditions (R32, R115). -/
def fcond (c : BitVec 3) : FCond :=
  match c.toNat with
  | 0 => .eq | 1 => .ne | 2 => .lt | 3 => .le | 4 => .gt | 5 => .ge | 6 => .un | _ => .ord
/-- FCMP conditions (R32, R115). -/
def FCond.code : FCond → BitVec 3
  | .eq => 0 | .ne => 1 | .lt => 2 | .le => 3 | .gt => 4 | .ge => 5 | .un => 6 | .ord => 7
/-- Special register ids (R85). -/
def specReg (c : BitVec 5) : Option SpecReg :=
  match c.toNat with
  | 0 => some .laneid | 1 => some .grpidx | 2 => some .ngrp | 3 => some .blkx | 4 => some .blky | 5 => some .blkz
  | 6 => some .gridx | 7 => some .gridy | 8 => some .gridz | 9 => some .gst | 10 => some .place | 11 => some .clk
  | 12 => some .launchid | 13 => some .devid | _ => none
/-- Special register ids (R85). -/
def SpecReg.code : SpecReg → BitVec 5
  | .laneid => 0 | .grpidx => 1 | .ngrp => 2 | .blkx => 3 | .blky => 4 | .blkz => 5 | .gridx => 6 | .gridy => 7
  | .gridz => 8 | .gst => 9 | .place => 10 | .clk => 11 | .launchid => 12 | .devid => 13
/-- System register ids (R341). -/
def sysReg (c : BitVec 5) : Option SysReg :=
  match c.toNat with
  | 0 => some .tcause | 1 => some .taddr | 2 => some .tmask | 3 => some .tepc | 4 => some .tem | 5 => some .tstate
  | 6 => some .cst | _ => none
/-- System register ids (R341), in a 3-bit field. -/
def SysReg.code : SysReg → BitVec 3
  | .tcause => 0 | .taddr => 1 | .tmask => 2 | .tepc => 3 | .tem => 4 | .tstate => 5 | .cst => 6
/-- Watchpoint kinds (R340). -/
def wpKind (c : BitVec 2) : WpKind := match c.toNat with | 0 => .rd | 1 => .wr | 2 => .rw | _ => .key
/-- Watchpoint kinds (R340), in a 3-bit field. -/
def WpKind.code : WpKind → BitVec 3 | .rd => 0 | .wr => 1 | .rw => 2 | .key => 3
/-- Work-hierarchy levels (R185). -/
def level (c : BitVec 5) : Option Level :=
  match c.toNat with | 0 => some .launch | 1 => some .graph | 2 => some .phase | 3 => some .job | _ => none
/-- Work-hierarchy levels (R185), in a 3-bit field. -/
def Level.code : Level → BitVec 3 | .launch => 0 | .graph => 1 | .phase => 2 | .job => 3
/-- TSTAT selectors (R253). -/
def statSel (c : BitVec 5) : Option StatSel :=
  match c.toNat with
  | 0 => some .rows | 1 => some .height | 2 => some .splits | 3 => some .merges | 4 => some .freeSlots
  | 5 => some .freeNodes | _ => none
/-- TSTAT selectors (R253), in a 3-bit field. -/
def StatSel.code : StatSel → BitVec 3
  | .rows => 0 | .height => 1 | .splits => 2 | .merges => 3 | .freeSlots => 4 | .freeNodes => 5
/-- ATOM and RATOM operations (R239, R397). -/
def atomOp (c : BitVec 3) : AtomOp :=
  match c.toNat with
  | 0 => .add | 1 => .min | 2 => .max | 3 => .and | 4 => .or | 5 => .xor | 6 => .xchg | _ => .f32
/-- ATOM and RATOM operations (R239, R397). -/
def AtomOp.code : AtomOp → BitVec 3
  | .add => 0 | .min => 1 | .max => 2 | .and => 3 | .or => 4 | .xor => 5 | .xchg => 6 | .f32 => 7

/-- Major 0x1D by the classes of its two format codes (R34). -/
def decodeConv (f : Fields) : Option Instr :=
  let src : BitVec 6 := f.func.setWidth 1 ++ f.b
  let dst : BitVec 6 := f.mod ++ f.cHi ++ f.func.extractLsb' 1 2
  match fmtClass src, fmtClass dst with
  | .float, .float => some (.fcvt f.g dst src f.d f.a)
  | .int, .float => some (.icvt f.g dst src f.d f.a)
  | .float, .int => some (.ftoi f.g dst src f.d f.a)
  | _, _ => none

/-- Major 0x16 func 7: the one-source lane sub-ops by field b (R33). -/
def decodeLaneOp (f : Fields) : Option Instr :=
  if f.mod ≠ 0 ∨ f.cHi ≠ 0 then none else
  match f.b.toNat with
  | 0 => if f.d.toNat < 8 ∧ f.a.toNat < 8 then some (.knot f.g (f.d.setWidth 3) (f.a.setWidth 3)) else none
  | 1 => if f.d.toNat < 8 ∧ f.a.toNat < 8 then some (.kmov f.g (f.d.setWidth 3) (f.a.setWidth 3)) else none
  | 2 => if f.d.toNat < 8 then some (.kfroms f.g (f.d.setWidth 3) f.a) else none
  | 3 => if f.g = 0 ∧ f.a.toNat < 8 then some (.ktos f.d (f.a.setWidth 3)) else none
  | 4 => if f.a = 0 then some (.emget f.g f.d) else none
  | 5 => if f.g = 0 ∧ f.d = 0 then some (.emset f.a) else none
  | 6 => if f.d.toNat < 8 ∧ f.a.toNat < 8 then some (.voteAny f.g (f.d.setWidth 3) (f.a.setWidth 3)) else none
  | 7 => if f.d.toNat < 8 ∧ f.a.toNat < 8 then some (.voteAll f.g (f.d.setWidth 3) (f.a.setWidth 3)) else none
  | 8 => if f.a.toNat < 8 then some (.voteBal f.g f.d (f.a.setWidth 3)) else none
  | 9 => if f.a = 0 ∧ f.d.toNat < 8 then some (.elect f.g (f.d.setWidth 3)) else none
  | 10 => some (.lscan f.g f.d f.a)
  | 11 => some (.reduxAdd f.g f.d f.a)
  | 12 => some (.reduxMin f.g f.d f.a)
  | 13 => some (.reduxMax f.g f.d f.a)
  | 14 => some (.reduxAnd f.g f.d f.a)
  | 15 => some (.reduxOr f.g f.d f.a)
  | 16 => some (.reduxXor f.g f.d f.a)
  | _ => none

/-- Format A major 0x03 (R32). -/
def decodeA03 (f : Fields) : Option Instr :=
  match f.func.toNat with
  | 0 => if f.g = 0 ∧ f.mod = 0 ∧ f.cHi = 0 ∧ f.b = 0 ∧ f.d = 0 then some (.bri f.a) else none
  | 1 => if f.g = 0 ∧ f.mod = 0 ∧ f.cHi = 0 ∧ f.b = 0 ∧ f.d = 0 then some (.calli f.a) else none
  | 2 => if f.g = 0 ∧ f.mod = 0 ∧ f.cHi = 0 ∧ f.b = 0 ∧ f.a = 0 ∧ f.d = 0 then some (.ret) else none
  | 3 => if f.g = 0 ∧ f.mod = 0 ∧ f.cHi = 0 ∧ f.b = 0 ∧ f.a = 0 ∧ f.d = 0 then some (.endFrag) else none
  | 4 => if f.g = 0 ∧ f.mod = 0 ∧ f.cHi = 0 ∧ f.d = 0 then some (.trap (f.b ++ f.a)) else none
  | 5 => if f.g = 0 ∧ f.mod = 0 ∧ f.cHi = 0 ∧ f.b = 0 ∧ f.a = 0 ∧ f.d = 0 then some (.eret) else none
  | 6 => if f.g = 0 ∧ f.mod = 0 ∧ f.cHi = 0 ∧ f.b = 0 ∧ f.a = 0 ∧ f.d = 0 then some (.eretSkip) else none
  | 7 => if f.g = 0 ∧ f.mod = 0 ∧ f.cHi = 0 ∧ f.b = 0 ∧ f.a = 0 ∧ f.d.toNat < 4 then some (.wpclr (f.d.setWidth 2)) else none
  | _ => none

/-- Format A major 0x08 (R32). -/
def decodeA08 (f : Fields) : Option Instr :=
  match f.func.toNat with
  | 0 => some (.add f.g f.marks2 f.d f.a f.b)
  | 1 => some (.sub f.g f.marks2 f.d f.a f.b)
  | 2 => some (.mul f.g f.marks2 f.d f.a f.b)
  | 3 => some (.mulhi f.g f.marks2 f.d f.a f.b)
  | 4 => some (.imin f.g f.marks2 f.d f.a f.b)
  | 5 => some (.imax f.g f.marks2 f.d f.a f.b)
  | 6 => if f.ub = false ∧ f.lb = false ∧ f.b = 0 then some (.iabs f.g f.marks1 f.d f.a) else none
  | 7 => if f.ub = false ∧ f.lb = false ∧ f.b = 0 then some (.popc f.g f.marks1 f.d f.a) else none
  | _ => none

/-- Format A major 0x09 (R32). -/
def decodeA09 (f : Fields) : Option Instr :=
  match f.func.toNat with
  | 0 => some (.and f.g f.marks2 f.d f.a f.b)
  | 1 => some (.or f.g f.marks2 f.d f.a f.b)
  | 2 => some (.xor f.g f.marks2 f.d f.a f.b)
  | 3 => some (.andn f.g f.marks2 f.d f.a f.b)
  | 4 => some (.shl f.g f.marks2 f.d f.a f.b)
  | 5 => some (.shr f.g f.marks2 f.d f.a f.b)
  | 6 => some (.sar f.g f.marks2 f.d f.a f.b)
  | 7 => some (.rotl f.g f.marks2 f.d f.a f.b)
  | _ => none

/-- Format A major 0x0A (R32). -/
def decodeA0A (f : Fields) : Option Instr :=
  match f.func.toNat with
  | 0 => if f.ub = false ∧ f.lb = false ∧ f.b = 0 then some (.clz f.g f.marks1 f.d f.a) else none
  | 1 => if f.ub = false ∧ f.lb = false ∧ f.b = 0 then some (.brev f.g f.marks1 f.d f.a) else none
  | 2 => some (.addc f.g f.marks2 f.d f.a f.b)
  | 3 => some (.subb f.g f.marks2 f.d f.a f.b)
  | 4 => if f.ub = false ∧ f.lb = false ∧ f.b = 0 then some (.mov f.g f.marks1 f.d f.a) else none
  | 5 => if f.mod = 0 ∧ f.cHi = 0 ∧ f.b = 0 then some (.bcast f.g f.d f.a) else none
  | 6 => if f.ub = false ∧ f.lb = false then some (.laneget f.g f.marks1 f.d f.a f.b) else none
  | 7 => match specReg f.a with | some r => if f.mod = 0 ∧ f.cHi = 0 ∧ f.b = 0 then some (.sread f.g f.d r) else none | none => none
  | _ => none

/-- Format A major 0x10 (R32). -/
def decodeA10 (f : Fields) : Option Instr :=
  match f.func.toNat with
  | 0 => if f.g = 0 ∧ f.mod = 0 ∧ f.cHi = 0 then some (.addScalar f.d f.a f.b) else none
  | 1 => if f.g = 0 ∧ f.mod = 0 ∧ f.cHi = 0 then some (.subScalar f.d f.a f.b) else none
  | 2 => if f.g = 0 ∧ f.mod = 0 ∧ f.cHi = 0 then some (.mulScalar f.d f.a f.b) else none
  | 3 => if f.g = 0 ∧ f.mod = 0 ∧ f.cHi = 0 then some (.mulhiScalar f.d f.a f.b) else none
  | 4 => if f.g = 0 ∧ f.mod = 0 ∧ f.cHi = 0 then some (.iminScalar f.d f.a f.b) else none
  | 5 => if f.g = 0 ∧ f.mod = 0 ∧ f.cHi = 0 then some (.imaxScalar f.d f.a f.b) else none
  | 6 => if f.g = 0 ∧ f.mod = 0 ∧ f.cHi = 0 ∧ f.b = 0 then some (.movScalar f.d f.a) else none
  | 7 => match specReg f.a with | some r => if f.g = 0 ∧ f.mod = 0 ∧ f.cHi = 0 ∧ f.b = 0 then some (.sreadScalar f.d r) else none | none => none
  | _ => none

/-- Format A major 0x11 (R32). -/
def decodeA11 (f : Fields) : Option Instr :=
  match f.func.toNat with
  | 0 => if f.g = 0 ∧ f.mod = 0 ∧ f.cHi = 0 then some (.andScalar f.d f.a f.b) else none
  | 1 => if f.g = 0 ∧ f.mod = 0 ∧ f.cHi = 0 then some (.orScalar f.d f.a f.b) else none
  | 2 => if f.g = 0 ∧ f.mod = 0 ∧ f.cHi = 0 then some (.xorScalar f.d f.a f.b) else none
  | 3 => if f.g = 0 ∧ f.mod = 0 ∧ f.cHi = 0 then some (.andnScalar f.d f.a f.b) else none
  | 4 => if f.g = 0 ∧ f.mod = 0 ∧ f.cHi = 0 then some (.shlScalar f.d f.a f.b) else none
  | 5 => if f.g = 0 ∧ f.mod = 0 ∧ f.cHi = 0 then some (.shrScalar f.d f.a f.b) else none
  | 6 => if f.g = 0 ∧ f.mod = 0 ∧ f.cHi = 0 then some (.sarScalar f.d f.a f.b) else none
  | 7 => if f.g = 0 ∧ f.mod = 0 ∧ f.cHi = 0 then some (.rotlScalar f.d f.a f.b) else none
  | _ => none

/-- Format A major 0x16 (R32). -/
def decodeA16 (f : Fields) : Option Instr :=
  match f.func.toNat with
  | 0 => if f.mod = 0 ∧ f.cHi = 0 ∧ f.d.toNat < 8 ∧ f.a.toNat < 8 ∧ f.b.toNat < 8 then some (.kand f.g (f.d.setWidth 3) (f.a.setWidth 3) (f.b.setWidth 3)) else none
  | 1 => if f.mod = 0 ∧ f.cHi = 0 ∧ f.d.toNat < 8 ∧ f.a.toNat < 8 ∧ f.b.toNat < 8 then some (.kor f.g (f.d.setWidth 3) (f.a.setWidth 3) (f.b.setWidth 3)) else none
  | 2 => if f.mod = 0 ∧ f.cHi = 0 ∧ f.d.toNat < 8 ∧ f.a.toNat < 8 ∧ f.b.toNat < 8 then some (.kxor f.g (f.d.setWidth 3) (f.a.setWidth 3) (f.b.setWidth 3)) else none
  | 3 => some (.shflIdx f.g f.marks2 f.d f.a f.b)
  | 4 => if f.ub = false ∧ f.lb = false then some (.shflUp f.g f.marks1 f.d f.a f.b) else none
  | 5 => if f.ub = false ∧ f.lb = false then some (.shflDown f.g f.marks1 f.d f.a f.b) else none
  | 6 => if f.ub = false ∧ f.lb = false then some (.shflXor f.g f.marks1 f.d f.a f.b) else none
  | 7 => decodeLaneOp f
  | _ => none

/-- Format A major 0x18 (R32). -/
def decodeA18 (f : Fields) : Option Instr :=
  match f.func.toNat with
  | 0 => some (.fadd f.g f.marks2 f.d f.a f.b)
  | 1 => some (.fsub f.g f.marks2 f.d f.a f.b)
  | 2 => some (.fmul f.g f.marks2 f.d f.a f.b)
  | 3 => some (.fmin f.g f.marks2 f.d f.a f.b)
  | 4 => some (.fmax f.g f.marks2 f.d f.a f.b)
  | 5 => if f.ub = false ∧ f.lb = false ∧ f.b = 0 then some (.fabs f.g f.marks1 f.d f.a) else none
  | 6 => if f.ub = false ∧ f.lb = false ∧ f.b = 0 then some (.fneg f.g f.marks1 f.d f.a) else none
  | 7 => if f.ub = false ∧ f.lb = false ∧ f.b.toNat < 16 then some (.frnd f.g f.marks1 (f.b.setWidth 4) f.d f.a) else none
  | _ => none

/-- Format A major 0x1B (R32). -/
def decodeA1B (f : Fields) : Option Instr :=
  match f.func.toNat with
  | 0 => if f.ub = false ∧ f.lb = false ∧ f.b = 0 then some (.frcp f.g f.marks1 f.d f.a) else none
  | 1 => if f.ub = false ∧ f.lb = false ∧ f.b = 0 then some (.frsq f.g f.marks1 f.d f.a) else none
  | 2 => if f.ub = false ∧ f.lb = false ∧ f.b = 0 then some (.fsqrt f.g f.marks1 f.d f.a) else none
  | 3 => if f.ub = false ∧ f.lb = false ∧ f.b = 0 then some (.fexp2 f.g f.marks1 f.d f.a) else none
  | 4 => if f.ub = false ∧ f.lb = false ∧ f.b = 0 then some (.flog2 f.g f.marks1 f.d f.a) else none
  | 5 => if f.ub = false ∧ f.lb = false ∧ f.b = 0 then some (.fsin f.g f.marks1 f.d f.a) else none
  | 6 => if f.ub = false ∧ f.lb = false ∧ f.b = 0 then some (.fcos f.g f.marks1 f.d f.a) else none
  | 7 => if f.ub = false ∧ f.lb = false ∧ f.b = 0 then some (.ftanh f.g f.marks1 f.d f.a) else none
  | _ => none

/-- Format A major 0x1C (R32). -/
def decodeA1C (f : Fields) : Option Instr :=
  match f.func.toNat with
  | 0 => some (.hadd2 f.g f.marks2 f.d f.a f.b)
  | 1 => some (.hmul2 f.g f.marks2 f.d f.a f.b)
  | 2 => some (.fldexp f.g f.marks2 f.d f.a f.b)
  | 3 => some (.pack f.g f.marks2 f.d f.a f.b)
  | 4 => if f.ub = false ∧ f.lb = false then some (.unpk f.g f.marks1 f.d f.a f.b) else none
  | 5 => if f.g = 0 ∧ f.mod = 0 ∧ f.cHi = 0 ∧ f.d = 0 then some (.fmtset f.a f.b) else none
  | 6 => if f.g = 0 ∧ f.mod = 0 ∧ f.cHi = 0 ∧ f.b = 0 ∧ f.a = 0 then some (.fmtget f.d) else none
  | _ => none

/-- Format A major 0x21 (R32). -/
def decodeA21 (f : Fields) : Option Instr :=
  match f.func.toNat with
  | 0 => if f.g = 0 ∧ f.mod = 0 ∧ f.cHi = 0 ∧ f.b = 0 ∧ f.a = 0 then some (.tcnt f.d) else none
  | _ => none

/-- Format A major 0x28 (R32). -/
def decodeA28 (f : Fields) : Option Instr :=
  match f.func.toNat with
  | 0 => if f.ub = false ∧ f.lb = false then some (.atomAddW32 f.g f.marks1 f.d f.a f.b) else none
  | 1 => if f.ub = false ∧ f.lb = false then some (.atomMinW32 f.g f.marks1 f.d f.a f.b) else none
  | 2 => if f.ub = false ∧ f.lb = false then some (.atomMaxW32 f.g f.marks1 f.d f.a f.b) else none
  | 3 => if f.ub = false ∧ f.lb = false then some (.atomAndW32 f.g f.marks1 f.d f.a f.b) else none
  | 4 => if f.ub = false ∧ f.lb = false then some (.atomOrW32 f.g f.marks1 f.d f.a f.b) else none
  | 5 => if f.ub = false ∧ f.lb = false then some (.atomXorW32 f.g f.marks1 f.d f.a f.b) else none
  | 6 => if f.ub = false ∧ f.lb = false then some (.atomXchgW32 f.g f.marks1 f.d f.a f.b) else none
  | 7 => if f.ub = false ∧ f.lb = false then some (.atomF32 f.g f.marks1 f.d f.a f.b) else none
  | _ => none

/-- Format A major 0x29 (R32). -/
def decodeA29 (f : Fields) : Option Instr :=
  match f.func.toNat with
  | 0 => if f.ub = false ∧ f.lb = false then some (.atomAddW64 f.g f.marks1 f.d f.a f.b) else none
  | 1 => if f.ub = false ∧ f.lb = false then some (.atomMinW64 f.g f.marks1 f.d f.a f.b) else none
  | 2 => if f.ub = false ∧ f.lb = false then some (.atomMaxW64 f.g f.marks1 f.d f.a f.b) else none
  | 3 => if f.ub = false ∧ f.lb = false then some (.atomAndW64 f.g f.marks1 f.d f.a f.b) else none
  | 4 => if f.ub = false ∧ f.lb = false then some (.atomOrW64 f.g f.marks1 f.d f.a f.b) else none
  | 5 => if f.ub = false ∧ f.lb = false then some (.atomXorW64 f.g f.marks1 f.d f.a f.b) else none
  | 6 => if f.ub = false ∧ f.lb = false then some (.atomXchgW64 f.g f.marks1 f.d f.a f.b) else none
  | _ => none

/-- Format A major 0x2C (R32). -/
def decodeA2C (f : Fields) : Option Instr :=
  match f.func.toNat with
  | 0 => if f.mod = 0 ∧ f.cHi = 0 then some (.tfind f.g f.d f.a f.b) else none
  | 1 => if f.mod = 0 ∧ f.cHi = 0 then some (.tins f.g f.d f.a f.b) else none
  | 2 => if f.mod = 0 ∧ f.cHi = 0 then some (.trepl f.g f.d f.a f.b) else none
  | 3 => if f.mod = 0 ∧ f.cHi = 0 then some (.tdel f.g f.d f.a f.b) else none
  | 4 => if f.mod = 0 ∧ f.cHi = 0 then some (.tfindQ f.g f.d f.a f.b) else none
  | 5 => if f.mod = 0 ∧ f.cHi = 0 then some (.tinsQ f.g f.d f.a f.b) else none
  | 6 => if f.mod = 0 ∧ f.cHi = 0 then some (.treplQ f.g f.d f.a f.b) else none
  | 7 => if f.mod = 0 ∧ f.cHi = 0 then some (.tdelQ f.g f.d f.a f.b) else none
  | _ => none

/-- Format A major 0x2E (R32). -/
def decodeA2E (f : Fields) : Option Instr :=
  match f.func.toNat with
  | 0 => if f.g = 0 ∧ f.mod = 0 ∧ f.cHi = 0 ∧ f.b = 0 ∧ f.a = 0 ∧ f.d = 0 then some (.txb) else none
  | 1 => if f.g = 0 ∧ f.mod = 0 ∧ f.cHi = 0 ∧ f.b = 0 ∧ f.a = 0 then some (.txc f.d) else none
  | 2 => if f.g = 0 ∧ f.mod = 0 ∧ f.cHi = 0 ∧ f.b = 0 ∧ f.a = 0 ∧ f.d = 0 then some (.txa) else none
  | 3 => if f.g = 0 ∧ f.mod = 0 ∧ f.cHi = 0 ∧ f.b = 0 ∧ f.a = 0 then some (.txst f.d) else none
  | _ => none

/-- Format A major 0x32 (R32). -/
def decodeA32 (f : Fields) : Option Instr :=
  match f.func.toNat with
  | 0 => if f.mod = 0 ∧ f.cHi = 0 ∧ f.b = 0 ∧ f.d.toNat < 16 then some (.amld f.g (f.d.setWidth 4) f.a) else none
  | 1 => if f.mod = 0 ∧ f.cHi = 0 ∧ f.b = 0 ∧ f.d.toNat < 16 then some (.amst f.g (f.d.setWidth 4) f.a) else none
  | 2 => if f.mod = 0 ∧ f.cHi = 0 ∧ f.b = 0 ∧ f.a = 0 ∧ f.d.toNat < 16 then some (.amzero f.g (f.d.setWidth 4)) else none
  | 3 => if f.mod = 0 ∧ f.cHi = 0 ∧ f.a.toNat < 16 then some (.amrow f.g (f.a.setWidth 4) f.d f.b) else none
  | 4 => if f.d.toNat < 16 then some (.amscl f.g f.marks2 (f.d.setWidth 4) f.a f.b) else none
  | 5 => if f.mod = 0 ∧ f.cHi = 0 ∧ f.d.toNat < 16 then some (.drainSt f.g (f.d.setWidth 4) f.a f.b) else none
  | 6 => if f.mod = 0 ∧ f.cHi = 0 ∧ f.d.toNat < 16 then some (.drainAdd f.g (f.d.setWidth 4) f.a f.b) else none
  | _ => none

/-- Format A major 0x37 (R32). -/
def decodeA37 (f : Fields) : Option Instr :=
  match f.func.toNat with
  | 0 => if f.g = 0 ∧ f.mod = 0 ∧ f.cHi = 0 ∧ f.b = 0 then some (.barTst f.a f.d) else none
  | 1 => if f.g = 0 then some (.regroup (f.mod ++ f.cHi) f.d f.a f.b) else none
  | 2 => if f.g = 0 ∧ f.mod = 0 ∧ f.cHi = 0 then some (.rqxfer f.d f.a f.b) else none
  | 3 => if f.g = 0 ∧ f.mod = 0 ∧ f.cHi = 0 ∧ f.b = 0 ∧ f.a = 0 then some (.rqget f.d) else none
  | 4 => if f.g = 0 ∧ f.mod = 0 ∧ f.cHi = 0 ∧ f.b = 0 ∧ f.d = 0 then some (.roleset f.a) else none
  | 5 => if f.g = 0 ∧ f.mod = 0 ∧ f.cHi = 0 ∧ f.b = 0 ∧ f.a = 0 then some (.roleget f.d) else none
  | _ => none

/-- Format A major 0x39 (R32). -/
def decodeA39 (f : Fields) : Option Instr :=
  match f.func.toNat with
  | 0 => if f.mod = 0 ∧ f.cHi = 0 then some (.xmerge f.g f.d f.a f.b) else none
  | _ => none

/-- Major 0x06 (R32). -/
def decodeS06 (f : Fields) : Option Instr :=
  match f.mod.toNat with
  | 0 => if f.g = 0 ∧ f.b.toNat < 2 ∧ f.a.toNat < 2 then some (.pushm f.c (f.b.getLsbD 0) (f.a.getLsbD 0) f.d) else none
  | 1 => if f.g = 0 ∧ f.b.toNat < 2 ∧ f.a = 0 then some (.popm f.c (f.b.getLsbD 0) f.d) else none
  | 2 => if f.g = 0 ∧ f.c = 0 ∧ f.b = 0 ∧ f.a = 0 then some (.spget f.d) else none
  | 3 => if f.g = 0 ∧ f.c = 0 ∧ f.b = 0 ∧ f.d = 0 then some (.spset f.a) else none
  | _ => none

/-- Major 0x07 (R32). -/
def decodeS07 (f : Fields) : Option Instr :=
  match f.mod.toNat with
  | 0 => match sysReg f.c with | some r => if f.g = 0 ∧ f.b = 0 ∧ f.a = 0 then some (.sysrd r f.d) else none | none => none
  | 1 => match sysReg f.c with | some r => if f.g = 0 ∧ f.b = 0 ∧ f.d = 0 then some (.syswr r f.a) else none | none => none
  | 2 => if f.g = 0 ∧ f.c = 0 ∧ f.b = 0 ∧ f.d.toNat < 8 then some (.segld f.a (f.d.setWidth 3)) else none
  | 3 => if f.g = 0 ∧ f.cHi = 0 ∧ f.func.toNat < 4 ∧ f.a.getLsbD 0 = false ∧ f.d.toNat < 4 then some (.wpset (wpKind (f.func.setWidth 2)) f.b (f.a.extractLsb' 1 4) (f.d.setWidth 2)) else none
  | _ => none

/-- Major 0x0B (R32). -/
def decodeS0B (f : Fields) : Option Instr :=
  match f.mod.toNat with
  | 0 => some (.imad f.g f.d f.a f.b f.c)
  | 1 => some (.bfx f.g f.d f.a f.c f.b)
  | 2 => some (.bfi f.g f.d f.a f.c f.b)
  | 3 => if f.cHi = 0 then some (.sel f.g f.d f.a f.b f.func) else none
  | _ => none

/-- Major 0x19 (R32). -/
def decodeS19 (f : Fields) : Option Instr :=
  match f.mod.toNat with
  | 0 => some (.ffma f.g f.d f.a f.b f.c)
  | 1 => some (.hfma2 f.g f.d f.a f.b f.c)
  | 2 => some (.fdot4 f.g f.d f.a f.b f.c)
  | _ => none

/-- Major 0x20 (R32). -/
def decodeS20 (f : Fields) : Option Instr :=
  match f.mod.toNat with
  | 0 => some (.tseed f.g f.c f.d f.a f.b)
  | 1 => if f.b = 0 then some (.tget f.g f.c f.d f.a) else none
  | 2 => if f.a = 0 then some (.tset f.g f.c f.d f.b) else none
  | 3 => if f.b = 0 ∧ f.a = 0 then some (.tzero f.g f.c f.d) else none
  | _ => none

/-- Major 0x22 (R32, R35). -/
def decodeS22 (f : Fields) : Option Instr :=
  if f.g ≠ 0 then none else
  match f.c.toNat with
  | 0 => if f.mod.getLsbD 1 = false ∧ f.a = 0 then some (.scbind ((f.mod.setWidth 1) ++ f.d) f.b) else none
  | 1 => if f.b = 0 then some (.scmov ((f.mod.setWidth 1) ++ f.d) ((f.mod.extractLsb' 1 1) ++ f.a)) else none
  | 2 => if f.mod.getLsbD 1 = false ∧ f.a.toNat < 16 then some (.scset ((f.mod.setWidth 1) ++ f.d) (f.a.setWidth 4) f.b) else none
  | 3 => if f.mod.getLsbD 1 = false ∧ f.a.toNat < 16 then some (.scget ((f.mod.setWidth 1) ++ f.d) (f.a.setWidth 4) f.b) else none
  | 4 => if f.b = 0 then some (.scmul ((f.mod.setWidth 1) ++ f.d) ((f.mod.extractLsb' 1 1) ++ f.a)) else none
  | 5 => if f.b = 0 then some (.scmax ((f.mod.setWidth 1) ++ f.d) ((f.mod.extractLsb' 1 1) ++ f.a)) else none
  | 6 => if f.mod.getLsbD 1 = false ∧ f.b = 0 ∧ f.a = 0 then some (.screl ((f.mod.setWidth 1) ++ f.d)) else none
  | _ => none

/-- Major 0x26 (R32). -/
def decodeS26 (f : Fields) : Option Instr :=
  match f.mod.toNat with
  | 0 => if f.cHi = 0 ∧ f.func.toNat < 4 then some (.lds f.g (width (f.func.setWidth 2)) f.d f.a f.b) else none
  | 1 => if f.cHi = 0 ∧ f.func.toNat < 4 then some (.sts f.g (width (f.func.setWidth 2)) f.d f.a f.b) else none
  | 2 => if f.g = 0 ∧ f.a.toNat < 4 then some (.ldc (width (f.a.setWidth 2)) f.c f.d f.b) else none
  | _ => none

/-- Major 0x27 (R32). -/
def decodeS27 (f : Fields) : Option Instr :=
  match f.mod.toNat with
  | 0 => some (.ldr f.g (f.c.extractLsb' 2 3) (width (f.c.setWidth 2)) f.d f.a f.b)
  | 1 => some (.str f.g (f.c.extractLsb' 2 3) (width (f.c.setWidth 2)) f.d f.a f.b)
  | 2 => if f.g = 0 ∧ f.cHi = 0 ∧ f.a = 0 then some (.qapp f.func f.d f.b) else none
  | 3 => if f.g = 0 ∧ f.cHi = 0 ∧ f.b = 0 then some (.qpop f.func f.d f.a) else none
  | _ => none

/-- Major 0x2A (R32). -/
def decodeS2A (f : Fields) : Option Instr :=
  match f.mod.toNat with
  | 0 => match scope (f.c.extractLsb' 1 4) with | some sc => if f.c.getLsbD 0 = false then some (.arwRd f.g sc f.d f.a f.b) else none | none => none
  | 1 => match scope (f.c.extractLsb' 1 4) with | some sc => if f.c.getLsbD 0 = false then some (.arwRdx f.g sc f.d f.a f.b) else none | none => none
  | 2 => match scope (f.c.extractLsb' 1 4) with | some sc => if f.c.getLsbD 0 = false then some (.arwWr f.g sc f.d f.a f.b) else none | none => none
  | 3 => match scope (f.c.extractLsb' 1 4) with | some sc => if f.c.getLsbD 0 = false then some (.arwWrx f.g sc f.d f.a f.b) else none | none => none
  | _ => none

/-- Major 0x2B (R32). -/
def decodeS2B (f : Fields) : Option Instr :=
  match f.mod.toNat with
  | 0 => some (.acasW32 f.g f.d f.a f.b f.c)
  | 1 => some (.acasW64 f.g f.d f.a f.b f.c)
  | 2 => match scope (f.c.extractLsb' 1 4) with | some sc => if f.g = 0 ∧ f.c.getLsbD 0 = false ∧ f.b = 0 ∧ f.a = 0 ∧ f.d = 0 then some (.fence sc) else none | none => none
  | 3 => if f.g = 0 ∧ f.cHi = 0 ∧ f.a = 0 ∧ f.d = 0 then some (.qfree f.func f.b) else none
  | _ => none

/-- Major 0x2D (R32). -/
def decodeS2D (f : Fields) : Option Instr :=
  match f.mod.toNat with
  | 0 => if f.d.toNat < 4 then some (.tscan f.g (f.d.setWidth 2) f.a f.b f.c) else none
  | 1 => if f.a = 0 then some (.tnext f.g f.cHi f.func f.d f.b) else none
  | 2 => if f.c = 0 ∧ f.b = 0 ∧ f.a = 0 ∧ f.d.toNat < 4 then some (.tclose f.g (f.d.setWidth 2)) else none
  | 3 => match statSel f.c with | some sel => if f.g = 0 ∧ f.a = 0 then some (.tstat sel f.d f.b) else none | none => none
  | _ => none

/-- Major 0x30 (R32). -/
def decodeS30 (f : Fields) : Option Instr :=
  match f.mod.toNat with
  | 0 => if f.c = 0 ∧ f.b = 0 ∧ f.d.toNat < 8 then some (.shape f.g f.a (f.d.setWidth 3)) else none
  | 1 => if f.cHi = 0 ∧ f.d = 0 then some (.cpyIn f.g f.func f.a f.b) else none
  | 2 => if f.cHi = 0 ∧ f.d = 0 then some (.cpyOut f.g f.func f.a f.b) else none
  | 3 => if f.cHi = 0 ∧ f.d = 0 then some (.cpyRem f.g f.func f.a f.b) else none
  | _ => none

/-- Major 0x31 (R32). -/
def decodeS31 (f : Fields) : Option Instr :=
  match f.mod.toNat with
  | 0 => if f.cHi = 0 ∧ f.d.toNat < 16 then some (.mma f.g (f.func.getLsbD 2) (f.func.getLsbD 1) (f.func.getLsbD 0) (f.d.setWidth 4) f.a f.b) else none
  | 1 => if f.cHi = 0 ∧ f.d.toNat < 16 then some (.mmag f.g (f.func.getLsbD 2) (f.func.getLsbD 1) (f.func.getLsbD 0) (f.d.setWidth 4) f.a f.b) else none
  | 2 => if f.cHi = 0 ∧ f.d.toNat < 16 then some (.mmaT f.g (f.func.getLsbD 2) (f.func.getLsbD 1) (f.func.getLsbD 0) (f.d.setWidth 4) f.a f.b) else none
  | 3 => if f.g = 0 ∧ f.c = 0 ∧ f.d = 0 then some (.oprdy f.a f.b) else none
  | _ => none

/-- Major 0x36 (R32). -/
def decodeS36 (f : Fields) : Option Instr :=
  match f.mod.toNat with
  | 0 => if f.g = 0 ∧ f.b = 0 ∧ f.a = 0 then some (.barArv f.c f.d) else none
  | 1 => if f.g = 0 ∧ f.b = 0 ∧ f.d = 0 then some (.barWt f.c f.a) else none
  | 2 => if f.g = 0 ∧ f.b = 0 ∧ f.a = 0 ∧ f.d = 0 then some (.barSync f.c) else none
  | 3 => if f.g = 0 ∧ f.a = 0 ∧ f.d = 0 then some (.barArm f.c f.b) else none
  | _ => none

/-- Major 0x38 (R32). -/
def decodeS38 (f : Fields) : Option Instr :=
  match f.mod.toNat with
  | 0 => if f.c = 0 then some (.kvapp f.g f.d f.a f.b) else if f.c = 1 ∧ f.d = 0 then some (.kvappDrop f.g f.a f.b) else none
  | 1 => some (.qpost f.g f.c f.d f.a f.b)
  | 2 => if f.cHi = 0 then some (.qget f.g f.func f.d f.a f.b) else none
  | 3 => if f.d = 0 then some (.btld f.g f.c f.a f.b) else none
  | _ => none

/-- Major 0x3A (R32). -/
def decodeS3A (f : Fields) : Option Instr :=
  match f.mod.toNat with
  | 0 => if f.g = 0 ∧ f.c = 0 then some (.launch f.d f.a f.b) else none
  | 1 => match level f.c with | some lvl => if f.g = 0 ∧ f.b = 0 then some (.cancel lvl f.d f.a) else none | none => none
  | 2 => match level f.c with | some lvl => if f.g = 0 ∧ f.b = 0 then some (.cntrd lvl f.d f.a) else none | none => none
  | 3 => match level f.c with | some lvl => if f.g = 0 then some (.cntwt lvl f.d f.a f.b) else none | none => none
  | _ => none

/-- Major 0x3C (R32). -/
def decodeS3C (f : Fields) : Option Instr :=
  match f.mod.toNat with
  | 0 => if f.d = 0 then some (.tsend f.g f.c f.a f.b) else none
  | 1 => if f.d = 0 then some (.trecv f.g f.c f.a f.b) else none
  | 3 => if f.d = 0 then some (.ared f.g f.c f.a f.b) else none
  | 2 => if f.cHi.toNat < 2 then some (.ratom f.g (f.cHi.getLsbD 0) (atomOp f.func) f.d f.a f.b) else none
  | _ => none

/-- Which instruction a 32-bit word holds, its must-be-zero fields checked (R29, R31, R32); operand checks follow. -/
def decodeFields (f : Fields) : Option Instr :=
  match f.maj.toNat with
  | 0x01 => some (.bra f.g (f.mod ++ f.c ++ f.b ++ f.a ++ f.d))
  | 0x02 => if f.g = 0 then some (.call (f.mod ++ f.c ++ f.b ++ f.a ++ f.d)) else none
  | 0x03 => decodeA03 f
  | 0x04 => if f.g = 0 then some (.join (f.mod ++ f.c ++ f.b ++ f.a ++ f.d)) else none
  | 0x05 => if f.g ≠ 0 then none else match f.mod.toNat with | 0 => some (.wait f.c f.b f.a f.d) | 1 => some (.waitAny f.c f.b f.a f.d) | _ => none
  | 0x06 => decodeS06 f
  | 0x07 => decodeS07 f
  | 0x08 => decodeA08 f
  | 0x09 => decodeA09 f
  | 0x0A => decodeA0A f
  | 0x0B => decodeS0B f
  | 0x0C => some (.addi f.g (f.mod.getLsbD 1) f.d f.a ((f.mod.setWidth 1) ++ f.c ++ f.b))
  | 0x0D => if f.mod.getLsbD 1 then some (.movhi f.g f.d ((f.mod.setWidth 1) ++ f.c ++ f.b ++ f.a)) else some (.movi f.g f.d ((f.mod.setWidth 1) ++ f.c ++ f.b ++ f.a))
  | 0x10 => decodeA10 f
  | 0x11 => decodeA11 f
  | 0x12 => if f.g = 0 ∧ f.mod.getLsbD 1 = false then some (.addiScalar f.d f.a ((f.mod.setWidth 1) ++ f.c ++ f.b)) else none
  | 0x13 => if f.g ≠ 0 then none else if f.mod.getLsbD 1 then some (.movhiScalar f.d ((f.mod.setWidth 1) ++ f.c ++ f.b ++ f.a)) else some (.moviScalar f.d ((f.mod.setWidth 1) ++ f.c ++ f.b ++ f.a))
  | 0x14 => if f.d.toNat < 8 then some (.icmp f.g f.marks2 (icond f.func) (f.d.setWidth 3) f.a f.b) else none
  | 0x15 => if f.g = 0 ∧ f.mod = 0 ∧ f.cHi = 0 ∧ f.d.toNat < 8 then some (.icmpScalar (icond f.func) (f.d.setWidth 3) f.a f.b) else none
  | 0x16 => decodeA16 f
  | 0x17 => some (.icmpi f.g (f.mod.getLsbD 1) (icond4 (f.d.extractLsb' 3 2)) (f.d.setWidth 3) f.a ((f.mod.setWidth 1) ++ f.c ++ f.b))
  | 0x18 => decodeA18 f
  | 0x19 => decodeS19 f
  | 0x1A => if f.d.toNat < 8 then some (.fcmp f.g f.marks2 (fcond f.func) (f.d.setWidth 3) f.a f.b) else none
  | 0x1B => decodeA1B f
  | 0x1C => decodeA1C f
  | 0x1D => decodeConv f
  | 0x20 => decodeS20 f
  | 0x21 => decodeA21 f
  | 0x22 => decodeS22 f
  | 0x24 => match scope (f.c.extractLsb' 1 4) with | some sc => some (.ld f.g (width f.mod) sc (f.c.getLsbD 0) f.d f.a f.b) | none => none
  | 0x25 => match scope (f.c.extractLsb' 1 4) with | some sc => some (.st f.g (width f.mod) sc (f.c.getLsbD 0) f.d f.a f.b) | none => none
  | 0x26 => decodeS26 f
  | 0x27 => decodeS27 f
  | 0x28 => decodeA28 f
  | 0x29 => decodeA29 f
  | 0x2A => decodeS2A f
  | 0x2B => decodeS2B f
  | 0x2C => decodeA2C f
  | 0x2D => decodeS2D f
  | 0x2E => decodeA2E f
  | 0x30 => decodeS30 f
  | 0x31 => decodeS31 f
  | 0x32 => decodeA32 f
  | 0x36 => decodeS36 f
  | 0x37 => decodeA37 f
  | 0x38 => decodeS38 f
  | 0x39 => decodeA39 f
  | 0x3A => decodeS3A f
  | 0x3C => decodeS3C f
  | _ => none

/-- The fields of a 32-bit instruction (R28 to R37); none for a 16-bit form or an event. -/
def encodeFields : Instr → Option Fields
  | .bri a => some ⟨0, 0, 0, 0, 0, a, 0, 0x03⟩
  | .calli a => some ⟨0, 0, 0, 1, 0, a, 0, 0x03⟩
  | .ret => some ⟨0, 0, 0, 2, 0, 0, 0, 0x03⟩
  | .endFrag => some ⟨0, 0, 0, 3, 0, 0, 0, 0x03⟩
  | .trap n => some ⟨0, 0, 0, 4, n.extractLsb' 5 5, n.extractLsb' 0 5, 0, 0x03⟩
  | .eret => some ⟨0, 0, 0, 5, 0, 0, 0, 0x03⟩
  | .eretSkip => some ⟨0, 0, 0, 6, 0, 0, 0, 0x03⟩
  | .wpclr n => some ⟨0, 0, 0, 7, 0, 0, n.setWidth 5, 0x03⟩
  | .add g m d a b => some ⟨g, m.u, m.l, 0, b, a, d, 0x08⟩
  | .sub g m d a b => some ⟨g, m.u, m.l, 1, b, a, d, 0x08⟩
  | .mul g m d a b => some ⟨g, m.u, m.l, 2, b, a, d, 0x08⟩
  | .mulhi g m d a b => some ⟨g, m.u, m.l, 3, b, a, d, 0x08⟩
  | .imin g m d a b => some ⟨g, m.u, m.l, 4, b, a, d, 0x08⟩
  | .imax g m d a b => some ⟨g, m.u, m.l, 5, b, a, d, 0x08⟩
  | .iabs g m d a => some ⟨g, m.u, m.l, 6, 0, a, d, 0x08⟩
  | .popc g m d a => some ⟨g, m.u, m.l, 7, 0, a, d, 0x08⟩
  | .and g m d a b => some ⟨g, m.u, m.l, 0, b, a, d, 0x09⟩
  | .or g m d a b => some ⟨g, m.u, m.l, 1, b, a, d, 0x09⟩
  | .xor g m d a b => some ⟨g, m.u, m.l, 2, b, a, d, 0x09⟩
  | .andn g m d a b => some ⟨g, m.u, m.l, 3, b, a, d, 0x09⟩
  | .shl g m d a b => some ⟨g, m.u, m.l, 4, b, a, d, 0x09⟩
  | .shr g m d a b => some ⟨g, m.u, m.l, 5, b, a, d, 0x09⟩
  | .sar g m d a b => some ⟨g, m.u, m.l, 6, b, a, d, 0x09⟩
  | .rotl g m d a b => some ⟨g, m.u, m.l, 7, b, a, d, 0x09⟩
  | .clz g m d a => some ⟨g, m.u, m.l, 0, 0, a, d, 0x0A⟩
  | .brev g m d a => some ⟨g, m.u, m.l, 1, 0, a, d, 0x0A⟩
  | .addc g m d a b => some ⟨g, m.u, m.l, 2, b, a, d, 0x0A⟩
  | .subb g m d a b => some ⟨g, m.u, m.l, 3, b, a, d, 0x0A⟩
  | .mov g m d a => some ⟨g, m.u, m.l, 4, 0, a, d, 0x0A⟩
  | .bcast g d a => some ⟨g, 0, 0, 5, 0, a, d, 0x0A⟩
  | .laneget g m d a b => some ⟨g, m.u, m.l, 6, b, a, d, 0x0A⟩
  | .sread g d r => some ⟨g, 0, 0, 7, 0, r.code, d, 0x0A⟩
  | .addScalar d a b => some ⟨0, 0, 0, 0, b, a, d, 0x10⟩
  | .subScalar d a b => some ⟨0, 0, 0, 1, b, a, d, 0x10⟩
  | .mulScalar d a b => some ⟨0, 0, 0, 2, b, a, d, 0x10⟩
  | .mulhiScalar d a b => some ⟨0, 0, 0, 3, b, a, d, 0x10⟩
  | .iminScalar d a b => some ⟨0, 0, 0, 4, b, a, d, 0x10⟩
  | .imaxScalar d a b => some ⟨0, 0, 0, 5, b, a, d, 0x10⟩
  | .movScalar d a => some ⟨0, 0, 0, 6, 0, a, d, 0x10⟩
  | .sreadScalar d r => some ⟨0, 0, 0, 7, 0, r.code, d, 0x10⟩
  | .andScalar d a b => some ⟨0, 0, 0, 0, b, a, d, 0x11⟩
  | .orScalar d a b => some ⟨0, 0, 0, 1, b, a, d, 0x11⟩
  | .xorScalar d a b => some ⟨0, 0, 0, 2, b, a, d, 0x11⟩
  | .andnScalar d a b => some ⟨0, 0, 0, 3, b, a, d, 0x11⟩
  | .shlScalar d a b => some ⟨0, 0, 0, 4, b, a, d, 0x11⟩
  | .shrScalar d a b => some ⟨0, 0, 0, 5, b, a, d, 0x11⟩
  | .sarScalar d a b => some ⟨0, 0, 0, 6, b, a, d, 0x11⟩
  | .rotlScalar d a b => some ⟨0, 0, 0, 7, b, a, d, 0x11⟩
  | .kand g d a b => some ⟨g, 0, 0, 0, b.setWidth 5, a.setWidth 5, d.setWidth 5, 0x16⟩
  | .kor g d a b => some ⟨g, 0, 0, 1, b.setWidth 5, a.setWidth 5, d.setWidth 5, 0x16⟩
  | .kxor g d a b => some ⟨g, 0, 0, 2, b.setWidth 5, a.setWidth 5, d.setWidth 5, 0x16⟩
  | .shflIdx g m d a b => some ⟨g, m.u, m.l, 3, b, a, d, 0x16⟩
  | .shflUp g m d a n => some ⟨g, m.u, m.l, 4, n, a, d, 0x16⟩
  | .shflDown g m d a n => some ⟨g, m.u, m.l, 5, n, a, d, 0x16⟩
  | .shflXor g m d a n => some ⟨g, m.u, m.l, 6, n, a, d, 0x16⟩
  | .fadd g m d a b => some ⟨g, m.u, m.l, 0, b, a, d, 0x18⟩
  | .fsub g m d a b => some ⟨g, m.u, m.l, 1, b, a, d, 0x18⟩
  | .fmul g m d a b => some ⟨g, m.u, m.l, 2, b, a, d, 0x18⟩
  | .fmin g m d a b => some ⟨g, m.u, m.l, 3, b, a, d, 0x18⟩
  | .fmax g m d a b => some ⟨g, m.u, m.l, 4, b, a, d, 0x18⟩
  | .fabs g m d a => some ⟨g, m.u, m.l, 5, 0, a, d, 0x18⟩
  | .fneg g m d a => some ⟨g, m.u, m.l, 6, 0, a, d, 0x18⟩
  | .frnd g m mode d a => some ⟨g, m.u, m.l, 7, mode.setWidth 5, a, d, 0x18⟩
  | .frcp g m d a => some ⟨g, m.u, m.l, 0, 0, a, d, 0x1B⟩
  | .frsq g m d a => some ⟨g, m.u, m.l, 1, 0, a, d, 0x1B⟩
  | .fsqrt g m d a => some ⟨g, m.u, m.l, 2, 0, a, d, 0x1B⟩
  | .fexp2 g m d a => some ⟨g, m.u, m.l, 3, 0, a, d, 0x1B⟩
  | .flog2 g m d a => some ⟨g, m.u, m.l, 4, 0, a, d, 0x1B⟩
  | .fsin g m d a => some ⟨g, m.u, m.l, 5, 0, a, d, 0x1B⟩
  | .fcos g m d a => some ⟨g, m.u, m.l, 6, 0, a, d, 0x1B⟩
  | .ftanh g m d a => some ⟨g, m.u, m.l, 7, 0, a, d, 0x1B⟩
  | .hadd2 g m d a b => some ⟨g, m.u, m.l, 0, b, a, d, 0x1C⟩
  | .hmul2 g m d a b => some ⟨g, m.u, m.l, 1, b, a, d, 0x1C⟩
  | .fldexp g m d a b => some ⟨g, m.u, m.l, 2, b, a, d, 0x1C⟩
  | .pack g m d a b => some ⟨g, m.u, m.l, 3, b, a, d, 0x1C⟩
  | .unpk g m d a i => some ⟨g, m.u, m.l, 4, i, a, d, 0x1C⟩
  | .fmtset a b => some ⟨0, 0, 0, 5, b, a, 0, 0x1C⟩
  | .fmtget d => some ⟨0, 0, 0, 6, 0, 0, d, 0x1C⟩
  | .tcnt d => some ⟨0, 0, 0, 0, 0, 0, d, 0x21⟩
  | .atomAddW32 g m d a b => some ⟨g, m.u, m.l, 0, b, a, d, 0x28⟩
  | .atomMinW32 g m d a b => some ⟨g, m.u, m.l, 1, b, a, d, 0x28⟩
  | .atomMaxW32 g m d a b => some ⟨g, m.u, m.l, 2, b, a, d, 0x28⟩
  | .atomAndW32 g m d a b => some ⟨g, m.u, m.l, 3, b, a, d, 0x28⟩
  | .atomOrW32 g m d a b => some ⟨g, m.u, m.l, 4, b, a, d, 0x28⟩
  | .atomXorW32 g m d a b => some ⟨g, m.u, m.l, 5, b, a, d, 0x28⟩
  | .atomXchgW32 g m d a b => some ⟨g, m.u, m.l, 6, b, a, d, 0x28⟩
  | .atomF32 g m d a b => some ⟨g, m.u, m.l, 7, b, a, d, 0x28⟩
  | .atomAddW64 g m d a b => some ⟨g, m.u, m.l, 0, b, a, d, 0x29⟩
  | .atomMinW64 g m d a b => some ⟨g, m.u, m.l, 1, b, a, d, 0x29⟩
  | .atomMaxW64 g m d a b => some ⟨g, m.u, m.l, 2, b, a, d, 0x29⟩
  | .atomAndW64 g m d a b => some ⟨g, m.u, m.l, 3, b, a, d, 0x29⟩
  | .atomOrW64 g m d a b => some ⟨g, m.u, m.l, 4, b, a, d, 0x29⟩
  | .atomXorW64 g m d a b => some ⟨g, m.u, m.l, 5, b, a, d, 0x29⟩
  | .atomXchgW64 g m d a b => some ⟨g, m.u, m.l, 6, b, a, d, 0x29⟩
  | .tfind g d a b => some ⟨g, 0, 0, 0, b, a, d, 0x2C⟩
  | .tins g d a b => some ⟨g, 0, 0, 1, b, a, d, 0x2C⟩
  | .trepl g d a b => some ⟨g, 0, 0, 2, b, a, d, 0x2C⟩
  | .tdel g d a b => some ⟨g, 0, 0, 3, b, a, d, 0x2C⟩
  | .tfindQ g d a b => some ⟨g, 0, 0, 4, b, a, d, 0x2C⟩
  | .tinsQ g d a b => some ⟨g, 0, 0, 5, b, a, d, 0x2C⟩
  | .treplQ g d a b => some ⟨g, 0, 0, 6, b, a, d, 0x2C⟩
  | .tdelQ g d a b => some ⟨g, 0, 0, 7, b, a, d, 0x2C⟩
  | .txb => some ⟨0, 0, 0, 0, 0, 0, 0, 0x2E⟩
  | .txc d => some ⟨0, 0, 0, 1, 0, 0, d, 0x2E⟩
  | .txa => some ⟨0, 0, 0, 2, 0, 0, 0, 0x2E⟩
  | .txst d => some ⟨0, 0, 0, 3, 0, 0, d, 0x2E⟩
  | .amld g t a => some ⟨g, 0, 0, 0, 0, a, t.setWidth 5, 0x32⟩
  | .amst g t a => some ⟨g, 0, 0, 1, 0, a, t.setWidth 5, 0x32⟩
  | .amzero g t => some ⟨g, 0, 0, 2, 0, 0, t.setWidth 5, 0x32⟩
  | .amrow g t d b => some ⟨g, 0, 0, 3, b, t.setWidth 5, d, 0x32⟩
  | .amscl g m t a b => some ⟨g, m.u, m.l, 4, b, a, t.setWidth 5, 0x32⟩
  | .drainSt g t a b => some ⟨g, 0, 0, 5, b, a, t.setWidth 5, 0x32⟩
  | .drainAdd g t a b => some ⟨g, 0, 0, 6, b, a, t.setWidth 5, 0x32⟩
  | .barTst c d => some ⟨0, 0, 0, 0, 0, c, d, 0x37⟩
  | .regroup bar d a b => some ⟨0, bar.extractLsb' 2 2, bar.extractLsb' 0 2, 1, b, a, d, 0x37⟩
  | .rqxfer d a b => some ⟨0, 0, 0, 2, b, a, d, 0x37⟩
  | .rqget d => some ⟨0, 0, 0, 3, 0, 0, d, 0x37⟩
  | .roleset a => some ⟨0, 0, 0, 4, 0, a, 0, 0x37⟩
  | .roleget d => some ⟨0, 0, 0, 5, 0, 0, d, 0x37⟩
  | .xmerge g d a b => some ⟨g, 0, 0, 0, b, a, d, 0x39⟩
  | .knot g d a => some ⟨g, 0, 0, 7, 0, a.setWidth 5, d.setWidth 5, 0x16⟩
  | .kmov g d a => some ⟨g, 0, 0, 7, 1, a.setWidth 5, d.setWidth 5, 0x16⟩
  | .kfroms g d a => some ⟨g, 0, 0, 7, 2, a, d.setWidth 5, 0x16⟩
  | .ktos d a => some ⟨0, 0, 0, 7, 3, a.setWidth 5, d, 0x16⟩
  | .emget g d => some ⟨g, 0, 0, 7, 4, 0, d, 0x16⟩
  | .emset a => some ⟨0, 0, 0, 7, 5, a, 0, 0x16⟩
  | .voteAny g d a => some ⟨g, 0, 0, 7, 6, a.setWidth 5, d.setWidth 5, 0x16⟩
  | .voteAll g d a => some ⟨g, 0, 0, 7, 7, a.setWidth 5, d.setWidth 5, 0x16⟩
  | .voteBal g d a => some ⟨g, 0, 0, 7, 8, a.setWidth 5, d, 0x16⟩
  | .elect g d => some ⟨g, 0, 0, 7, 9, 0, d.setWidth 5, 0x16⟩
  | .lscan g d a => some ⟨g, 0, 0, 7, 10, a, d, 0x16⟩
  | .reduxAdd g d a => some ⟨g, 0, 0, 7, 11, a, d, 0x16⟩
  | .reduxMin g d a => some ⟨g, 0, 0, 7, 12, a, d, 0x16⟩
  | .reduxMax g d a => some ⟨g, 0, 0, 7, 13, a, d, 0x16⟩
  | .reduxAnd g d a => some ⟨g, 0, 0, 7, 14, a, d, 0x16⟩
  | .reduxOr g d a => some ⟨g, 0, 0, 7, 15, a, d, 0x16⟩
  | .reduxXor g d a => some ⟨g, 0, 0, 7, 16, a, d, 0x16⟩
  | .pushm c scalar free d => some ⟨0, 0, c.extractLsb' 3 2, c.extractLsb' 0 3, bit5 scalar, bit5 free, d, 0x06⟩
  | .popm c scalar d => some ⟨0, 1, c.extractLsb' 3 2, c.extractLsb' 0 3, bit5 scalar, 0, d, 0x06⟩
  | .spget d => some ⟨0, 2, 0, 0, 0, 0, d, 0x06⟩
  | .spset a => some ⟨0, 3, 0, 0, 0, a, 0, 0x06⟩
  | .sysrd c d => some ⟨0, 0, 0, c.code, 0, 0, d, 0x07⟩
  | .syswr c a => some ⟨0, 1, 0, c.code, 0, a, 0, 0x07⟩
  | .segld a n => some ⟨0, 2, 0, 0, 0, a, n.setWidth 5, 0x07⟩
  | .wpset k b a n => some ⟨0, 3, 0, k.code, b, a ++ (0 : BitVec 1), n.setWidth 5, 0x07⟩
  | .imad g d a b c => some ⟨g, 0, c.extractLsb' 3 2, c.extractLsb' 0 3, b, a, d, 0x0B⟩
  | .bfx g d a pos len1 => some ⟨g, 1, pos.extractLsb' 3 2, pos.extractLsb' 0 3, len1, a, d, 0x0B⟩
  | .bfi g d a pos len1 => some ⟨g, 2, pos.extractLsb' 3 2, pos.extractLsb' 0 3, len1, a, d, 0x0B⟩
  | .sel g d a b k => some ⟨g, 3, 0, k, b, a, d, 0x0B⟩
  | .ffma g d a b c => some ⟨g, 0, c.extractLsb' 3 2, c.extractLsb' 0 3, b, a, d, 0x19⟩
  | .hfma2 g d a b c => some ⟨g, 1, c.extractLsb' 3 2, c.extractLsb' 0 3, b, a, d, 0x19⟩
  | .fdot4 g d a b c => some ⟨g, 2, c.extractLsb' 3 2, c.extractLsb' 0 3, b, a, d, 0x19⟩
  | .tseed g j d a b => some ⟨g, 0, j.extractLsb' 3 2, j.extractLsb' 0 3, b, a, d, 0x20⟩
  | .tget g j d a => some ⟨g, 1, j.extractLsb' 3 2, j.extractLsb' 0 3, 0, a, d, 0x20⟩
  | .tset g j d b => some ⟨g, 2, j.extractLsb' 3 2, j.extractLsb' 0 3, b, 0, d, 0x20⟩
  | .tzero g j d => some ⟨g, 3, j.extractLsb' 3 2, j.extractLsb' 0 3, 0, 0, d, 0x20⟩
  | .scbind x b => some ⟨0, (0 : BitVec 1) ++ x.extractLsb' 5 1, 0, 0, b, 0, x.setWidth 5, 0x22⟩
  | .scmov x y => some ⟨0, y.extractLsb' 5 1 ++ x.extractLsb' 5 1, 0, 1, 0, y.setWidth 5, x.setWidth 5, 0x22⟩
  | .scset x j b => some ⟨0, (0 : BitVec 1) ++ x.extractLsb' 5 1, 0, 2, b, j.setWidth 5, x.setWidth 5, 0x22⟩
  | .scget x j b => some ⟨0, (0 : BitVec 1) ++ x.extractLsb' 5 1, 0, 3, b, j.setWidth 5, x.setWidth 5, 0x22⟩
  | .scmul x y => some ⟨0, y.extractLsb' 5 1 ++ x.extractLsb' 5 1, 0, 4, 0, y.setWidth 5, x.setWidth 5, 0x22⟩
  | .scmax x y => some ⟨0, y.extractLsb' 5 1 ++ x.extractLsb' 5 1, 0, 5, 0, y.setWidth 5, x.setWidth 5, 0x22⟩
  | .screl x => some ⟨0, (0 : BitVec 1) ++ x.extractLsb' 5 1, 0, 6, 0, 0, x.setWidth 5, 0x22⟩
  | .lds g w d a b => some ⟨g, 0, 0, w.code, b, a, d, 0x26⟩
  | .sts g w d a b => some ⟨g, 1, 0, w.code, b, a, d, 0x26⟩
  | .ldc w disp d b => some ⟨0, 2, disp.extractLsb' 3 2, disp.extractLsb' 0 3, b, w.code.setWidth 5, d, 0x26⟩
  | .ldr g q w d a b => some ⟨g, 0, q.extractLsb' 1 2, q.setWidth 1 ++ w.code.setWidth 2, b, a, d, 0x27⟩
  | .str g q w d a b => some ⟨g, 1, q.extractLsb' 1 2, q.setWidth 1 ++ w.code.setWidth 2, b, a, d, 0x27⟩
  | .qapp q d b => some ⟨0, 2, 0, q, b, 0, d, 0x27⟩
  | .qpop q d a => some ⟨0, 3, 0, q, 0, a, d, 0x27⟩
  | .arwRd g sc d a b => some ⟨g, 0, sc.code.extractLsb' 2 2, sc.code.setWidth 2 ++ (0 : BitVec 1), b, a, d, 0x2A⟩
  | .arwRdx g sc d a b => some ⟨g, 1, sc.code.extractLsb' 2 2, sc.code.setWidth 2 ++ (0 : BitVec 1), b, a, d, 0x2A⟩
  | .arwWr g sc d a b => some ⟨g, 2, sc.code.extractLsb' 2 2, sc.code.setWidth 2 ++ (0 : BitVec 1), b, a, d, 0x2A⟩
  | .arwWrx g sc d a b => some ⟨g, 3, sc.code.extractLsb' 2 2, sc.code.setWidth 2 ++ (0 : BitVec 1), b, a, d, 0x2A⟩
  | .acasW32 g d a b c => some ⟨g, 0, c.extractLsb' 3 2, c.extractLsb' 0 3, b, a, d, 0x2B⟩
  | .acasW64 g d a b c => some ⟨g, 1, c.extractLsb' 3 2, c.extractLsb' 0 3, b, a, d, 0x2B⟩
  | .fence sc => some ⟨0, 2, sc.code.extractLsb' 2 2, sc.code.setWidth 2 ++ (0 : BitVec 1), 0, 0, 0, 0x2B⟩
  | .qfree q b => some ⟨0, 3, 0, q, b, 0, 0, 0x2B⟩
  | .tscan g cur a b c => some ⟨g, 0, c.extractLsb' 3 2, c.extractLsb' 0 3, b, a, cur.setWidth 5, 0x2D⟩
  | .tnext g cur n1 d b => some ⟨g, 1, cur, n1, b, 0, d, 0x2D⟩
  | .tclose g cur => some ⟨g, 2, 0, 0, 0, 0, cur.setWidth 5, 0x2D⟩
  | .tstat sel d b => some ⟨0, 3, 0, sel.code, b, 0, d, 0x2D⟩
  | .shape g a n => some ⟨g, 0, 0, 0, 0, a, n.setWidth 5, 0x30⟩
  | .cpyIn g n a b => some ⟨g, 1, 0, n, b, a, 0, 0x30⟩
  | .cpyOut g n a b => some ⟨g, 2, 0, n, b, a, 0, 0x30⟩
  | .cpyRem g n a b => some ⟨g, 3, 0, n, b, a, 0, 0x30⟩
  | .mma g nsb nsa z t a b => some ⟨g, 0, 0, BitVec.ofBool nsb ++ BitVec.ofBool nsa ++ BitVec.ofBool z, b, a, t.setWidth 5, 0x31⟩
  | .mmag g nsb nsa z t a b => some ⟨g, 1, 0, BitVec.ofBool nsb ++ BitVec.ofBool nsa ++ BitVec.ofBool z, b, a, t.setWidth 5, 0x31⟩
  | .mmaT g nsb nsa z t a b => some ⟨g, 2, 0, BitVec.ofBool nsb ++ BitVec.ofBool nsa ++ BitVec.ofBool z, b, a, t.setWidth 5, 0x31⟩
  | .oprdy a b => some ⟨0, 3, 0, 0, b, a, 0, 0x31⟩
  | .barArv c d => some ⟨0, 0, c.extractLsb' 3 2, c.extractLsb' 0 3, 0, 0, d, 0x36⟩
  | .barWt c a => some ⟨0, 1, c.extractLsb' 3 2, c.extractLsb' 0 3, 0, a, 0, 0x36⟩
  | .barSync c => some ⟨0, 2, c.extractLsb' 3 2, c.extractLsb' 0 3, 0, 0, 0, 0x36⟩
  | .barArm c b => some ⟨0, 3, c.extractLsb' 3 2, c.extractLsb' 0 3, b, 0, 0, 0x36⟩
  | .kvapp g d a b => some ⟨g, 0, 0, 0, b, a, d, 0x38⟩
  | .kvappDrop g a b => some ⟨g, 0, 0, 1, b, a, 0, 0x38⟩
  | .qpost g c d a b => some ⟨g, 1, c.extractLsb' 3 2, c.extractLsb' 0 3, b, a, d, 0x38⟩
  | .qget g q d a b => some ⟨g, 2, 0, q, b, a, d, 0x38⟩
  | .btld g n1 a b => some ⟨g, 3, n1.extractLsb' 3 2, n1.extractLsb' 0 3, b, a, 0, 0x38⟩
  | .launch d a b => some ⟨0, 0, 0, 0, b, a, d, 0x3A⟩
  | .cancel lvl d a => some ⟨0, 1, 0, lvl.code, 0, a, d, 0x3A⟩
  | .cntrd lvl d a => some ⟨0, 2, 0, lvl.code, 0, a, d, 0x3A⟩
  | .cntwt lvl d a b => some ⟨0, 3, 0, lvl.code, b, a, d, 0x3A⟩
  | .tsend g c a b => some ⟨g, 0, c.extractLsb' 3 2, c.extractLsb' 0 3, b, a, 0, 0x3C⟩
  | .trecv g c a b => some ⟨g, 1, c.extractLsb' 3 2, c.extractLsb' 0 3, b, a, 0, 0x3C⟩
  | .ared g c a b => some ⟨g, 3, c.extractLsb' 3 2, c.extractLsb' 0 3, b, a, 0, 0x3C⟩
  | .ratom g w64 op d a b => some ⟨g, 2, (0 : BitVec 1) ++ BitVec.ofBool w64, op.code, b, a, d, 0x3C⟩
  | .bra g o => some ⟨g, o.extractLsb' 20 2, o.extractLsb' 18 2, o.extractLsb' 15 3, o.extractLsb' 10 5, o.extractLsb' 5 5, o.extractLsb' 0 5, 0x01⟩
  | .call o => some ⟨0, o.extractLsb' 20 2, o.extractLsb' 18 2, o.extractLsb' 15 3, o.extractLsb' 10 5, o.extractLsb' 5 5, o.extractLsb' 0 5, 0x02⟩
  | .join o => some ⟨0, o.extractLsb' 20 2, o.extractLsb' 18 2, o.extractLsb' 15 3, o.extractLsb' 10 5, o.extractLsb' 5 5, o.extractLsb' 0 5, 0x04⟩
  | .wait mx cp st ld => some ⟨0, 0, mx.extractLsb' 3 2, mx.extractLsb' 0 3, cp, st, ld, 0x05⟩
  | .waitAny mx cp st ld => some ⟨0, 1, mx.extractLsb' 3 2, mx.extractLsb' 0 3, cp, st, ld, 0x05⟩
  | .addi g la d a i => some ⟨g, BitVec.ofBool la ++ i.extractLsb' 10 1, i.extractLsb' 8 2, i.extractLsb' 5 3, i.extractLsb' 0 5, a, d, 0x0C⟩
  | .addiScalar d a i => some ⟨0, (0 : BitVec 1) ++ i.extractLsb' 10 1, i.extractLsb' 8 2, i.extractLsb' 5 3, i.extractLsb' 0 5, a, d, 0x12⟩
  | .movi g d i => some ⟨g, (0 : BitVec 1) ++ i.extractLsb' 15 1, i.extractLsb' 13 2, i.extractLsb' 10 3, i.extractLsb' 5 5, i.extractLsb' 0 5, d, 0x0D⟩
  | .movhi g d i => some ⟨g, (1 : BitVec 1) ++ i.extractLsb' 15 1, i.extractLsb' 13 2, i.extractLsb' 10 3, i.extractLsb' 5 5, i.extractLsb' 0 5, d, 0x0D⟩
  | .moviScalar d i => some ⟨0, (0 : BitVec 1) ++ i.extractLsb' 15 1, i.extractLsb' 13 2, i.extractLsb' 10 3, i.extractLsb' 5 5, i.extractLsb' 0 5, d, 0x13⟩
  | .movhiScalar d i => some ⟨0, (1 : BitVec 1) ++ i.extractLsb' 15 1, i.extractLsb' 13 2, i.extractLsb' 10 3, i.extractLsb' 5 5, i.extractLsb' 0 5, d, 0x13⟩
  | .icmp g m cc d a b => some ⟨g, m.u, m.l, cc.code, b, a, d.setWidth 5, 0x14⟩
  | .icmpScalar cc d a b => some ⟨0, 0, 0, cc.code, b, a, d.setWidth 5, 0x15⟩
  | .icmpi g la cc d a i => some ⟨g, BitVec.ofBool la ++ i.extractLsb' 10 1, i.extractLsb' 8 2, i.extractLsb' 5 3, i.extractLsb' 0 5, a, cc.code ++ d, 0x17⟩
  | .fcmp g m cc d a b => some ⟨g, m.u, m.l, cc.code, b, a, d.setWidth 5, 0x1A⟩
  | .fcvt g dst src d a => some ⟨g, dst.extractLsb' 4 2, dst.extractLsb' 2 2, dst.extractLsb' 0 2 ++ src.extractLsb' 5 1, src.setWidth 5, a, d, 0x1D⟩
  | .icvt g dst src d a => some ⟨g, dst.extractLsb' 4 2, dst.extractLsb' 2 2, dst.extractLsb' 0 2 ++ src.extractLsb' 5 1, src.setWidth 5, a, d, 0x1D⟩
  | .ftoi g dst src d a => some ⟨g, dst.extractLsb' 4 2, dst.extractLsb' 2 2, dst.extractLsb' 0 2 ++ src.extractLsb' 5 1, src.setWidth 5, a, d, 0x1D⟩
  | .ld g w sc ord d a b => some ⟨g, w.code.setWidth 2, sc.code.extractLsb' 2 2, sc.code.setWidth 2 ++ BitVec.ofBool ord, b, a, d, 0x24⟩
  | .st g w sc ord d a b => some ⟨g, w.code.setWidth 2, sc.code.extractLsb' 2 2, sc.code.setWidth 2 ++ BitVec.ofBool ord, b, a, d, 0x25⟩
  | _ => none

/-- Which instruction a 16-bit word holds (R26, R27). -/
def decodeShort (w : BitVec 16) : Option Instr :=
  let hi : BitVec 5 := BitVec.ofNat 5 (w.toNat / 2 ^ 11)
  let lo : BitVec 5 := BitVec.ofNat 5 (w.toNat / 2 ^ 6)
  match w.toNat / 2 % 32 with
  | 0 => some (.mov16bit lo hi)
  | 1 => some (.movi16bit lo hi)
  | 2 => some (.add16bit lo hi)
  | 3 => some (.addi16bit lo hi)
  | 4 => some (.sub16bit lo hi)
  | 5 => some (.and16bit lo hi)
  | 6 => some (.or16bit lo hi)
  | 7 => some (.xor16bit lo hi)
  | 8 => some (.shl16bit lo hi)
  | 9 => some (.shr16bit lo hi)
  | 10 => some (.imin16bit lo hi)
  | 11 => some (.imax16bit lo hi)
  | 12 => some (.fadd16bit lo hi)
  | 13 => some (.fsub16bit lo hi)
  | 14 => some (.fmul16bit lo hi)
  | 15 => some (.fmax16bit lo hi)
  | 16 => if hi = 0 ∧ lo = 0 then some .nop else none
  | 17 => if hi = 0 ∧ lo.toNat < 2 then some (.dl (lo.getLsbD 0)) else none
  | 18 => if hi = 0 ∧ lo = 0 then some .yield else none
  | _ => none

/-- Op, low field and high field of a 16-bit form (R25, R26). -/
def encodeShortFields : Instr → Option (Nat × BitVec 5 × BitVec 5)
  | .mov16bit d b => some (0, d, b)
  | .movi16bit d i => some (1, d, i)
  | .add16bit d b => some (2, d, b)
  | .addi16bit d i => some (3, d, i)
  | .sub16bit d b => some (4, d, b)
  | .and16bit d b => some (5, d, b)
  | .or16bit d b => some (6, d, b)
  | .xor16bit d b => some (7, d, b)
  | .shl16bit d b => some (8, d, b)
  | .shr16bit d b => some (9, d, b)
  | .imin16bit d b => some (10, d, b)
  | .imax16bit d b => some (11, d, b)
  | .fadd16bit d b => some (12, d, b)
  | .fsub16bit d b => some (13, d, b)
  | .fmul16bit d b => some (14, d, b)
  | .fmax16bit d b => some (15, d, b)
  | .nop => some (16, 0, 0)
  | .dl mode => some (17, bit5 mode, 0)
  | .yield => some (18, 0, 0)
  | _ => none

/-- The operand rules of the instruction's entry, or the rejection by name. -/
def checked : Option Instr → Except DecodeError Instr
  | none => .error .reserved
  | some i => if i.wf then .ok i else .error .operand

/-- The instruction in a 32-bit word. -/
def decodeWord (w : BitVec 32) : Except DecodeError Instr := checked (decodeFields (Fields.ofWord w))

/-- The instruction in a 16-bit word. -/
def decodeHalf (w : BitVec 16) : Except DecodeError Instr := checked (decodeShort w)

/-- The instruction at the head of the bytes, and the bytes after it (R3, R25). -/
def decode : List Byte → Except DecodeError (Instr × List Byte)
  | b0 :: b1 :: rest =>
    if b0.getLsbD 0 = false then (decodeHalf (b1 ++ b0)).map fun i => (i, rest)
    else
      match rest with
      | b2 :: b3 :: rest' => (decodeWord (b3 ++ b2 ++ b1 ++ b0)).map fun i => (i, rest')
      | _ => .error .short
  | _ => .error .short

/-- The halfwords of an encoded instruction, lowest address first; none for an event (R25). -/
def encode (i : Instr) : List (BitVec 16) :=
  match encodeShortFields i with
  | some (op, lo, hi) => [BitVec.ofNat 16 (hi.toNat * 2 ^ 11 + lo.toNat * 2 ^ 6 + op * 2)]
  | none =>
    match encodeFields i with
    | some f => [f.toWord.setWidth 16, f.toWord.extractLsb' 16 16]
    | none => []

/-- Halfwords as bytes, little-endian (R3). -/
def halfBytes : List (BitVec 16) → List Byte
  | [] => []
  | h :: t => h.setWidth 8 :: h.extractLsb' 8 8 :: halfBytes t

/-- Bytes in 2 or 4: the length of an encoded instruction (R25). -/
def Instr.length (i : Instr) : Nat := 2 * (encode i).length

/-- The instruction this decoder reads from bits `w`, numbered as spec/opcode_table.json numbers them. -/
def decodeTableWord (nbits w : Nat) : Option Instr :=
  let bytes : List Byte := [BitVec.ofNat 8 w, BitVec.ofNat 8 (w / 2 ^ 8), BitVec.ofNat 8 (w / 2 ^ 16), BitVec.ofNat 8 (w / 2 ^ 24)]
  let have_ := if nbits ≤ 16 then [BitVec.ofNat 8 w, BitVec.ofNat 8 (w / 2 ^ 8), 0, 0] else bytes
  match decode have_ with
  | .ok (i, _) => some i
  | .error _ => none

end Sys2Proof
end

