-- ==== Sys2Proof/Config.lean ====
section
/-! DEFINITION. What an implementation fixes and what the spec leaves open: constants without a body, so that no proof
can see a value. Each is named in the assumption log. -/

namespace Sys2Proof

/-- Free 32-bit values (R6 undefined): occurrence `n`, component `j`, lane `l`. (DESIGN CHOICE, log entry 5) -/
opaque Config.freeLane : Nat → Nat → Nat → BitVec 32
/-- Free 64-bit values (R6 undefined): occurrence `n`, part `i`. (DESIGN CHOICE, log entry 5) -/
opaque Config.freeWord : Nat → Nat → BitVec 64
/-- Free bytes (R6 undefined): occurrence `n`, byte `i`. (DESIGN CHOICE, log entry 5) -/
opaque Config.freeByte : Nat → Nat → BitVec 8
/-- Free choices between the alternatives the spec names (R6 unspecified): occurrence `n`, part `i`. (DESIGN CHOICE,
log entry 5) -/
opaque Config.freeBit : Nat → Nat → Bool
/-- A free choice among `m` alternatives (R6 unspecified), taken modulo `m` by its reader. (DESIGN CHOICE, log entry
5) -/
opaque Config.freeChoice : Nat → Nat → Nat
/-- Ticks by which the device timebase moves on before the CLK read of occurrence `n` (R86). (DESIGN CHOICE, log
entry 6) -/
opaque Config.clkAdvance : Nat → Nat

/-- SHA-256 (an external standard; R362, R376, R377, R380, R384 to R386, R392). (PRESUMED, log entry 7) -/
opaque Config.sha256 : List Byte → BitVec 256
/-- Verification of an LMS H20/W8 signature over a digest under the fused key (R386). (PRESUMED, log entry 7) -/
opaque Config.lmsVerify : Bool → BitVec 256 → List Byte → Bool
/-- An LMS signature made with leaf `n` of the identity key (R383). (PRESUMED, log entry 7) -/
opaque Config.lmsSign : Nat → List Byte → List Byte
/-- An HSS signature of two levels made with leaf `n` of the access log's own key (R377). (PRESUMED, log entry 7) -/
opaque Config.hssSign : Nat → List Byte → List Byte
/-- AES-256-XTS decryption of the 16 bytes at byte `o` of a 128-byte line: key, tweak, `o`, the bytes (R278, R369).
(PRESUMED, log entry 7) -/
opaque Config.xtsDecrypt : BitVec 512 → BitVec 128 → Nat → List Byte → List Byte
/-- AES-256-XTS encryption, as `xtsDecrypt` (R278, R369). (PRESUMED, log entry 7) -/
opaque Config.xtsEncrypt : BitVec 512 → BitVec 128 → Nat → List Byte → List Byte
/-- The key derivation of R373 (SP 800-108 with HMAC-SHA-256) from the fused device secret. (PRESUMED, log entry 7) -/
opaque Config.deriveSealKey : List Byte → BitVec 512
/-- The fields that DMTF gives a response of the responder to a request, by response code, beside those that the rules state (R383 to
R385); the bytes of a TDISP message that no row carries. (PRESUMED, log entry 8) -/
opaque Config.spdmReply : Nat → List Byte → List Byte → List Byte
/-- Whether an SPDM request is well formed by DMTF's layout (R384). (PRESUMED, log entry 8) -/
opaque Config.spdmWellFormed : List Byte → Bool
/-- The security version number in the 64-byte header of a firmware image (R386 does not say where). (DESIGN CHOICE, log entry 9) -/
opaque Config.imageVersion : List Byte → Nat
/-- The fused minimum security version (R386). (DESIGN CHOICE, log entry 9) -/
opaque Config.minSecurityVersion : Nat
/-- Bytes whose layout the spec does not give, of what they hold: the header of a save area (part 0), deferred entries (part 1),
barrier and queue state (part 2) (R348). (DESIGN CHOICE, log entry 9) -/
opaque Config.saveLayout : Nat → List Nat → List Byte
/-- Records that the trace ring holds, less one (R361 gives no size). (DESIGN CHOICE, log entry 9) -/
opaque Config.traceRingLast : Nat
/-- AES-256-GCM over a link flit (R371): by key and header, what the payload's bytes become; how a flit carries the tag is
not given. (DESIGN CHOICE, log entry 9) -/
opaque Config.gcmSeal : BitVec 256 → List Byte → List Byte → List Byte
/-- The physical address of the access log's ring (R376 gives none). (DESIGN CHOICE, log entry 9) -/
opaque Config.accessRingAt : Nat
/-- Records that the error-log ring holds, less one (R211, R407 give no size). (DESIGN CHOICE, log entry 9) -/
opaque Config.errorRingLast : Nat
/-- Pages of 4,096 bytes that the access log's ring has beyond its first (R376: pages; R376 and R378 give no size).
(DESIGN CHOICE, log entry 9) -/
opaque Config.accessRingMore : Nat
/-- The fuse configuration that measurement register 3 covers (R385). (DESIGN CHOICE, log entry 9) -/
opaque Config.fuseConfig : List Byte
/-- The debug state, locked or unlocked, that measurement register 4 covers (R385). (DESIGN CHOICE, log entry 9) -/
opaque Config.debugLocked : Bool
/-- The bank, in the stack's own numbering, that holds a physical address (R320). (DESIGN CHOICE, log entry 9) -/
opaque Config.bankOf : Nat → Nat

end Sys2Proof
end

