-- ==== Sys2Proof/Machine/State.lean ====
section
/-! DEFINITION. The state of the FJA-9416: plain data, holding all that the spec gives the machine (INVENTORY.md,
State), and the state after reset. Where no rule is cited the field is the model's own. -/

namespace Sys2Proof.Machine

/-- Why the model itself stops; every fault of the spec is a trap entry, an unhandled fault or a lease violation, which
are next states. -/
inductive Fault where
  /-- An encoded instruction is executed while no fragment is in focus. Raised by `issue` (Ops.lean); `step` never
  executes one then. Safe: nothing on the hardware issues without a fragment (R7, R182). -/
  | noFragment
  deriving DecidableEq, Repr

/-- Why the model gives no meaning. -/
inductive Refusal where
  /-- The instruction has no meaning yet; raised by arms of `exec` only. Safe: the run stops. -/
  | notModelled (mnemonic : String)
  deriving DecidableEq, Repr

/-! ### Groups and fragments -/

/-- A group by launch, linear block index (R171) and index in its block (R85 GRPIDX). -/
structure GroupId where
  l : Nat
  blk : Nat
  g : Nat
  deriving DecidableEq, Repr

/-- STATE of a fragment (R136). -/
inductive FragSt where | ready | stalled | atJoin
  deriving DecidableEq, Repr

/-- A fragment: its split-table entry of TYPE 1 (R136), or the one fragment of an unsplit group. `entry` and `split`
are table indices; `written` marks an entry written back (R137); `rot` orders the rotation list and `run` counts the
issues of the current run (R182). `again`: it is stalled, and something has happened since, so that it may look whether it still is. `held`: it met a fault while another fragment's handler runs (R334). `skip`: a debug
watchpoint stopped it, and its next issue is not checked against them (R356). -/
structure Frag where
  pc : VA
  em : Mask
  lanes : Mask
  jr : VA
  fmt : BitVec 64
  st : FragSt
  entry : Nat
  split : Option Nat
  written : Bool
  again : Bool
  held : Bool
  skip : Bool
  rot : Nat
  run : Nat
  deriving DecidableEq, Repr

/-- A split: an entry of TYPE 2 (R136). -/
structure Split where
  entry : Nat
  lanes : Mask
  join : VA
  fmt : BitVec 64
  depth : Nat
  parent : Option Nat
  members : Nat
  arrived : Nat
  written : Bool
  deriving DecidableEq, Repr

/-- A mapped vector name: its primal and K tangents (R12, R122). -/
abbrev VReg := List Lanes

/-- A segment descriptor (R189); LIMIT 0 means absent. -/
structure Seg where
  base : VA
  limit : BitVec 52
  deriving DecidableEq, Repr

/-- Classes of registers that results go to (R355). -/
inductive RegClass where | vec | scalar | pred
  deriving DecidableEq, Repr

/-- A result on its way to a register: lanes `mask` of components `comps` of a vector name, a 64-bit scalar, or the
bits `mask` of a predicate taken from `word`. -/
structure RegWrite where
  cls : RegClass
  name : Nat
  mask : Mask
  comps : List Lanes
  word : BitVec 64
  deriving DecidableEq, Repr

/-- A register whose value is undefined until a WAIT observes operation `op` (R22, R281); `source` marks a vector that
the operation reads after issue, `reads` that it has still to read the registers which the name maps (R16); `first` is what an
earlier write, within whose latency the operation was issued, leaves there instead of the result (R21). -/
structure Pend where
  op : Nat
  cls : RegClass
  name : Nat
  source : Bool
  reads : Bool
  clobbered : Bool
  first : Option (VReg × BitVec 64)
  deriving DecidableEq, Repr

/-- The outstanding-operation counters (R7, R11). -/
inductive Ctr where | ld | st | cp | mx
  deriving DecidableEq, Repr

/-- Registers that a last-read bit has freed and that operations `ops` have still to read (R16). -/
structure Reserved where
  ops : List Nat
  count : Nat
  deriving DecidableEq, Repr

/-- Results of completed operations, waiting for the WAIT that observes them (R22), read at `instant` (R265); `wrote` and
`tile` are what an engine wrote of the vector sources it read, bytes of its block's sg1 or a tile, and nothing has replaced since
(R281). `fab`: an ARED, whose bytes count on barrier code `bar`: who observes it acquires at .FAB (R399). -/
structure Done where
  op : Nat
  ctr : Ctr
  instant : Nat
  writes : List RegWrite
  wrote : List Nat
  tile : Option Nat
  fab : Bool
  bar : Option Nat
  deriving DecidableEq, Repr

/-- A result not yet surely readable (R21): readable from cycle `ready`; until then a read may return `old`. `wrote` is what
a vector name held after the write, which a later write may leave there though the name was freed between. -/
structure Lat where
  cls : RegClass
  name : Nat
  ready : Nat
  old : VReg
  oldWord : BitVec 64
  wrote : VReg
  deriving DecidableEq, Repr

/-- A watchpoint w0 to w3 (R339, R340), also the form of dw0 to dw3 (R356). -/
structure Watch where
  kind : WpKind
  lo : BitVec 64
  hi : BitVec 64
  table : BitVec 16
  en : Bool
  deriving DecidableEq, Repr

/-- A scan cursor of one lane (R223); `last` holds lo until a row has been returned. -/
structure Cursor where
  slot : BitVec 2
  lane : Nat
  table : BitVec 16
  hi : BitVec 64
  last : BitVec 64
  returned : Bool
  exhausted : Bool
  deriving DecidableEq, Repr

/-- One table operation of a transaction (R229): table, key, and the slot that an insert has named. -/
inductive TxOp where
  | look (t : BitVec 16) (k : BitVec 64)
  | ins (t : BitVec 16) (k : BitVec 64) (slot : Nat)
  | repl (t : BitVec 16) (k : BitVec 64)
  | del (t : BitVec 16) (k : BitVec 64)
  deriving DecidableEq, Repr

/-- An open transaction (R227 to R231): its cause (0 while live), lane operations counted, operations in order, the bytes
its stores hold back, those with the row bytes of its table operations, and the lines of its store set. -/
structure Tx where
  cause : Nat
  count : Nat
  ops : List TxOp
  stores : List Host.Cell
  rows : List Host.Cell
  lines : List Nat
  deriving DecidableEq, Repr

/-- A wait that holds an unsplit group after its arrival (R158, R162, R344): BAR.SYNC, or REGROUP with its operands. -/
structure Wait where
  regroup : Bool
  code : Nat
  gen : BitVec 16
  addr : VA
  next : VA
  d : Reg
  a : Reg
  b : Reg
  deriving DecidableEq, Repr

/-- PLACE (R85): the partition and residency slot of a group. -/
structure Place where
  part : Partition
  slot : BitVec 4
  deriving DecidableEq, Repr

/-- A group (R7): registers, trap state, watchpoints, cursors, transaction, and the constants its launch gives it.
`frags` are its fragments other than the one in focus, `backed` the entries of its backing area with the bits written there (R137). `seen` is the instant of the latest read or acquire that its later loads
are ordered after (R265, R266). `handler` is the entry of the fragment that handles a fault, and
after ERET the one that SUPP is for; `tepcWritten` says that SYSWR wrote TEPC. -/
structure Group where
  id : GroupId
  job : BitVec 32
  launchId : BitVec 32
  priv : Bool
  prot : Bool
  kt : Nat
  det : Bool
  trapVec : VA
  bx : BitVec 32
  byy : BitVec 32
  bz : BitVec 32
  gx : BitVec 32
  gy : BitVec 32
  gz : BitVec 32
  ngrp : Nat
  clb : Nat
  place : Place
  v : Vector (Option VReg) 32
  s : Vector (BitVec 64) 32
  k : Vector Mask 8
  sp : BitVec 64
  sh : Vector (BitVec 512) 8
  sg : Vector Seg 8
  ld : Nat
  st : Nat
  cp : Nat
  mx : Nat
  role : Nat
  quota : Nat
  reserved : List Reserved
  deferredFree : Mask
  unmapped : Bool
  opCache : List (Nat × Nat)
  tcause : BitVec 64
  taddr : BitVec 64
  tmask : BitVec 32
  tepc : VA
  tepcWritten : Bool
  tem : BitVec 32
  tmode : Bool
  supp : Bool
  pend : Bool
  waitr : Bool
  handler : Option Nat
  waitRec : Option Wait
  wait : Option Wait
  w : Vector Watch 4
  cst : BitVec 4
  cursors : List Cursor
  tx : Option Tx
  txCause : Nat
  cycle : Nat
  issued : Nat
  seen : Nat
  lat : List Lat
  pending : List Pend
  done : List Done
  frags : List Frag
  splits : List Split
  backed : List (Nat × Nat)
  ended : Bool
  deriving DecidableEq, Repr

/-! ### Blocks, barriers and queues of a cluster launch -/

/-- A REGROUP arrival of the current phase (R162), with the instruction's address and the cycle of its issue, from which the latency of
S(d) counts (R21); `dl`: DL 1 prefixes it where K ≥ 1 (R129). -/
structure Regrouping where
  g : Nat
  addr : VA
  cycle : Nat
  d : Reg
  a : Reg
  b : Reg
  dl : Bool
  deriving DecidableEq, Repr

/-- A barrier (R154). `arrivals` are the arrival bits by block and group; `regroups` the REGROUPs that arrived. -/
structure Barrier where
  expected : BitVec 16
  arrived : BitVec 16
  target : BitVec 32
  bytes : BitVec 32
  gen : BitVec 16
  arrivals : List (Nat × Nat)
  regroups : List Regrouping
  deriving DecidableEq, Repr

/-- A scale register: 128 bytes, those of them that are poisoned (R210), and its tag (logical slot, version) or none (R282,
R284). -/
structure ScaleReg where
  bytes : List Byte
  poison : List Nat
  tag : Option (Nat × BitVec 8)
  deriving DecidableEq, Repr

/-- An entry of a remote queue: where it lies and which block appended it (R197); `popped` until freed (R246). -/
structure QEntry where
  off : Nat
  src : Nat
  popped : Bool
  deriving DecidableEq, Repr

/-- A remote queue of one block (R196, R197): entries oldest first, the next append position, credits by block index. -/
structure RemoteQueue where
  entries : List QEntry
  tail : Nat
  credits : List (Nat × Nat)
  deriving DecidableEq, Repr

/-- An entry of a block's determinism buffer (R240, R295): one lane's addition by the physical
addresses of its bytes, or a tile's by the address of each word (none: not written), whose values and poisoned elements its
drain fills in. -/
inductive DetEntry where
  | lane (g : Nat) (pas : List Nat) (x : BitVec 32)
  | tile (g op : Nat) (pas : List (Option Nat)) (vals : List (BitVec 32)) (pois : List Nat)
  deriving DecidableEq, Repr

/-- A resident, stopping or saved block (R146, R171, R172, R180); `area` is its place in the launch's context area (R347). -/
structure Block where
  l : Nat
  idx : Nat
  cu : Option CuRef
  die : BitVec 2
  order : Nat
  area : Nat
  slots : Nat
  tiles : Nat
  scratch : List Host.Cell
  scratchPoison : List Nat
  ver : List (BitVec 8)
  swz : List Bool
  acc : List (Nat × BitVec 32)
  accPoison : List Nat
  sc : List ScaleReg
  bars : Vector Barrier 16
  queues : List RemoteQueue
  detBuf : List DetEntry
  ngrp : Nat
  endedGroups : Mask
  returned : Mask
  stopping : Bool
  stopped : Bool
  saved : Bool
  complete : Bool
  deriving DecidableEq, Repr

/-- A cluster launch (R171): its first block, how many blocks it holds, and its cluster barriers. -/
structure ClusterLaunch where
  l : Nat
  c : Nat
  blocks : Nat
  die : BitVec 2
  cluster : BitVec 3
  bars : Vector Barrier 8
  deriving DecidableEq, Repr

/-! ### Operations in flight -/

/-- Where a byte lies: device memory by physical address, host memory by PASID and I/O address, a block's sg1. -/
inductive Loc where
  | dev (pa : Nat)
  | host (pasid : Nat) (va : Nat)
  | scr (l blk o : Nat)
  deriving DecidableEq, Repr

/-- One lane's access: its segment offset (TADDR), its bytes, and data to write. -/
structure Acc where
  lane : Nat
  off : Nat
  locs : List Loc
  data : List Byte
  deriving DecidableEq, Repr

/-- Where a load's bytes go: a vector name or pair, whole vectors, or a scalar. -/
inductive LoadDst where
  | vec (d : Nat) (pair : Bool)
  | scalar (d : Nat)
  deriving DecidableEq, Repr

/-- What an atomic access does with each lane (R239, R241, R243). -/
inductive AtomKind where
  | atom (op : AtomOp)
  | cas
  | rd
  | rdx
  | wr
  | wrx
  deriving DecidableEq, Repr

/-- One lane of an atomic access: its word, operand and comparand. -/
structure AtomLane where
  lane : Nat
  off : Nat
  locs : List Loc
  x : BitVec 64
  cmp : BitVec 64
  deriving DecidableEq, Repr

/-- The point operations of a keyed table (R250). -/
inductive PointOp where | find | ins | repl | del
  deriving DecidableEq, Repr

/-- A table descriptor (R249). -/
structure TDesc where
  q : Nat
  w : Nat
  m : Nat
  x : Nat
  table : BitVec 16
  deriving DecidableEq, Repr

/-- One lane of LDR or STR in the .Q form: its reference, offset and width, the bytes it names unless it is stale at issue, and
the bytes it brings (R248). -/
structure RowLane where
  lane : Nat
  ref : BitVec 64
  off : Nat
  len : Nat
  locs : List Loc
  data : List Byte
  deriving DecidableEq, Repr

/-- One lane of a point operation: key and the words it brings. -/
structure KeyLane where
  lane : Nat
  key : BitVec 64
  words : List (BitVec 32)
  deriving DecidableEq, Repr

/-- The three copy forms (R302). -/
inductive CopyDir where | into | out | rem
  deriving DecidableEq, Repr

/-- A copy (R273 to R283): shape record, coordinates, control word, the block whose scratchpad it touches, and the ranges
of virtual addresses that its memory parts may lie in (R276). -/
structure CopyOp where
  dir : CopyDir
  shape : BitVec 512
  coords : List Int
  ctl : BitVec 64
  blk : Nat
  segs : List (Nat × Nat)
  deriving DecidableEq, Repr

/-- What a memory part of a copy came to (R276, R278). -/
inductive PartEnd where | ok | range | key | poison
  deriving DecidableEq, Repr

/-- A part that has been performed, with the bytes it read. -/
structure PartData where
  i : Nat
  bytes : List Byte
  fate : PartEnd
  deriving DecidableEq, Repr

/-- An operand of a matrix operation: first slot, the format's NS flag, and the scale registers bound to it at issue
(R285, R304). -/
structure MatOperand where
  slot : Nat
  ns : Bool
  regs : List Nat
  deriving DecidableEq, Repr

/-- A matrix-queue operation (R304 to R310) with the operands read at issue. -/
inductive MatKind where
  | mma (z : Bool) (a b : MatOperand)
  | mmag (z : Bool) (a : MatOperand) (nr lo : Nat) (b : MatOperand)
  | mmat (z : Bool) (a da b db : MatOperand)
  | amld (slot : Nat)
  | amst (slot : Nat)
  | amzero
  | amrow (d : Nat) (mask : BitVec 64)
  | amscl (lo hi : Lanes)
  deriving DecidableEq, Repr

/-- A query (R318, R325): cache record, sequence, tokens, head, scale, query vector, destination. -/
structure Query where
  crec : BitVec 512
  seq : BitVec 32
  n : Nat
  h : Nat
  sigma : BitVec 32
  q : List Lanes
  dest : Nat
  l : Nat
  blk : Nat
  die : BitVec 2
  deriving DecidableEq, Repr

/-- A block that a query has resolved: logical block, physical block, its address (none: missing). -/
structure Resolved where
  lb : Nat
  block : Option (Nat × Nat)
  prot : Bool
  deriving DecidableEq, Repr

/-- The local buffer of a link operation: of its block's sg1 by offset, or by virtual address; its length in bytes (R396). -/
structure LocalBuf where
  scr : Bool
  base : Nat
  len : Nat
  deriving DecidableEq, Repr

/-- The effect of an operation in flight; `const` marks a load of sg4. -/
inductive OpKind where
  | load (dst : LoadDst) (accs : List Acc) (acq : Option Scope) (const : Bool)
  | store (accs : List Acc) (rel : Option Scope)
  | results
  | atomic (k : AtomKind) (scope : Scope) (w64 : Bool) (d : Nat) (lanes : List AtomLane)
  | point (p : PointOp) (d : Nat) (desc : TDesc) (lanes : List KeyLane)
  | tnext (cur : BitVec 2) (n : Nat) (d : Nat) (desc : TDesc) (lanes : List (Nat × Option (BitVec 16)))
  | row (wr wide : Bool) (d q : Nat) (lanes : List RowLane)
  | tstat (sel : StatSel) (d : Nat) (table : BitVec 16)
  | kvapp (accs : List Acc)
  | qapp (l blk q : Nat) (src : Nat) (off : Nat) (data : List Byte)
  | copy (c : CopyOp)
  | mat (m : MatKind) (tile : Nat) (fmt : BitVec 64)
  | drain (add : Bool) (tile : Nat) (fmt : BitVec 64) (scratch : Bool) (base pitch rb : Nat) (buffered : Bool)
  | query (q : Query)
  | send (src : LocalBuf) (dst : Nat) (dev : BitVec 21) (len : Nat) (sig : Option Nat)
  | recv (dst : LocalBuf) (src : Nat) (dev : BitVec 21) (len : Nat) (sig : Option Nat)
  | ratom (op : AtomOp) (w64 : Bool) (d : Nat) (dev : BitVec 21) (lanes : List AtomLane)
  | ared (buf : LocalBuf) (lva lend : Nat) (list : Option (List (BitVec 32))) (op : BitVec 3) (count : BitVec 24)
      (coll : BitVec 32) (k : Nat)
  deriving DecidableEq, Repr

/-- An operation in flight: its group, counter, the instruction that issued it, and how far it has got. `act` are the lanes that it is
for, `base` the base of the segment that its lanes address, `role` its group's at issue, `entered` orders the entries of a queue (R293, R294). `deferred` is a start condition not yet met (R294); `parts`, `resolved` and `records` are the parts,
blocks and stacks done, `buf` what parts or a tile gave; `src`, `img` and `dst` are the bytes it reads in its block's sg1,
writes in a block's sg1 and writes in device memory, `instant` when it was performed (R265), `spoilt` those of them that another party has written meanwhile and
`clobbered` says so of what it computes from (R268, R269, R303), `before` what those held until then (R299); `hold` marks a store in the injector's hold buffer
(R364). -/
structure Op where
  id : Nat
  gid : GroupId
  job : BitVec 32
  cu : CuRef
  ctr : Option Ctr
  addr : VA
  kind : OpKind
  act : Mask
  base : Nat
  role : Nat
  entered : Nat
  started : Bool
  performed : Bool
  instant : Nat
  parts : List Nat
  resolved : List Resolved
  records : List Nat
  buf : List PartData
  results : List RegWrite
  cst : BitVec 4
  deferred : Option (BarRef × BitVec 16)
  bar : Option BarRef
  bytes : Nat
  src : List (Nat × Nat)
  img : List (Nat × Nat × Nat)
  dst : List (Nat × Nat)
  spoilt : List Loc
  before : List (Loc × Byte)
  clobbered : Bool
  hold : Bool
  deriving DecidableEq, Repr

/-- A FENCE whose scope only parties of a block, CU, cluster or die share: it stands before its group's operations from number
`before` on (R257). -/
structure FenceMark where
  gid : GroupId
  cu : CuRef
  scope : Scope
  before : Nat
  deriving DecidableEq, Repr

/-- Accesses of a group that were performed before earlier operations `behind`, which an ordering instruction of a narrow scope
keeps before them toward the parties that share it (R257, R267): until those have been performed too, such parties do not reach
the bytes. -/
structure Window where
  gid : GroupId
  cu : CuRef
  scope : Scope
  locs : List Loc
  wr : Bool
  behind : List Nat
  deriving DecidableEq, Repr

/-- A record that PUSHM has stored (R97, R98): its class, count and K, and where its bytes lie. -/
structure Spilled where
  scalar : Bool
  count : Nat
  kt : Nat
  locs : List Loc
  deriving DecidableEq, Repr

/-! ### Launches, queues, jobs, counters -/

/-- A launch record (R168). -/
structure LaunchRec where
  kaddr : BitVec 64
  gx : BitVec 32
  gy : BitVec 32
  gz : BitVec 32
  ngrp : Nat
  flags : BitVec 8
  regs : Nat
  scratch : Nat
  acc : Nat
  em : BitVec 32
  clb : Nat
  fmt : BitVec 64
  trapVec : BitVec 64
  roles : List Nat
  bbar : List Nat
  cbar : List Nat
  lbar : List Nat
  segt : BitVec 64
  leasel : BitVec 64
  nlease : Nat
  nsucc : Nat
  preds : Nat
  succl : BitVec 64
  launchId : BitVec 32
  graphId : BitVec 32
  phaseId : BitVec 32
  jobId : BitVec 32
  ctxa : BitVec 64
  bytes : List Byte
  deriving DecidableEq, Repr

/-- A leased range (R168 LEASEL, R205): host marks a host I/O range. -/
structure Lease where
  lo : Nat
  len : Nat
  host : Bool
  deriving DecidableEq, Repr

/-- A launch (R170 to R175): `state` and `cause` are those of its counter word (R174), `final` what it will record when
its stop completes. -/
structure Launch where
  uid : Nat
  lrec : LaunchRec
  queue : Nat
  state : Nat
  cause : Nat
  done : Nat
  preds : Nat
  next : Nat
  ready : Bool
  pins : Bool
  leases : List Lease
  seg : List Seg
  qcfg : List (BitVec 64)
  detF : List (BitVec 16 × Nat)
  detUsed : List (BitVec 16 × Nat × Nat)
  lbars : Vector Barrier 4
  final : Option (Nat × Nat)
  priv : Bool
  prot : Bool
  hosted : List (BitVec 40)
  deriving DecidableEq, Repr

/-- A launch queue (R176, R177): `order` is its dispatch order, `places` the launches that take one of its 64 places. -/
structure Queue where
  level : BitVec 6
  tickets : BitVec 16
  pq : Bool
  job : BitVec 32
  pass : BitVec 48
  order : List Nat
  places : List Nat
  deriving DecidableEq, Repr

/-- A sealed job's slots of seal keys, egress bucket and weight region (R373 to R375). -/
structure Seal where
  slots : List (BitVec 10)
  tokens : BitVec 32
  burst : BitVec 32
  rate : BitVec 32
  lo : VA
  hi : VA
  deriving DecidableEq, Repr

/-- A job's registers (R407) and the marks system software gives it (R342, R366, R208); `created`: its JOBCFG has been written;
`dispatched`: the occurrence of its previous launch dispatch (R362). -/
structure Job where
  id : BitVec 32
  pasid : BitVec 20
  priv : Bool
  prot : Bool
  ats : Bool
  ptroot : BitVec 64
  tdir : BitVec 64
  wdog : BitVec 64
  retired : Bool
  created : Bool
  dispatched : Option Nat
  sealed : Option Seal
  deriving DecidableEq, Repr

/-- A graph, phase or job counter (R174). -/
structure Counter where
  lvl : Level
  id : BitVec 32
  job : BitVec 32
  expected : BitVec 48
  state : Nat
  cause : Nat
  done : Nat
  deriving DecidableEq, Repr

/-! ### Keyed tables and the KV cache -/

/-- A leaf of the ordered index (R220): its keys and their slots, ascending. -/
structure Leaf where
  keys : List (BitVec 64 × Nat)
  deriving DecidableEq, Repr

/-- A bound table (R212 to R226). `rows` is the key set with its slots; `leaves` and `inner` (child counts per node,
one list per inner level, lowest first) are the ordered index; `buckets` the bucket chains of the hashed index; `frozen` the slots freed while deterministic launches, named, use the table
(R226); `lost` counts
the pages of the index pool that were retired when it was bound (R211). -/
structure Table where
  job : BitVec 32
  num : BitVec 16
  kind : Nat
  rsz : Nat
  hb : Nat
  hdie : BitVec 2
  hslice : BitVec 5
  rbhw : Bool
  detres : Nat
  rpool : Nat
  rcap : Nat
  ipool : Nat
  ipages : Nat
  splits : BitVec 32
  merges : BitVec 32
  rows : List (BitVec 64 × Nat)
  gens : List (Nat × BitVec 8)
  leaves : List Leaf
  inner : List (List Nat)
  buckets : List (Nat × List (List (BitVec 64)))
  frozen : List (Nat × List Nat)
  root : Nat
  lost : Nat
  users : List Nat
  deriving DecidableEq, Repr

/-- An entry of a die's block translation cache (R316): the block's number and physical address, and whether its page is
protected. -/
structure BtcEntry where
  die : BitVec 2
  job : BitVec 32
  table : BitVec 16
  key : BitVec 64
  block : Nat
  pa : Nat
  prot : Bool
  deriving DecidableEq, Repr

/-- A push onto a free list that waits for pins to drop (R317): job, die, address of the list, block. -/
structure KvPush where
  job : BitVec 32
  die : BitVec 2
  free : Nat
  block : Nat
  deriving DecidableEq, Repr

/-- Pins of a KV block, by its physical address, and the push that waits for them (R317). -/
structure KvPin where
  pa : Nat
  count : Nat
  push : Option KvPush
  deriving DecidableEq, Repr

/-! ### Memory system -/

/-- A byte of device memory that has been written, by its physical address: the value that its stack may still hold, the group whose
KVAPP has written it last, the groups whose releases order the write, whether one of them has released it, and at .MEM or wider, so
that it is written back, and the groups whose queries see it since (R263, R271, R321). -/
structure Dirty where
  pa : Nat
  old : Byte
  by_ : Option GroupId
  known : List GroupId
  released : Bool
  atMem : Bool
  sure : List GroupId
  deriving DecidableEq, Repr

/-- A cached translation (R202): of CU `cu`'s TLB or of the die's; the page's base, size and table entry. -/
structure TlbEntry where
  die : BitVec 2
  cu : Option (BitVec 6)
  job : BitVec 32
  base : Nat
  size : Nat
  pte : BitVec 64
  deriving DecidableEq, Repr

/-- A line in a CU's L1 (R199), filled in occurrence `filled`; `const` marks a line of a launch's sg4. -/
structure L1Line where
  cu : CuRef
  line : Nat
  const : Option Nat
  filled : Nat
  data : List Byte
  deriving DecidableEq, Repr

/-! ### Debug, trust, links, host -/

/-- The debug registers of a partition (R352, R353, R356, R359); `dumpAsked`: a dump waits for tokens (R375). -/
structure DebugPart where
  part : Partition
  slot : BitVec 5
  stopped : Bool
  dumped : Bool
  cause : BitVec 2
  refused : Bool
  fslot : BitVec 5
  wphit : BitVec 4
  lanes : BitVec 32
  stepping : Bool
  dumpAsked : Bool
  dw : Vector Watch 4
  pendings : List Nat
  leaves : Vector (BitVec 64) 14
  snap : Vector (BitVec 64) 14
  deriving DecidableEq, Repr

/-- A barrier whose hang timer stands still, as the trace has noted it (R349, R361): its job, block, held group and die. -/
structure HeldBar where
  bar : BarRef
  job : BitVec 32
  blk : Nat
  grp : Nat
  die : BitVec 2
  deriving DecidableEq, Repr

/-- The perturbation injector of a die (R364). -/
structure Injector where
  lo : VA
  hi : VA
  en : Bool
  n : BitVec 16
  deriving DecidableEq, Repr

/-- A key slot (R369) with its key bytes. -/
structure KeySlot where
  n : BitVec 10
  twbase : VA
  job : BitVec 32
  kind : BitVec 2
  live : Bool
  key : BitVec 512
  deriving DecidableEq, Repr

/-- A protected stream (R371, R372): two key sets, CUR, and the non-posted requests in flight with their key index. -/
structure Stream where
  ref : StreamRef
  set0 : Option (BitVec 10)
  set1 : Option (BitVec 10)
  cur : Bool
  flight : List (Nat × Bool)
  insecure : Bool
  job : BitVec 32
  deriving DecidableEq, Repr

/-- TDI states (R379). -/
inductive TdiSt where | unlocked | locked | run | error
  deriving DecidableEq, Repr

/-- A TDI (R379 to R382): its job, state, lock digest, whether a stop waits for its clears (R367), and whether the log record of an entry
to ERROR does. -/
structure Tdi where
  n : BitVec 4
  job : BitVec 32
  st : TdiSt
  digest : BitVec 256
  stopping : Bool
  failing : Bool
  deriving DecidableEq, Repr

/-- An action that is logged, as it waits for room in the access log's ring (R378). -/
inductive LogAction where
  | keyLoad (slot : BitVec 10) (job : BitVec 32) (twbase : BitVec 52) (key : BitVec 512)
  | keyZeroise (slot : BitVec 10)
  | sealDerive (slot : BitVec 10) (job : BitVec 32) (region : BitVec 64) (base : BitVec 52) (policy : BitVec 256)
  | regionSet (job : BitVec 32) (lo hi : BitVec 52) (policy : BitVec 256)
  | linkLoad (stream : StreamRef) (slot : BitVec 10) (job : BitVec 32) (key : BitVec 256)
  | setRetire (stream : StreamRef)
  | lock (tdi : BitVec 4)
  | start (tdi : BitVec 4)
  | pskFinish (msg : List (BitVec 8)) (session : BitVec 32)
  | endSession (msg : List (BitVec 8)) (session : BitVec 32)
  | vendor (msg : List (BitVec 8)) (session : BitVec 32) (stream : BitVec 3) (slot : BitVec 10) (job : BitVec 32) (key : BitVec 256)
  | image (x : FirmwareImage)
  deriving DecidableEq, Repr

/-- The access log (R376 to R378): next sequence number, chain value, records in the ring (sequence, bytes) and the place in it of
the next one, how far the host acknowledged, refusals not yet logged, LMS leaf, boot counter, records that wait for room, and actions
that wait for it. -/
structure AccessLog where
  seq : BitVec 64
  chain : BitVec 256
  ring : List (Nat × List Byte)
  next : Nat
  acked : BitVec 64
  refusals : Nat
  leaf : Nat
  boot : BitVec 64
  waiting : List (Nat × BitVec 32 × List Byte)
  held : List LogAction
  deriving DecidableEq, Repr

/-- The SPDM responder (R383, R384): phase (0 none, 1 version, 2 capabilities, 3 negotiated), transcripts, sessions. -/
structure Spdm where
  phase : Nat
  vca : List Byte
  chal : List Byte
  meas : List Byte
  sessions : List (BitVec 32 × Bool × List Byte)
  leaf : Nat
  deriving DecidableEq, Repr

/-- A cluster's protection (R366, R367): the job it is protected for, and whether a clear is still to run. -/
structure ClusterProt where
  n : Nat
  job : Option (BitVec 32)
  clearing : Bool
  toJob : Option (BitVec 32)
  deriving DecidableEq, Repr

/-- A flit of this device (R389, R390): its link sequence number, the operation and the part of it that it carries, none for an answer
to another device, stream sequence number, type, destination, virtual address, data bytes, the key index under which it was
issued (R372), and bytes 0 to 239 as the replay buffer holds them. -/
structure Flit where
  seq : Nat
  op : Option Nat
  part : Nat
  sseq : Nat
  type : Nat
  dev : BitVec 21
  va : Nat
  data : List Byte
  key : Bool
  bytes : List Byte
  deriving DecidableEq, Repr

/-- A Tether port (R389, R390): LNKCFG, next link sequence number, flits not yet acknowledged (oldest first), replays of
the oldest, requests that their destination has not answered, requests answered busy. -/
structure Port where
  peer : BitVec 21
  tier : BitVec 4
  st : BitVec 4
  en : Bool
  seq : Nat
  unacked : List Flit
  replays : Nat
  inFlight : List Flit
  busy : List Flit
  deriving DecidableEq, Repr

/-- A request stream received from another device (R390): the next sequence number to perform. -/
structure RxStream where
  src : BitVec 21
  stream : Nat
  expect : Nat
  deriving DecidableEq, Repr

/-- Power states of the device (R409). -/
inductive Power where | d0 | d3hot | d3cold
  deriving DecidableEq, Repr

/-- The event counters outside the slot tree (R359): predicted accesses squashed, TLB misses, bank conflicts by bank, and node visits
of Sedge engines. -/
structure EventCounts where
  squashed : Nat
  tlbMisses : Nat
  bankConflicts : List (Nat × Nat)
  nodeVisits : Nat
  deriving DecidableEq, Repr

/-- A Bridle link (R388): 0 up, 1 retrained on fewer lanes, 2 failed; flits replayed. -/
structure Bridle where
  st : Nat
  replays : Nat
  lost : Nat
  deriving DecidableEq, Repr

/-- What the device hands to the outside: MSI-X vectors, read answers, request-ring posts, SPDM bytes, link flits. -/
inductive HostOut where
  | msix (v : Nat)
  | data (bytes : List Byte)
  | abort
  | request (id task : Nat) (job : BitVec 32) (args : List Nat)
  | spdm (bytes : List Byte)
  | pri (pasid : BitVec 20) (page : BitVec 40)
  | pageFault (job : BitVec 32) (page : BitVec 40)
  | ats (pasid : BitVec 20) (page : BitVec 40)
  | linkFlit (port : Nat) (bytes : List Byte)
  deriving DecidableEq, Repr

/-- A host-assisted request waiting for its completion record (R406). -/
structure HostReq where
  id : Nat
  task : Nat
  job : BitVec 32
  args : List Nat
  answered : Option Bool
  deriving DecidableEq, Repr

/-- Ramyel's log (R362): launches as accepted, at each launch's dispatch the digests of its pages, commits and atomic accesses by launch and linear
group index, the latter with the group's count of issued instructions. -/
inductive ReplayRec where
  | launch (job : BitVec 32) (bytes : List Byte)
  | dispatch (job launch : BitVec 32) (digests : List (Nat × BitVec 256))
  | commit (job launch : BitVec 32) (g : Nat) (ok : Bool)
  | atomic (job : BitVec 32) (line : Nat) (launch : BitVec 32) (g count : Nat)
  deriving DecidableEq, Repr

/-- The instruction being issued, as fetched: address for TEPC, its own address, the address after it, the gap and slot
code of R18, the mode of a DL prefixed to it, the leaf of the slot tree that its issue counts on (R357), and whether it has
divided its fragment, which has then its place in the rotation list (R182). -/
structure Latch where
  start : VA
  here : VA
  next : VA
  gap : Nat
  code : BitVec 2
  dl : Option Bool
  leaf : Nat
  split : Bool
  deriving DecidableEq, Repr

/-- The whole machine. `jobsNext` are job registers written while the job is live, in force from its next launch
dispatch (R407); `copyRuns` counts the role-1 starts in a row of each CU's copy queue (R293); `turn` counts the events
that the device has taken by itself and `picks` the choices of a fragment since the last of them; `follow` is what
remains of a replay log that a run is to follow (R363); `hostWritten` gives the pages that the host has written, each with the
occurrence of its last write (R362). `flits` are requests whose port went down, waiting for another
(R392); `spills` the records that PUSHM has stored and no later record covers (R99). `grp` and `frag` are the issuing group and fragment when `live`; `groups` holds the others. -/
structure State where
  live : Bool
  grp : Group
  frag : Frag
  groups : List Group
  latch : Latch
  blocks : List Block
  clusterLaunches : List ClusterLaunch
  ops : List Op
  fences : List FenceMark
  windows : List Window
  spills : List Spilled
  copyRuns : List (CuRef × Nat)
  launches : List Launch
  queues : Vector Queue 256
  jobs : List Job
  jobsNext : List Job
  counters : List Counter
  tables : List Table
  btc : List BtcEntry
  pins : List KvPin
  mem : List Host.Cell
  dirty : List Dirty
  hostMem : List Host.Cell
  poison : List Nat
  correctable : List (Nat × Nat)
  scrubAt : Nat
  retired : List Nat
  retiring : List Nat
  tlb : List TlbEntry
  l1 : List L1Line
  atc : List (BitVec 20 × BitVec 40)
  ready : BitVec 64
  modeSplit : BitVec 64
  bar2Win : BitVec 64
  pwrLim : Nat
  dumpA : BitVec 64
  traceA : BitVec 64
  logA : BitVec 64
  devId : BitVec 21
  power : Power
  clocks : Vector ClockStep 4
  lock : Option ClockStep
  lockBroken : BitVec 4
  time : BitVec 64
  dbg : List DebugPart
  counts : EventCounts
  traceNext : Nat
  traceWait : List (Option (BitVec 32) × List Byte)
  heldBars : List HeldBar
  errorLog : List (Nat × Bool)
  replay : List ReplayRec
  follow : List ReplayRec
  hostWritten : List (Nat × Nat)
  jobPages : List (BitVec 32 × Nat)
  inj : Vector Injector 4
  out : List HostOut
  hostReqs : List HostReq
  kslots : List KeySlot
  streams : List Stream
  log : AccessLog
  tdis : List Tdi
  spdm : Spdm
  meas : Vector (BitVec 256) 6
  firmware : List FirmwareImage
  clusters : List ClusterProt
  bridle : Vector Bridle 6
  ports : Vector Port 16
  txStreams : List (GroupId × BitVec 21 × Nat)
  flits : List Flit
  rxStreams : List RxStream
  exportPins : List (BitVec 32 × Nat × Nat)
  contributions : List Contribution
  aredCount : List (BitVec 32 × BitVec 32 × Nat)
  agenda : List Instr
  turns : List Partition
  turn : Nat
  picks : Nat
  fresh : Nat
  nextId : Nat
  nextRot : Nat
  nextOrder : Nat
  deriving DecidableEq, Repr

/-! ### Reset -/

/-- No wait, no watch: the disabled watchpoint. -/
def Watch.off : Watch := { kind := .rd, lo := 0, hi := 0, table := 0, en := false }

/-- A barrier that is not configured (R154: EXPECTED 0). -/
def Barrier.none : Barrier :=
  { expected := 0, arrived := 0, target := 0, bytes := 0, gen := 0, arrivals := [], regroups := [] }

/-- CU 0 of cluster 0 of die 0. -/
def CuRef.zero : CuRef := { die := 0, cluster := 0, cu := 0 }

/-- The one fragment of a group at its start but for what the launch gives (R7, R133, R138). (DESIGN CHOICE, log
entry 2) -/
def Frag.start : Frag :=
  { pc := 0, em := 0, lanes := BitVec.allOnes 32, jr := 0, fmt := 0, st := .ready, entry := 0, split := none,
    written := false, again := false, held := false, skip := false, rot := 0, run := 0 }

/-- A group at its start but for what the launch gives (R7, R10, R333). (DESIGN CHOICE, log entry 2) -/
def Group.start : Group :=
  { id := { l := 0, blk := 0, g := 0 }, job := 0, launchId := 0, priv := false, prot := false, kt := 0, det := false,
    trapVec := 0, bx := 0, byy := 0, bz := 0, gx := 0, gy := 0, gz := 0, ngrp := 1, clb := 0,
    place := { part := { cu := CuRef.zero, part := 0 }, slot := 0 },
    v := Vector.replicate 32 none, s := Vector.replicate 32 0,
    k := Vector.ofFn fun i => if i.val = 0 then BitVec.allOnes 32 else 0,
    sp := 0, sh := Vector.replicate 8 0, sg := Vector.replicate 8 { base := 0, limit := 0 },
    ld := 0, st := 0, cp := 0, mx := 0, role := 0, quota := 0, reserved := [], deferredFree := 0, unmapped := false,
    opCache := [], tcause := 0, taddr := 0, tmask := 0, tepc := 0, tepcWritten := false, tem := 0, tmode := false, supp := false,
    pend := false, waitr := false, handler := none, waitRec := none, wait := none,
    w := Vector.replicate 4 Watch.off, cst := 0,
    cursors := [], tx := none, txCause := 0, cycle := 0, issued := 0, seen := 0, lat := [], pending := [], done := [],
    frags := [], splits := [], backed := [], ended := false }

/-- The access log before a boot has begun it (R376). (DESIGN CHOICE, log entry 2) -/
def AccessLog.start : AccessLog :=
  { seq := 0, chain := 0, ring := [], next := 0, acked := 0, refusals := 0, leaf := 0, boot := 0, waiting := [], held := [] }

/-- The device right after reset: READY 0, no key, no job, no launch, no memory content (R403, R405, R407, R409).
(DESIGN CHOICE, log entry 2; DESIGN CHOICE, log entry 3) -/
def State.reset : State :=
  { live := false, grp := Group.start, frag := Frag.start, groups := [],
    latch := { start := 0, here := 0, next := 0, gap := 0, code := 0, dl := none, leaf := 0, split := false },
    blocks := [], clusterLaunches := [], ops := [], fences := [], windows := [], spills := [], copyRuns := [], launches := [],
    queues := Vector.replicate 256
      { level := 0, tickets := 0, pq := false, job := 0, pass := 0, order := [], places := [] },
    jobs := [], jobsNext := [], counters := [], tables := [], btc := [], pins := [],
    mem := [], dirty := [], hostMem := [], poison := [], correctable := [], scrubAt := 0, retired := [], retiring := [], tlb := [], l1 := [],
    atc := [],
    ready := 0, modeSplit := 0x3F, bar2Win := 0, pwrLim := 2400, dumpA := 0, traceA := 0, logA := 0, devId := 0, power := .d0,
    clocks := Vector.replicate 4 .mhz3600, lock := none, lockBroken := 0, time := 0,
    dbg := [], counts := { squashed := 0, tlbMisses := 0, bankConflicts := [], nodeVisits := 0 }, traceNext := 0, traceWait := [], heldBars := [], errorLog := [], replay := [], follow := [], hostWritten := [], jobPages := [],
    inj := Vector.replicate 4 { lo := 0, hi := 0, en := false, n := 0 },
    out := [], hostReqs := [],
    kslots := [], streams := [], log := AccessLog.start, tdis := [],
    spdm := { phase := 0, vca := [], chal := [], meas := [], sessions := [], leaf := 0 },
    meas := Vector.replicate 6 0, firmware := [], clusters := [],
    bridle := Vector.replicate 6 { st := 0, replays := 0, lost := 0 },
    ports := Vector.replicate 16
      { peer := 0, tier := 0, st := 0, en := false, seq := 0, unacked := [], replays := 0, inFlight := [], busy := [] },
    txStreams := [], flits := [], rxStreams := [], exportPins := [], contributions := [], aredCount := [],
    agenda := [], turns := [], turn := 0, picks := 0, fresh := 0, nextId := 0, nextRot := 0, nextOrder := 0 }

end Sys2Proof.Machine
end

