-- ==== Sys2Proof/Machine/Memory.lean ====
section
/-! DEFINITION. Bytes: the canonical form of memory, reads and writes of bytes and words, where a byte lies, address
translation, leases and the L1 (00_scope.md R3, 11_memory_levels_and_translation.md). -/

namespace Sys2Proof.Machine

/-! ### Canonical memory -/

/-- What an address that memory does not list reads as. (DESIGN CHOICE, log entry 1) -/
def unlisted : Byte := 0

/-- Read one byte. (DESIGN CHOICE, log entry 1) -/
def readByte : List Host.Cell → Nat → Byte
  | [], _ => unlisted
  | (a, b) :: t, x => if x = a then b else if x < a then unlisted else readByte t x

/-- Write one byte, keeping the canonical form. -/
def writeByte : List Host.Cell → Nat → Byte → List Host.Cell
  | [], x, v => if v = unlisted then [] else [(x, v)]
  | (a, b) :: t, x, v =>
    if x = a then (if v = unlisted then t else (x, v) :: t)
    else if x < a then (if v = unlisted then (a, b) :: t else (x, v) :: (a, b) :: t)
    else (a, b) :: writeByte t x v

/-- The canonical form: addresses rise strictly from above `lo`, and no listed byte equals what is unlisted. -/
def memOk : Option Nat → List Host.Cell → Bool
  | _, [] => true
  | lo, (a, b) :: t => (match lo with | none => true | some l => decide (l < a)) && b != unlisted && memOk (some a) t

/-- Memory is in canonical form. -/
def Memory.wf (m : List Host.Cell) : Bool := memOk none m

/-- The `n` bytes from `a`. -/
def readBytes (m : List Host.Cell) (a : Nat) : Nat → List Byte
  | 0 => []
  | n + 1 => readByte m a :: readBytes m (a + 1) n

/-- Bytes written from `a` upward. -/
def writeBytes (m : List Host.Cell) (a : Nat) : List Byte → List Host.Cell
  | [] => m
  | b :: t => writeBytes (writeByte m a b) (a + 1) t

/-- Bytes as a little-endian number (R3). -/
def leNat : List Byte → Nat
  | [] => 0
  | b :: t => b.toNat + 256 * leNat t

/-- The `n` little-endian bytes of a number (R3). -/
def leBytes : Nat → Nat → List Byte
  | 0, _ => []
  | n + 1, x => BitVec.ofNat 8 x :: leBytes n (x / 256)

/-! ### Where a byte lies -/

/-- The address of a host byte in `hostMem`: host I/O spaces of different PASIDs lie apart (R207; DESIGN CHOICE, log
entry 12). -/
def hostAddr (pasid va : Nat) : Nat := pasid * 2 ^ 52 + va

/-- The block that owns a scratchpad byte. -/
def State.block? (s : State) (l blk : Nat) : Option Block := s.blocks.find? fun b => b.l == l && b.idx == blk

/-- Read the byte at a place. (DESIGN CHOICE, log entry 12) -/
def State.readLoc (s : State) : Loc → Byte
  | .dev pa => readByte s.mem pa
  | .host p va => readByte s.hostMem (hostAddr p va)
  | .scr l blk o => match s.block? l blk with | some b => readByte b.scratch o | none => unlisted

/-- Change one block. -/
def State.updBlock (s : State) (l blk : Nat) (f : Block → Block) : State :=
  { s with blocks := s.blocks.map fun b => if b.l == l && b.idx == blk then f b else b }

/-- Write the byte at a place. (DESIGN CHOICE, log entry 12) -/
def State.writeLoc (s : State) (p : Loc) (v : Byte) : State :=
  match p with
  | .dev pa => { s with mem := writeByte s.mem pa v }
  | .host q va => { s with hostMem := writeByte s.hostMem (hostAddr q va) v }
  | .scr l blk o => s.updBlock l blk fun b => { b with scratch := writeByte b.scratch o v }

/-- Read bytes at places. -/
def State.readLocs (s : State) (ps : List Loc) : List Byte := ps.map s.readLoc

/-- Write bytes at places, in order. -/
def State.writeLocs (s : State) : List Loc → List Byte → State
  | p :: ps, v :: vs => State.writeLocs (s.writeLoc p v) ps vs
  | _, _ => s

/-! ### Poison (R210) -/

/-- A byte lies in a poisoned 64-byte codeword. -/
def State.poisoned (s : State) : Loc → Bool
  | .dev pa => s.poison.contains (pa / 64)
  | .host _ _ => false
  | .scr l blk o => match s.block? l blk with | some b => b.scratchPoison.contains (o / 64) | none => false

/-- The codewords that places cover whole: an operation that writes all 64 bytes clears the poison, be it lane by lane or part by
part (R210). (DEDUCED, log entry 32) -/
def wholeCodewords (pas : List Nat) : List Nat :=
  (pas.map (· / 64)).eraseDups.filter fun c => (pas.filter fun p => p / 64 == c).eraseDups.length == 64

/-- Device addresses among places. -/
def devAddrs (ps : List Loc) : List Nat := ps.filterMap fun p => match p with | .dev a => some a | _ => none

/-- Poison cleared in device memory by a store to these places (R210). (DEDUCED, log entry 32) -/
def State.clearDevPoison (s : State) (ps : List Loc) : State :=
  if s.poison.isEmpty then s
  else
    let whole := wholeCodewords (devAddrs ps)
    { s with poison := s.poison.filter fun c => !whole.contains c }

/-- Poison cleared in a block's scratchpad by a store to these places (R210). (DEDUCED, log entry 32) -/
def Block.clearPoison (b : Block) (ps : List Loc) : Block :=
  if b.scratchPoison.isEmpty then b
  else
    let whole := wholeCodewords (ps.filterMap fun p => match p with
      | .scr l x o => if l == b.l && x == b.idx then some o else none
      | _ => none)
    { b with scratchPoison := b.scratchPoison.filter fun c => !whole.contains c }

/-- Poison cleared by a store (R210). (DEDUCED, log entry 32) -/
def State.clearPoison (s : State) (ps : List Loc) : State :=
  let s := s.clearDevPoison ps
  { s with blocks := s.blocks.map fun b => b.clearPoison ps }

/-- Poison set at a place (R210). -/
def State.addPoison (s : State) : Loc → State
  | .dev pa => if s.poison.contains (pa / 64) then s else { s with poison := s.poison ++ [pa / 64] }
  | .host _ _ => s
  | .scr l blk o => s.updBlock l blk fun b =>
      if b.scratchPoison.contains (o / 64) then b else { b with scratchPoison := b.scratchPoison ++ [o / 64] }

/-! ### Slots and versions (R193, R194) -/

/-- The version of a logical slot. -/
def Block.version (b : Block) (slot : Nat) : BitVec 8 := b.ver.getD slot 0

/-- Versions advanced by 1 in the slots named, once each (R194). -/
def Block.advance (b : Block) (slots : List Nat) : Block :=
  { b with ver := slots.eraseDups.foldl (fun v i => v.set i (v.getD i 0 + 1)) b.ver }

/-- The blocks and slots that places lie in. -/
def slotsOf (ps : List Loc) : List (Nat × Nat × Nat) :=
  (ps.filterMap fun p => match p with | .scr l b o => some (l, b, o / 1024) | _ => none).eraseDups

/-- Versions advanced for one operation that wrote these places (R194). -/
def State.advanceSlots (s : State) (ps : List Loc) : State :=
  (slotsOf ps).foldl (fun s x => s.updBlock x.1 x.2.1 fun b => b.advance [x.2.2]) s

/-- The L1 is write-through: a store updates a line its own CU holds (R199). (DEDUCED, log entry 18) -/
def L1Line.store (l : L1Line) (pa : Nat) (v : Byte) : L1Line :=
  if l.line == pa / 128 then { l with data := l.data.set (pa % 128) v } else l

/-- L1 lines after a store of these bytes by a CU, or by a party that has no L1. -/
def storeLines (cu : Option CuRef) (ls : List L1Line) (ps : List Loc) (vs : List Byte) : List L1Line :=
  (ps.zip vs).foldl (fun ls pv =>
    match pv.1 with
    | .dev pa => ls.map fun l => if some l.cu == cu then l.store pa pv.2 else l
    | _ => ls) ls

/-- L2 is about to hold a byte, written by party `w`, newer than its stack, which keeps the value of its last write-back; a KVAPP's
value goes there first, and L2 may have written the line back meanwhile (R271). Any number of bytes may be newer than their stacks:
the size of L2 bounds nothing here (R1). (DEDUCED, log entry 17) -/
def State.soil (w : Option GroupId) (s : State) (pa : Nat) : State :=
  if s.dirty.any fun d => d.pa == pa then
    { s with dirty := s.dirty.map fun d =>
        if d.pa == pa then
          { d with
            old := if d.by_.isSome || Config.freeBit s.fresh (2 ^ 41 + pa / 128) then readByte s.mem pa else d.old,
            by_ := none, known := w.toList, released := false, atMem := false, sure := [] }
        else d }
  else { s with dirty := s.dirty ++
    [{ pa := pa, old := readByte s.mem pa, by_ := none, known := w.toList, released := false, atMem := false, sure := [] }] }

/-- A KVAPP of a group has written these bytes: its own queries see them (R271). (DEDUCED, log entry 17) -/
def State.appended (s : State) (i : GroupId) (ps : List Loc) : State :=
  { s with dirty := s.dirty.map fun d => if (devAddrs ps).contains d.pa then { d with by_ := some i } else d }

/-- A group's release carries the writes that it orders to the groups that acquire; at a scope of .MEM or wider (`mem`) it writes
them back to their stacks (R263, R271). (DEDUCED, log entry 17) -/
def State.releaseL2 (s : State) (i : GroupId) (mem : Bool) : State :=
  { s with dirty := s.dirty.map fun d => if d.known.contains i then { d with released := true, atMem := d.atMem || mem } else d }

/-- A launch's completion is a release of all its groups (R173). (DEDUCED, log entry 17) -/
def State.releaseLaunch (s : State) (l : Nat) : State :=
  { s with dirty := s.dirty.map fun d => if d.known.any fun i => i.l == l then { d with released := true } else d }

/-- A group that acquires may be after every write that has been released: its own releases order those too (R263). (DEDUCED, log
entry 17) -/
def State.acquireL2 (s : State) (i : GroupId) : State :=
  { s with dirty := s.dirty.map fun d => if d.released && !d.known.contains i then { d with known := d.known ++ [i] } else d }

/-- A group that acquires at .MEM or wider: its queries see what has been released at such a scope (R271, R321). (DEDUCED, log
entry 17) -/
def State.acquireMem (s : State) (i : GroupId) : State :=
  { s with dirty := s.dirty.map fun d => if d.atMem && !d.sure.contains i then { d with sure := d.sure ++ [i] } else d }

/-- A group has read these bytes: its releases order the writes that it read (R263). (DEDUCED, log entry 17) -/
def State.readL2 (s : State) (i : GroupId) (ps : List Loc) : State :=
  if s.dirty.isEmpty then s
  else
    let pas := devAddrs ps
    { s with dirty := s.dirty.map fun d =>
        if pas.contains d.pa && !d.known.contains i then { d with known := d.known ++ [i] } else d }

/-- Bytes written by party `w` of a CU, or by one that has no L1: memory, that CU's L1 lines, poison (R199, R210). -/
def State.putBytes (s : State) (w : Option GroupId) (cu : Option CuRef) (ps : List Loc) (vs : List Byte) : State :=
  let s := (devAddrs ps).foldl (State.soil w) s
  let s := (s.writeLocs ps vs).clearPoison ps
  { s with l1 := storeLines cu s.l1 ps vs }

/-- A party of a CU has seen these bytes at L2: what its L1 holds of them goes, so that its later loads do not go back behind
what it has seen (R264, R265). (DEDUCED, log entry 18) -/
def State.dropLines (s : State) (cu : CuRef) (ps : List Loc) : State :=
  if s.l1.isEmpty then s
  else { s with l1 := s.l1.filter fun l => !(l.cu == cu && (devAddrs ps).any fun a => a / 128 == l.line) }

/-! ### Placement (R200) -/

/-- The slice, within its die, that is the home of a physical address's line: it alone caches the line, and it is the Sedge home
of an index page there (R200). -/
def homeSlice (pa : Nat) : Nat := (pa / 2 ^ 7 % 32) ^^^ (pa / 2 ^ 16 % 32) ^^^ (pa / 2 ^ 25 % 32)
/-- The die of a physical address (R200). -/
def homeDie (pa : Nat) : Nat := pa / 2 ^ 37 % 4

/-! ### Translation (R201 to R204) -/

/-- The job's registers, if system software has written any (R407). -/
def State.job? (s : State) (j : BitVec 32) : Option Job := s.jobs.find? fun x => x.id == j

/-- A page table entry's fields (R201). -/
def pteV (e : BitVec 64) : Bool := e.getLsbD 0
/-- LEAF (R201). -/
def pteLeaf (e : BitVec 64) : Bool := e.getLsbD 1
/-- PROT (R201). -/
def pteProt (e : BitVec 64) : Bool := e.getLsbD 3
/-- CONTIG (R201). -/
def pteContig (e : BitVec 64) : Bool := e.getLsbD 4
/-- KIND (R201). -/
def pteKind (e : BitVec 64) : Nat := e.toNat / 2 ^ 6 % 4
/-- PA[51:12] as an address (R201). -/
def ptePA (e : BitVec 64) : Nat := e.toNat / 2 ^ 12 % 2 ^ 40 * 2 ^ 12
/-- KEY (R201). -/
def pteKey (e : BitVec 64) : Nat := e.toNat / 2 ^ 52 % 2 ^ 10

/-- The eight bytes of a table entry. -/
def State.pteAt (s : State) (a : Nat) : BitVec 64 := BitVec.ofNat 64 (leNat (readBytes s.mem a 8))

/-- Memory of the device exists below 2^39 (R200). -/
def backed (pa : Nat) : Bool := pa < 2 ^ 39

/-- A leaf entry is valid for a page of `size` bytes (R200, R201); HOST, which has a meaning with V = 0 only, makes one with V = 1
invalid. (DESIGN CHOICE, log entry 31) -/
def leafOk (e : BitVec 64) (size : Nat) : Bool :=
  pteV e && pteLeaf e && !e.getLsbD 5 && pteKind e < 2 && ptePA e % size == 0 && backed (ptePA e)

/-- The fields of an entry but PA; the reserved bits are ignored (R5, R201). -/
def pteFields (e : BitVec 64) : BitVec 10 × BitVec 9 × BitVec 2 :=
  (e.extractLsb' 52 10, e.extractLsb' 3 9, e.extractLsb' 0 2)

/-- The 16 entries of a CONTIG group agree (R201). -/
def State.contigOk (s : State) (table idx : Nat) : Bool :=
  let first := s.pteAt (table + 8 * (idx / 16 * 16))
  ptePA first % 0x10000 == 0 &&
    (List.range 16).all fun i =>
      let e := s.pteAt (table + 8 * (idx / 16 * 16 + i))
      ptePA e == ptePA first + 0x1000 * i && pteFields e == pteFields first

/-- A walk of the levels from `lv` (3 to 0) at table address `t`: base and size of the page and its entry (R201). CONTIG, which has a
meaning at level 0 only, makes a leaf at level 1 or 2 invalid. (DESIGN CHOICE, log entry 31) -/
def State.walkLevels (s : State) (va : Nat) : Nat → Nat → Option (Nat × Nat × BitVec 64)
  | 0, t =>
    let i := va / 2 ^ 12 % 512
    let e := s.pteAt (t + 8 * i)
    if leafOk e 0x1000 then
      if pteContig e then
        if s.contigOk t i then
          let f := s.pteAt (t + 8 * (i / 16 * 16))
          some (va / 2 ^ 16 * 2 ^ 16, 2 ^ 16, f)
        else none
      else some (va / 2 ^ 12 * 2 ^ 12, 2 ^ 12, e)
    else none
  | lv + 1, t =>
    let size := 2 ^ (12 + 9 * (lv + 1))
    let e := s.pteAt (t + 8 * (va / size % 512))
    if pteV e && pteLeaf e then
      if lv + 1 ≤ 2 && leafOk e size && !pteContig e then some (va / size * size, size, e) else none
    else if pteV e && e.toNat % 2 ^ 12 == 1 && e.toNat / 2 ^ 52 == 0 && backed (ptePA e) then
      State.walkLevels s va lv (ptePA e)
    else none

/-- A page-table walk of a job (R201): 16 root entries by VA[51:48], then four levels. (DESIGN CHOICE, log entry 31) -/
def State.walk (s : State) (job : BitVec 32) (va : Nat) : Option (Nat × Nat × BitVec 64) :=
  match s.job? job with
  | none => none
  | some j =>
    let e := s.pteAt (j.ptroot.toNat + 8 * (va / 2 ^ 48 % 16))
    if pteV e && e.toNat % 2 ^ 12 == 1 && e.toNat / 2 ^ 52 == 0 && backed (ptePA e) && va < 2 ^ 52 then
      s.walkLevels va 3 (ptePA e)
    else none

/-- CU number 0 to 39 on its die (R179: by cluster, then by CU). -/
def cuNum (c : CuRef) : Nat := c.cluster.toNat * 8 + c.cu.toNat

/-- Bytes of the ring of the access log. -/
def logRingBytes : Nat := 4096 * (Config.accessRingMore + 1)

/-- The address lies in the ring of the access log, once that is in use: the security firmware alone writes there (R376). (DEDUCED, log
entry 47) -/
def State.firmwareOnly (s : State) (pa : Nat) : Bool :=
  s.log.seq != 0 && decide (Config.accessRingAt ≤ pa ∧ pa < Config.accessRingAt + logRingBytes)

/-! ### Requests to the host (R406) -/

/-- The device posts a request to the host ring (R406). (DEDUCED, log entry 52) -/
def State.postRequest (s : State) (task : Nat) (job : BitVec 32) (args : List Nat) : State :=
  { s with
    nextId := s.nextId + 1,
    hostReqs := s.hostReqs ++ [{ id := s.nextId, task := task, job := job, args := args, answered := none }],
    out := s.out ++ [.request s.nextId task job args] }

/-- The housekeeping tasks of MODESPLIT by bit (R406). -/
def taskWalk : Nat := 0
/-- Rebalancer. -/
def taskRebal : Nat := 1
/-- Lease setup. -/
def taskLease : Nat := 2
/-- Queue selection. -/
def taskSched : Nat := 3
/-- Patrol scrub and page retirement. -/
def taskScrub : Nat := 4
/-- Measurement extension. -/
def taskMeas : Nat := 5

/-- The request of a task with these arguments, if one is posted. (DEDUCED, log entry 52) -/
def State.request? (s : State) (task : Nat) (args : List Nat) : Option HostReq :=
  s.hostReqs.find? fun r => r.task == task && r.args == args

/-! ### TLBs (R202, R406) -/

/-- A TLB as an argument of a host request. (DESIGN CHOICE, log entry 31) -/
def tlbCode (cu : Option Nat) : Nat := match cu with | some c => c + 1 | none => 0

/-- The arguments of a request for the walk of a page that a TLB misses. (DESIGN CHOICE, log entry 31) -/
def walkArgs (die : BitVec 2) (cu : Option Nat) (va : Nat) : List Nat := [die.toNat, tlbCode cu, va / 4096 * 4096]

/-- What the TLBs of a CU and of its die hold for an address (R202). -/
def State.tlbEntry (s : State) (die : BitVec 2) (cu : Option Nat) (job : BitVec 32) (va : Nat) : Option TlbEntry :=
  s.tlb.find? fun t => t.job == job && t.die == die
      && (t.cu == none || t.cu.map BitVec.toNat == cu) && t.base ≤ va && va < t.base + t.size

/-- The request for the walk of a page. -/
def State.walkRequest (s : State) (die : BitVec 2) (cu : Option Nat) (job : BitVec 32) (va : Nat) : Option HostReq :=
  s.hostReqs.find? fun r => r.task == taskWalk && r.job == job && r.args == walkArgs die cu va

/-- An access waits for the host's walk: it misses both TLBs, and the walk is the host's, or was when it was asked for, and has not been
answered (R202, R406 WALK). (DESIGN CHOICE, log entry 31) -/
def State.walkWaits (s : State) (die : BitVec 2) (cu : Option Nat) (job : BitVec 32) (va : Nat) : Bool :=
  (s.tlbEntry die cu job va).isNone &&
    match s.walkRequest die cu job va with
    | some r => r.answered.isNone
    | none => !s.modeSplit.getLsbD taskWalk

/-- The first of these addresses whose walk an access must wait for. -/
def State.walkMissing (s : State) (die : BitVec 2) (cu : Option Nat) (job : BitVec 32) (vas : List Nat) : Option Nat :=
  if s.modeSplit.getLsbD taskWalk && s.hostReqs.isEmpty then none else vas.find? fun va => s.walkWaits die cu job va

/-- The device asks the host for a walk, once (R406 WALK). -/
def State.askWalk (s : State) (die : BitVec 2) (cu : Option Nat) (job : BitVec 32) (va : Nat) : State :=
  if (s.walkRequest die cu job va).isSome then s else s.postRequest taskWalk job (walkArgs die cu va)

/-- The first page of the issuing group's CU whose walk by the host an access to these addresses waits for (R406). -/
def State.myMissing (s : State) (vas : List Nat) : Option Nat :=
  s.walkMissing s.grp.place.part.cu.die (some (cuNum s.grp.place.part.cu)) s.grp.job vas

/-- The issuing group's CU asks the host for a walk (R406). -/
def State.myWalk (s : State) (va : Nat) : State :=
  s.askWalk s.grp.place.part.cu.die (some (cuNum s.grp.place.part.cu)) s.grp.job va

/-- The translation in force: an entry of the CU's or the die's TLB, else a walk (R202), which fails where the host has said so
(R406). (DESIGN CHOICE, log entry 31) -/
def State.translate (s : State) (die : BitVec 2) (cu : Option Nat) (job : BitVec 32) (va : Nat) :
    Option (Nat × Nat × BitVec 64) :=
  match s.tlbEntry die cu job va with
  | some t => some (t.base, t.size, t.pte)
  | none => if (s.walkRequest die cu job va).any fun r => r.answered == some false then none else s.walk job va

/-- Physical address of `va` under a page. -/
def physOf (va : Nat) (p : Nat × Nat × BitVec 64) : Nat := ptePA p.2.2 + (va - p.1)

/-! ### Leases (R205, R207) -/

/-- The launch of a uid. -/
def State.launch? (s : State) (l : Nat) : Option Launch := s.launches.find? fun x => x.uid == l

/-- A device virtual address lies in a leased device range. -/
def Launch.leased (l : Launch) (va : Nat) : Bool :=
  l.leases.any fun r => !r.host && r.lo ≤ va && va < r.lo + r.len
/-- A host I/O address lies in a leased host range. -/
def Launch.hostLeased (l : Launch) (va : Nat) : Bool :=
  l.leases.any fun r => r.host && r.lo ≤ va && va < r.lo + r.len

/-- The device ranges of a launch cover [`lo`, `hi`) (R205); `fuel` bounds the ranges in turn. -/
def Launch.coversTo (l : Launch) (hi : Nat) : Nat → Nat → Bool
  | 0, lo => decide (hi ≤ lo)
  | fuel + 1, lo =>
    if hi ≤ lo then true
    else match l.leases.find? fun r => !r.host && decide (r.lo ≤ lo ∧ lo < r.lo + r.len) with
      | some r => Launch.coversTo l hi fuel (r.lo + r.len)
      | none => false

/-- The device ranges of a launch cover the `n` bytes from `lo` (R205). -/
def Launch.covers (l : Launch) (lo n : Nat) : Bool := Launch.coversTo l (lo + n) l.leases.length lo

/-- What a byte of a translated access meets after its segment check (R203, R205). -/
inductive Reach where
  | ok (pa : Nat) (pte : BitVec 64)
  | protectedPage
  | lease
  deriving DecidableEq, Repr

/-- A byte as a party of a die, and of a CU unless it is the die's own, reaches it for a lane: translation, KIND, PROT, lease, in
the order of R203 and R331. A walk that finds an invalid entry is a lease violation (R205). -/
def State.reachFrom (s : State) (l : Nat) (die : BitVec 2) (cu : Option Nat) (job : BitVec 32) (va : Nat) : Reach :=
  match s.translate die cu job va with
  | none => .lease
  | some p =>
    if pteKind p.2.2 ≠ 0 ∨ pteProt p.2.2 then .protectedPage
    else
      match s.launch? l with
      | some x => if x.leased va && !s.firmwareOnly (physOf va p) then .ok (physOf va p) p.2.2 else .lease
      | none => .lease

/-- A lane's byte of a translated segment (R203). -/
def State.reachVa (s : State) (l : Nat) (cu : CuRef) (job : BitVec 32) (va : Nat) : Reach :=
  s.reachFrom l cu.die (some (cuNum cu)) job va

/-- A byte that an engine, the device or the fetch reaches: the page may be of any kind (R205, R276). -/
def State.engineVa (s : State) (l : Nat) (die : BitVec 2) (job : BitVec 32) (va : Nat) : Reach :=
  match s.translate die none job va with
  | none => .lease
  | some p =>
    match s.launch? l with
    | some x => if x.leased va && !s.firmwareOnly (physOf va p) then .ok (physOf va p) p.2.2 else .lease
    | none => .lease

/-- The system's own read of a job's memory (records, tables, context area): by walk, without lease. -/
def State.sysByte (s : State) (job : BitVec 32) (va : Nat) : Option Byte :=
  (s.walk job va).map fun p => readByte s.mem (physOf va p)

/-- Bytes of a job's memory read by the system; none if a page is not mapped. -/
def State.sysBytes (s : State) (job : BitVec 32) (va : Nat) : Nat → Option (List Byte)
  | 0 => some []
  | n + 1 => match s.sysByte job va, State.sysBytes s job (va + 1) n with
    | some b, some t => some (b :: t)
    | _, _ => none

/-- The system's own write to a job's memory; bytes on unmapped pages are not written. (DEDUCED, log entry 46) -/
def State.sysWrite (s : State) (job : BitVec 32) (va : Nat) : List Byte → State
  | [] => s
  | b :: t =>
    let s := match s.walk job va with
      | some p => { s with mem := writeByte s.mem (physOf va p) b }
      | none => s
    State.sysWrite s job (va + 1) t

end Sys2Proof.Machine
end

