-- ==== Sys2Proof/Machine/SplitTable.lean ====
section
/-! DEFINITION. A launch's context area and how the device writes and reads it (R347, R367, R369), and the split table: its
entries, their write-back to the area and their reload (R136, R137). -/

namespace Sys2Proof.Machine

/-! ### The context area (R347, R367) -/

/-- A usable page key for a job: the slot's key and tweak base (R369). -/
def State.pageKey (s : State) (job : BitVec 32) (n : Nat) : Option KeySlot :=
  s.kslots.find? fun x => x.n.toNat == n && x.live && x.job == job && (x.kind == 1 || x.kind == 3)

/-- The XTS tweak of an address. -/
def tweak (k : KeySlot) (va : Nat) : BitVec 128 := BitVec.ofNat 128 ((va - k.twbase.toNat) / 128)

/-- Bytes of a 16-byte part as they are stored: encrypted on a protected page (R369). -/
def storedPart (key : Option KeySlot) (va : Nat) (bs : List Byte) : List Byte :=
  match key with
  | none => bs
  | some k => Config.xtsEncrypt k.key (tweak k va) (va % 128) bs

/-- Bytes of a 16-byte part as they are read: decrypted on a protected page (R369). -/
def plainPart (key : Option KeySlot) (va : Nat) (bs : List Byte) : List Byte :=
  match key with
  | none => bs
  | some k => Config.xtsDecrypt k.key (tweak k va) (va % 128) bs

/-- Where a part of a job's context area lies, and the key of a protected page; none where the page is not mapped or the
slot is no key of the job (R367, R369). -/
def State.areaPart (s : State) (job : BitVec 32) (va : Nat) : Option (Nat × Option KeySlot) :=
  match s.walk job va with
  | none => none
  | some p =>
    if pteProt p.2.2 then (s.pageKey job (pteKey p.2.2)).map fun k => (physOf va p, some k)
    else some (physOf va p, none)

/-- The device writes `n` parts of 16 bytes of a context area; a part without a place is not written. (DEDUCED, log entry
46) -/
def State.areaWrite (s : State) (job : BitVec 32) : Nat → Nat → List Byte → State
  | 0, _, _ => s
  | n + 1, va, bs =>
    let s := match s.areaPart job va with
      | some (pa, key) => { s with mem := writeBytes s.mem pa (storedPart key va (bs.take 16)) }
      | none => s
    State.areaWrite s job n (va + 16) (bs.drop 16)

/-- What a part of a context area reads as: `bs` where it still holds what writing `bs` stores, XTS being one to one. (PRESUMED,
log entry 7) -/
def readPlain (key : Option KeySlot) (va : Nat) (bs stored : List Byte) : List Byte :=
  if stored = storedPart key va bs then bs else plainPart key va stored

/-- A part of a context area lies on a protected page whose slot holds no key of the job: it reads as zeros, as a copy's part with a
key mismatch does (R278, R369). -/
def State.areaLocked (s : State) (job : BitVec 32) (va : Nat) : Bool :=
  match s.walk job va with
  | some p => pteProt p.2.2 && (s.pageKey job (pteKey p.2.2)).isNone
  | none => false

/-- The device reads `n` parts of 16 bytes of a context area where it has written `bs`; a part on no page reads as what was
meant for it. (DEDUCED, log entry 46) -/
def State.areaRead (s : State) (job : BitVec 32) : Nat → Nat → List Byte → List Byte
  | 0, _, _ => []
  | n + 1, va, bs =>
    (match s.areaPart job va with
      | some (pa, key) => readPlain key va (bs.take 16) (readBytes s.mem pa 16)
      | none => if s.areaLocked job va then List.replicate 16 0 else bs.take 16) ++ State.areaRead s job n (va + 16) (bs.drop 16)

/-- Blocks of the grid. -/
def LaunchRec.blocks (r : LaunchRec) : Nat := r.gx.toNat * r.gy.toNat * r.gz.toNat
/-- B of R347: how many blocks have a place in the context area. -/
def LaunchRec.areas (r : LaunchRec) : Nat := min r.blocks (160 * (64 / r.ngrp))
/-- The split backing area of group `g` of the block in place `area` (R347). -/
def LaunchRec.backingAt (r : LaunchRec) (area g : Nat) : Nat := r.ctxa.toNat + 4096 + (area * r.ngrp + g) * 2048
/-- Scratchpad slots per block (R168, R172). -/
def LaunchRec.slots (r : LaunchRec) : Nat := (r.scratch + 1023) / 1024
/-- SASZ (R347). -/
def LaunchRec.sasz (r : LaunchRec) : Nat :=
  (256 + r.ngrp * 5440 + 128 * r.ngrp * r.regs + 1040 * r.slots + r.acc + 144 * (r.slots / 8) + 512 + 4095) / 4096 * 4096
/-- The save area of the block in place `area` (R347). -/
def LaunchRec.saveAt (r : LaunchRec) (area : Nat) : Nat := r.backingAt r.areas 0 + area * r.sasz
/-- The determinism buffer of the block in place `area`, 4 MiB (R295, R347). -/
def LaunchRec.detAt (r : LaunchRec) (area : Nat) : Nat := r.saveAt r.areas + area * 2 ^ 22

/-! ### Entries (R136) -/

/-- The entry number that stands for the one fragment of an unsplit group, which holds no entry (R136). -/
def noEntry : Nat := 64

/-- An entry's index as its SPLIT or PARENT field names it: an entry that is written back is numbered above the table's by its
place in the backing area. (DEDUCED, log entry 19) -/
def entryIndex (e : Nat) : Nat := if e < 64 then e else e - 1
/-- The entry that an index names. (DEDUCED, log entry 19) -/
def entryOf (i : Nat) : Nat := if i < 64 then i else i + 1

/-- A split-table entry of TYPE 1 (R136). -/
def Frag.entryBits (f : Frag) (slot : Nat) : Nat :=
  let st := match f.st with | .ready => 0 | .stalled => 1 | .atJoin => 2
  f.fmt.toNat * 2 ^ 184 + f.jr.toNat * 2 ^ 132 + f.pc.toNat * 2 ^ 80 + f.em.toNat * 2 ^ 48 + f.lanes.toNat * 2 ^ 16
    + st * 2 ^ 13 + entryIndex (f.split.getD 0) % 2 ^ 7 * 2 ^ 6 + slot * 2 ^ 2 + 1

/-- A split-table entry of TYPE 2 (R136). -/
def Split.entryBits (x : Split) (slot : Nat) : Nat :=
  x.arrived * 2 ^ 206 + x.members * 2 ^ 200 + x.depth * 2 ^ 196 + x.fmt.toNat * 2 ^ 132 + x.join.toNat * 2 ^ 80
    + x.lanes.toNat * 2 ^ 16 + (match x.parent with | some p => entryIndex p % 2 ^ 7 | none => 127) * 2 ^ 6 + slot * 2 ^ 2 + 2

/-- A fragment as an entry of TYPE 1 gives it (R136). -/
def Frag.ofBits (f : Frag) (x : Nat) : Frag :=
  { f with
    fmt := BitVec.ofNat 64 (x / 2 ^ 184), jr := BitVec.ofNat 52 (x / 2 ^ 132), pc := BitVec.ofNat 52 (x / 2 ^ 80),
    em := BitVec.ofNat 32 (x / 2 ^ 48), lanes := BitVec.ofNat 32 (x / 2 ^ 16),
    st := (match x / 2 ^ 13 % 8 with | 0 => .ready | 1 => .stalled | 2 => .atJoin | _ => f.st),
    split := some (entryOf (x / 2 ^ 6 % 2 ^ 7)) }

/-- A split as an entry of TYPE 2 gives it (R136). -/
def Split.ofBits (y : Split) (x : Nat) : Split :=
  { y with
    arrived := x / 2 ^ 206 % 2 ^ 6, members := x / 2 ^ 200 % 2 ^ 6, depth := x / 2 ^ 196 % 2 ^ 4,
    fmt := BitVec.ofNat 64 (x / 2 ^ 132), join := BitVec.ofNat 52 (x / 2 ^ 80), lanes := BitVec.ofNat 32 (x / 2 ^ 16),
    parent := (let p := x / 2 ^ 6 % 2 ^ 7; if p = 127 then none else some (entryOf p)) }

/-! ### The table (R137) -/

/-- Table entries a group holds: those of its fragments and splits that are not written back. -/
def Group.tableEntries (g : Group) (fs : List Frag) : List Nat :=
  ((fs.filter fun f => !f.written).map Frag.entry ++ (g.splits.filter fun x => !x.written).map Split.entry).filter
    fun e => decide (e < 64)

/-- Entries in use in the partition of the issuing group. -/
def State.tableUsed (s : State) : List Nat :=
  s.grp.tableEntries (s.frag :: s.grp.frags)
    ++ (s.groups.filter fun g => g.place.part == s.grp.place.part && !g.ended).flatMap fun g => g.tableEntries g.frags

/-- Free entries, lowest first. -/
def State.tableFree (s : State) : List Nat :=
  let used := s.tableUsed
  (List.range 64).filter fun e => !used.contains e

/-- Rename an entry throughout a group. -/
def Group.renumber (g : Group) (old new : Nat) : Group :=
  let r (e : Nat) : Nat := if e = old then new else e
  { g with
    frags := g.frags.map fun f => { f with entry := r f.entry, split := f.split.map r },
    splits := g.splits.map fun x => { x with entry := r x.entry, parent := x.parent.map r },
    handler := g.handler.map r }

/-- Mark an entry as written back or reloaded. -/
def Group.markWritten (g : Group) (e : Nat) (w : Bool) : Group :=
  { g with
    frags := g.frags.map fun f => if f.entry = e then { f with written := w } else f,
    splits := g.splits.map fun x => if x.entry = e then { x with written := w } else x }

/-- The lowest place of a group's backing area that holds no entry, as an entry number above the table's; `more` are entries
of the group's fragment in focus. (DEDUCED, log entry 19) -/
def Group.backing (g : Group) (more : List Nat) : Nat :=
  let used := more ++ g.frags.map Frag.entry ++ g.splits.map Split.entry
  ((List.range 63).map (· + 65)).find? (fun e => !used.contains e) |>.getD 128

/-- An entry is to be written back: it takes its number in the backing area. -/
def Group.writeBack (g : Group) (more : List Nat) (e : Nat) : Group :=
  let b := g.backing more
  (g.renumber e b).markWritten b true

/-- The entries of a group that are written back, with their bits. -/
def Group.writtenEntries (g : Group) : List (Nat × Nat) :=
  let slot := g.place.slot.toNat
  (g.frags.filter Frag.written).map (fun f => (f.entry, f.entryBits slot))
    ++ (g.splits.filter Split.written).map fun x => (x.entry, x.entryBits slot)

/-- Where a written-back entry of a group lies (R137, R347). -/
def State.entryAt (s : State) (g : Group) (e : Nat) : Option Nat :=
  match s.launch? g.id.l, s.block? g.id.l g.id.blk with
  | some x, some b => some (x.lrec.backingAt b.area g.id.g + 32 * (e - 65))
  | _, _ => none

/-- The backing area of a group holds its written-back entries, and the device notes what it has written there (R137). -/
def State.putEntries (s : State) (g : Group) : State :=
  let es := g.writtenEntries
  let s : State := es.foldl (fun (s : State) x =>
    match s.entryAt g x.1 with
    | some va => s.areaWrite g.job 2 va (leBytes 32 x.2)
    | none => s) s
  let note (y : Group) : Group := if y.id == g.id then { y with backed := es } else y
  { s with grp := note s.grp, groups := s.groups.map note }

/-- Entries of other groups of the partition, which may be written back (R137). (DEDUCED, log entry 19) -/
def State.victims (s : State) : List (GroupId × Nat) :=
  (s.groups.filter fun g => g.place.part == s.grp.place.part && !g.ended).flatMap fun g =>
    (g.tableEntries g.frags).map fun e => (g.id, e)

/-- One write-back; which entry goes is unspecified (R137). An entry of another group goes if there is one, else one of
the issuing group's other fragments. (DEDUCED, log entry 19) -/
def State.writeBackOne (s : State) : State :=
  let vs := s.victims
  match vs[Config.freeChoice s.fresh 0 % vs.length]? with
  | some (i, e) =>
    let s : State := { s with groups := s.groups.map fun g => if g.id == i then g.writeBack [] e else g }
    match s.groups.find? (·.id == i) with | some g => s.putEntries g | none => s
  | none =>
    let own := (s.grp.frags.filter fun f => !f.written && decide (f.entry < 64)).map Frag.entry
    match own[Config.freeChoice s.fresh 1 % own.length]? with
    | some e =>
      let g := s.grp.writeBack [s.frag.entry] e
      ({ s with grp := g } : State).putEntries g
    | none => s

/-- Write back until `n` entries are free. -/
def State.makeRoom (s : State) (n : Nat) : Nat → State
  | 0 => s
  | fuel + 1 => if n ≤ s.tableFree.length then s else State.makeRoom s.writeBackOne n fuel

/-- Entry `e` of a group takes table entry `new`, with the bits that its backing area held. -/
def Group.reload (g : Group) (e new : Nat) (bits : Option Nat) : Group :=
  let g : Group := match bits with
    | none => g
    | some x => { g with
        frags := g.frags.map fun f => if f.entry = e then f.ofBits x else f,
        splits := g.splits.map fun y => if y.entry = e then y.ofBits x else y }
  (g.renumber e new).markWritten new false

/-- The bits of a written-back entry as its backing area holds them. -/
def State.backingBits (s : State) (g : Group) (e : Nat) : Option Nat :=
  match s.entryAt g e, g.backed.find? (·.1 == e) with
  | some va, some x => some (leNat (s.areaRead g.job 2 va (leBytes 32 x.2)))
  | _, _ => none

/-- An entry of the issuing group is reloaded into the lowest free table entry, others being written back if there is none
(R137). -/
def State.reloadEntry (s : State) (e : Nat) : State :=
  let s := s.makeRoom 1 64
  match s.tableFree.head? with
  | none => s
  | some new =>
    let g := ({ s.grp with frags := s.frag :: s.grp.frags }).reload e new (s.backingBits s.grp e)
    match g.frags with
    | f :: t => ({ s with frag := f, grp := { g with frags := t } } : State).putEntries { g with frags := t }
    | [] => s

/-- Every written-back entry of the issuing group is reloaded: before a split of it changes (R137). (DEDUCED, log entry
19) -/
def State.reloadAll (s : State) : Nat → State
  | 0 => s
  | fuel + 1 =>
    match s.grp.writtenEntries.head? with
    | none => s
    | some x => State.reloadAll (s.reloadEntry x.1) fuel

/-- Entry `e` of the split table of a partition whose groups these are. -/
def tableEntry (gs : List Group) (e : Nat) : List Byte :=
  let bits := gs.findSome? fun g =>
    let slot := g.place.slot.toNat
    match g.frags.find? fun f => f.entry == e && !f.written && !g.splits.isEmpty with
    | some f => some (f.entryBits slot)
    | none => (g.splits.find? fun x => x.entry == e && !x.written).map fun x => x.entryBits slot
  leBytes 32 (bits.getD 0)

end Sys2Proof.Machine
end

