-- ==== Sys2Proof/Machine/Ops.lean ====
section
/-! DEFINITION. The shared operations: registers and renaming (R7 to R16), latencies (R21, R22), fetch checks (R19, R24),
taking an exception and its return (R330 to R337), joins (R138 to R140), stopping a launch (R175), and how an
instruction issues and retires. -/

namespace Sys2Proof.Machine

/-! ### Effects and exceptions -/

/-- A fault of the spec: cause code, TADDR, TMASK, INFO (R330, R333). -/
structure Exc where
  code : Nat
  addr : BitVec 64
  mask : Mask
  info : BitVec 16
  deriving DecidableEq, Repr

/-- A fault that reports no address and no lanes. -/
def exc (code : Nat) : Exc := { code := code, addr := 0, mask := 0, info := 0 }
/-- illegal encoding. -/
def excIllegal : Exc := exc 1
/-- bad target: the rejected target. -/
def excTarget (t : BitVec 64) : Exc := { code := 3, addr := t, mask := 0, info := 0 }
/-- barrier misuse: the barrier code, also INFO (R333). -/
def excBarrier (c : Nat) : Exc := { code := 11, addr := BitVec.ofNat 64 c, mask := 0, info := BitVec.ofNat 16 c }

/-- What issuing an instruction comes to. -/
inductive Eff where
  /-- It takes its effect; execution goes on after it. -/
  | done (s : State)
  /-- It takes its effect; execution goes on at the target. -/
  | jump (t : VA) (s : State)
  /-- It has settled everything itself, its retirement included. -/
  | stay (s : State)
  /-- It raises a fault and takes no effect. -/
  | trap (e : Exc)
  /-- It raises a fault with an effect that stands (R330). -/
  | trapWith (e : Exc) (s : State)
  /-- It waits in its issue slot; `s` holds what the wait leaves. -/
  | stall (s : State)
  /-- It is a lease violation (R206). -/
  | lease

/-! ### Reading registers -/

/-- Lanes of a vector name as a list index. -/
def Group.vreg (g : Group) (n : Reg) : Option VReg := g.v[n.toFin]
/-- The name is mapped (R12). -/
def Group.mapped (g : Group) (n : Reg) : Bool := (g.vreg n).isSome

/-- The latest result of this name that is not yet surely readable (R21). -/
def Group.late (g : Group) (c : RegClass) (n : Nat) : Option Lat :=
  g.lat.find? fun x => x.cls == c && x.name == n && g.cycle < x.ready

/-- Which of the results of this name that are not yet surely readable an early read misses, and with it all later ones,
in occurrence `occ` under key `key` (R21: unspecified): none, it reads the name as it stands. -/
def Group.missed (g : Group) (c : RegClass) (n occ key : Nat) : Option Lat :=
  let xs := (g.lat.filter fun x => x.cls == c && x.name == n && g.cycle < x.ready).zipIdx
  (xs.find? fun x => Config.freeBit occ (key + 2 ^ 20 * x.2)).map Prod.fst

/-- A tangent component beyond those held reads 0. -/
def compAt (r : VReg) (j : Nat) : Lanes := r.getD j (Lanes.splat 0)

/-- A mapped name's components as they are read in occurrence `occ`: before the latency has elapsed the old or the new
value of each, unspecified which (R21, R123). `key` sets reads of one occurrence apart. -/
def Group.early (g : Group) (occ key n : Nat) (r : VReg) : VReg :=
  match g.late .vec n with
  | none => r
  | some _ => (List.range r.length).map fun j =>
      match g.missed .vec n occ (key + n * 8 + j) with
      | some x => compAt x.old j
      | none => compAt r j

/-- The components of a vector name as an instruction reads them: 0 if unmapped (R12). -/
def State.readVAll (s : State) (n : Reg) : VReg :=
  match s.grp.vreg n with
  | none => List.replicate (s.grp.kt + 1) (Lanes.splat 0)
  | some r => s.grp.early s.fresh 0 n.toNat r

/-- The primal of a vector name. (DEDUCED, log entry 13) -/
def State.readV (s : State) (n : Reg) : Lanes := compAt (s.readVAll n) 0

/-- A DL 1 stands before the instruction: sources are constants (R129). -/
def State.dlConst (s : State) : Bool := s.latch.dl == some true && s.grp.kt ≠ 0
/-- A DL 0 acts: K = 0 and the following name holds the tangent (R129, R130). -/
def State.dlDual (s : State) : Bool := s.latch.dl == some false && s.grp.kt == 0

/-- The components of a source whose tangents matter: all +0 under DL 1; under DL 0 with K = 0 the tangent is the
following name's primal (R129, R130). -/
def State.readDual (s : State) (n : Reg) : VReg :=
  if s.dlDual then [s.readV n, s.readV (n + 1)]
  else if s.dlConst then s.readV n :: List.replicate s.grp.kt (Lanes.splat 0)
  else s.readVAll n

/-- A scalar register (R9, R21). (DEDUCED, log entry 13) -/
def State.readS (s : State) (n : Reg) : BitVec 64 :=
  match s.grp.late .scalar n.toNat with
  | none => s.grp.s[n.toFin]
  | some _ => match s.grp.missed .scalar n.toNat s.fresh (1000 + n.toNat) with
    | some x => x.oldWord
    | none => s.grp.s[n.toFin]

/-- A predicate as it is read in occurrence `occ` (R21); `key` as for vectors. -/
def Group.earlyK (g : Group) (occ key : Nat) (n : PReg) : Mask :=
  match g.late .pred n.toNat with
  | none => g.k[n.toFin]
  | some _ => match g.missed .pred n.toNat occ (key + 2000 + n.toNat) with
    | some x => x.oldWord.setWidth 32
    | none => g.k[n.toFin]

/-- A predicate register; k0 reads as all-ones (R8, R21). (DEDUCED, log entry 13) -/
def State.readK (s : State) (n : PReg) : Mask := if n = 0 then BitVec.allOnes 32 else s.grp.earlyK s.fresh 0 n

/-- The set `active` (R39, R133). -/
def State.active (s : State) (g : PReg) : Mask := s.frag.em &&& s.readK g

/-- The pair n, n + 1 as 64-bit lane values (R234). -/
def State.readPair (s : State) (n : Reg) (l : Nat) : BitVec 64 :=
  (s.readV (n + 1)).get l ++ (s.readV n).get l

/-! ### Renaming, allocation, writing -/

/-- Change the issuing group. -/
def State.setGrp (s : State) (f : Group → Group) : State := { s with grp := f s.grp }

/-- Reads of unmapped names set GST.UNMAPPED (R12). -/
def State.touch (s : State) (ns : List Reg) : State :=
  if ns.all s.grp.mapped then s else s.setGrp fun g => { g with unmapped := true }

/-- The group is split (R137 GST.SPLIT). -/
def Group.split? (g : Group) : Bool := !g.splits.isEmpty

/-- Operations that have still to read the registers of a name (R281). -/
def Group.readers (g : Group) (n : Reg) : List Nat :=
  ((g.pending.filter fun p => p.cls == .vec && p.source && p.reads && p.name == n.toNat).map Pend.op).eraseDups

/-- A name becomes unmapped: its registers return to the pool, or are reserved until the engines have read them (R16). -/
def Group.unmap (g : Group) (n : Reg) : Group :=
  let ops := g.readers n
  let g := { g with v := g.v.set n.toNat none n.isLt }
  if ops.isEmpty then g
  else { g with
    reserved := g.reserved ++ [{ ops := ops, count := g.kt + 1 }],
    pending := g.pending.map fun p =>
      if p.cls == .vec && p.source && p.name == n.toNat then { p with reads := false } else p }

/-- One last-read free: at once, or deferred while the group is split (R12, R143). -/
def Group.freeName (g : Group) (n : Reg) : Group :=
  if !g.mapped n then g
  else if g.split? then { g with deferredFree := g.deferredFree ||| (1#32 <<< n.toNat) }
  else g.unmap n

/-- The last-read frees of an instruction (R12 to R14). (DEDUCED, log entry 55) -/
def State.freeNames (s : State) (ns : List Reg) : State := s.setGrp fun g => ns.foldl Group.freeName g

/-- Mapped names. -/
def Group.mappedCount (g : Group) : Nat := (g.v.toList.filter Option.isSome).length
/-- Physical registers reserved for engine reads to come (R16). -/
def Group.reservedCount (g : Group) : Nat := (g.reserved.map Reserved.count).sum
/-- The engine has read the vector sources of an operation: registers reserved for it alone return (R16, R143). -/
def Group.hasRead (g : Group) (op : Nat) : Group :=
  { g with
    reserved := (g.reserved.map fun r => { r with ops := r.ops.filter (· != op) }).filter fun r => !r.ops.isEmpty,
    pending := g.pending.map fun p => if p.op == op then { p with reads := false } else p }
/-- HELD (R165). -/
def Group.held (g : Group) : Nat := g.mappedCount * (g.kt + 1) + g.reservedCount

/-- Whether names can be mapped within the quota (R12, R16). -/
inductive Room where | ok | stall | quota
  deriving DecidableEq, Repr

/-- The quota check for a set of destinations (R12, R16). -/
def Group.room (g : Group) (ns : List Reg) : Room :=
  let need := (ns.eraseDups.filter fun n => !g.mapped n).length * (g.kt + 1)
  if need = 0 then .ok
  else if g.quota < g.mappedCount * (g.kt + 1) + need then .quota
  else if g.quota < g.held + need then .stall
  else .ok

/-- Map a name, zero-filled, if it is unmapped (R12). -/
def Group.alloc (g : Group) (n : Reg) : Group :=
  if g.mapped n then g
  else { g with v := g.v.set n.toNat (some (List.replicate (g.kt + 1) (Lanes.splat 0))) n.isLt }

/-- Lanes of `m` take `new`, the others keep `old`. -/
def mergeLanes (m : Mask) (old new : Lanes) : Lanes :=
  Vector.ofFn fun l => if m.getLsbD l.val then new[l] else old[l]

/-- Free values for occurrence `n` (R6, R22). (DESIGN CHOICE, log entry 5) -/
def freeLanes (n j : Nat) : Lanes := Vector.ofFn fun l => Config.freeLane n j l.val

/-- Free components. (DESIGN CHOICE, log entry 5) -/
def freeComps (n k : Nat) : VReg := (List.range k).map (freeLanes n)

/-- Whether a counted result to this name has not been observed by a WAIT (R22, R281). -/
def Group.isPending (g : Group) (c : RegClass) (n : Nat) : Bool := g.pending.any fun p => p.cls == c && p.name == n

/-- A write to a name that a counted operation writes or reads makes its value undefined (R22, R281). -/
def Group.clobber (g : Group) (c : RegClass) (n : Nat) : Group :=
  { g with pending := g.pending.map fun p => if p.cls == c && p.name == n then { p with clobbered := true } else p }

/-- A write's value where an earlier write's latency has not elapsed: either value (R21). -/
def Group.firstStays (g : Group) (c : RegClass) (n occ key : Nat) : Bool := (g.late c n).isSome && Config.freeBit occ key

/-- Write lanes `m` of a vector name, mapping it if needed; the result is readable after `lat` cycles (R12, R13, R21).
A second write before the first's latency leaves either value (R21), the first's also where the name was freed and
mapped anew between; a write to a name that a counted operation still owns leaves undefined values in it (R22). `occ`
and `key` choose what is left open. (DEDUCED, log entry 13) -/
def Group.writeV (g0 : Group) (occ key : Nat) (n : Reg) (m : Mask) (new : VReg) (lat : Nat) : Group :=
  let g := g0.alloc n
  let cur : VReg := (g.vreg n).getD []
  let owned := g.isPending .vec n.toNat
  let first : VReg := if g0.mapped n then cur else match g.late .vec n.toNat with | some x => x.wrote | none => cur
  let pick (j : Nat) : Lanes :=
    if g.firstStays .vec n.toNat occ (key + 3000 + n.toNat * 8 + j) then compAt first j else compAt new j
  let r : VReg := (List.range (g.kt + 1)).map fun j =>
    if owned then freeLanes occ (key + n.toNat * 8 + j) else mergeLanes m (compAt cur j) (pick j)
  let g := { g with
    v := g.v.set n.toNat (some r) n.isLt,
    deferredFree := g.deferredFree &&& ~~~(1#32 <<< n.toNat),
    lat := if lat = 0 then g.lat
      else { cls := .vec, name := n.toNat, ready := g.cycle + lat, old := cur, oldWord := 0, wrote := r } :: g.lat }
  if owned then g.clobber .vec n.toNat else g

/-- Write a scalar register of a group; `occ` and `key` choose what is left open (R21, R22). (DEDUCED, log entry 13) -/
def Group.writeS (g : Group) (occ key : Nat) (n : Reg) (x : BitVec 64) (lat : Nat) : Group :=
  let owned := g.isPending .scalar n.toNat
  let cur := g.s[n.toFin]
  let x := if owned then Config.freeWord occ (key + n.toNat)
    else if g.firstStays .scalar n.toNat occ (key + 4000 + n.toNat) then cur else x
  let g := { g with
    s := g.s.set n.toNat x n.isLt,
    lat := if lat = 0 then g.lat
      else { cls := .scalar, name := n.toNat, ready := g.cycle + lat, old := [], oldWord := cur, wrote := [] } :: g.lat }
  if owned then g.clobber .scalar n.toNat else g

/-- Replace a tile; `pois` are the elements that are poisoned. -/
def Block.setTile (b : Block) (t : Nat) (ws : List (BitVec 32)) (pois : List Nat) : Block :=
  let new := (ws.zipIdx.filter fun (x : BitVec 32 × Nat) => x.1 != 0).map fun (x : BitVec 32 × Nat) => (4096 * t + x.2, x.1)
  { b with
    acc := (b.acc.filter fun x => x.1 < 4096 * t) ++ new ++ b.acc.filter fun x => 4096 * (t + 1) ≤ x.1,
    accPoison := (b.accPoison.filter fun i => i / 4096 != t) ++ pois.map (· + 4096 * t) }

/-- A tile of free values (R6): occurrence `n`, part `k`. (DESIGN CHOICE, log entry 5) -/
def freeTile (n k : Nat) : List (BitVec 32) := (List.range 4096).map fun i => Config.freeLane n (4096 * k + i) 32

/-- What an engine wrote of a vector source that is written before the WAIT observes its completion is undefined, and so
it is where the operation has completed already, but for what has been replaced since (R281). -/
def State.loseResult (s : State) (i : GroupId) (d : Done) : State :=
  s.updBlock i.l i.blk fun b =>
    let b : Block := { b with scratch := d.wrote.foldl (fun m x => writeByte m x (Config.freeByte s.fresh (2 ^ 16 * d.op + x))) b.scratch }
    match d.tile with
    | some t => b.setTile t (freeTile s.fresh d.op) []
    | none => b

/-- Completed operations that no WAIT has observed and whose source a vector name is. -/
def Group.readFrom (g : Group) (n : Nat) : List Done :=
  g.done.filter fun d => g.pending.any fun p => p.op == d.op && p.source && p.cls == .vec && p.name == n

/-- Write a vector name of the issuing group; an engine's result from that name is undefined from now on (R281). -/
def State.writeV (s : State) (n : Reg) (m : Mask) (new : VReg) (lat : Nat) : State :=
  (s.grp.readFrom n.toNat).foldl (fun t d => t.loseResult s.grp.id d)
    { s with grp := s.grp.writeV s.fresh 0 n m new lat }

/-- Write a scalar register. -/
def State.writeS (s : State) (n : Reg) (x : BitVec 64) (lat : Nat) : State :=
  { s with grp := s.grp.writeS s.fresh 0 n x lat }

/-- Write lanes `m` of a predicate of a group; a write to k0 is discarded (R8). (DEDUCED, log entry 13) -/
def Group.writeK (g : Group) (occ key : Nat) (n : PReg) (m bits : Mask) (lat : Nat) : Group :=
  if n = 0 ∨ m = 0 then g
  else
    let owned := g.isPending .pred n.toNat
    let cur := g.k[n.toFin]
    let bits := if g.firstStays .pred n.toNat occ (key + 5000 + n.toNat) then cur else bits
    let x := if owned then (Config.freeWord occ (key + 32 + n.toNat)).setWidth 32 else (cur &&& ~~~m) ||| (bits &&& m)
    let g := { g with
      k := g.k.set n.toNat x n.isLt,
      lat := if lat = 0 then g.lat
        else { cls := .pred, name := n.toNat, ready := g.cycle + lat, old := [], oldWord := cur.setWidth 64, wrote := [] }
          :: g.lat }
    if owned then g.clobber .pred n.toNat else g

/-- Write lanes `m` of a predicate. -/
def State.writeK (s : State) (n : PReg) (m bits : Mask) (lat : Nat) : State :=
  { s with grp := s.grp.writeK s.fresh 0 n m bits lat }

/-- Sources read, frees applied, destinations allocated, results written (R13, R14, R78): the shape of every lane-wise
instruction. `w` writes the results into the state that the frees leave; nothing is written when `active` is empty.
(DEDUCED, log entry 55) -/
def lanewise (s : State) (g : PReg) (srcs frees dsts : List Reg) (w : Mask → State → State) : Eff :=
  let act := s.active g
  let s1 := (s.touch srcs).freeNames frees
  if act = 0 then .done s1
  else
    match s1.grp.room dsts with
    | .quota => .trap (exc 5)
    | .stall => .stall s
    | .ok => .done (w act s1)

/-- Names freed by marks on sources a and b. (DEDUCED, log entry 55) -/
def freed2 (m : Marks2) (a b : Reg) : List Reg := (if m.la then [a] else []) ++ (if m.lb then [b] else [])
/-- Name freed by marks on source a. -/
def freed1 (m : Marks1) (a : Reg) : List Reg := if m.la then [a] else []

/-- A primal with zero tangents (R126). -/
def plain (s : State) (x : Lanes) : VReg := x :: List.replicate s.grp.kt (Lanes.splat 0)

/-! ### GST, HELD, fragments -/

/-- Depth of a fragment (R137). -/
def Group.depthOf (g : Group) (f : Frag) : Nat :=
  match f.split with
  | none => 0
  | some e => match g.splits.find? (·.entry == e) with | some x => x.depth | none => 0

/-- GST as a fragment of the group sees it (R10). -/
def Group.gst (g : Group) (f : Frag) : BitVec 32 :=
  BitVec.ofNat 32 (g.role * 2 ^ 10 + (if g.det then 2 ^ 9 else 0) + g.kt * 2 ^ 6 + g.depthOf f * 2 ^ 2
    + (if g.split? then 2 else 0) + (if g.unmapped then 1 else 0))

/-- GST (R10). -/
def State.gst (s : State) : BitVec 32 := s.grp.gst s.frag

/-! ### Bundles (R17 to R19, R24) -/

/-- A bundle: control word and 14 halfwords. -/
structure Bundle where
  ctl : BitVec 32
  slots : List (BitVec 16)
  deriving DecidableEq, Repr

/-- Halfwords of bytes. -/
def halves : List Byte → List (BitVec 16)
  | a :: b :: t => (b ++ a) :: halves t
  | _ => []

/-- The bundle of 32 bytes (R17). -/
def Bundle.ofBytes (bs : List Byte) : Bundle :=
  let h := halves bs
  { ctl := h.getD 1 0 ++ h.getD 0 0, slots := h.drop 2 }

/-- Slot code i (R18). -/
def Bundle.code (b : Bundle) (i : Nat) : BitVec 2 := BitVec.ofNat 2 (b.ctl.toNat / 4 ^ i)
/-- G (R18). -/
def Bundle.gap (b : Bundle) : Nat := b.ctl.toNat / 2 ^ 28
/-- Halfword of slot i. -/
def Bundle.half (b : Bundle) (i : Nat) : BitVec 16 := b.slots.getD i 0

/-- The bundle check of R19 from slot `i` on; `second`: the slot is the second half of a 32-bit instruction; `free`: an
END precedes with nothing but 00 slots since. -/
def bundleScan (b : Bundle) : Nat → Nat → Bool → Bool → Bool
  | 0, _, second, _ => !second
  | n + 1, i, second, free =>
    let c := b.code i
    let h := b.half i
    if c = 0 then (if second then bundleScan b n (i + 1) false free else free && bundleScan b n (i + 1) false true)
    else if second then false
    else if h.getLsbD 0 then
      let isEnd := h.toNat / 2 % 64 == 3 && (b.half (i + 1)).toNat / 2 ^ 6 % 8 == 3
      bundleScan b n (i + 1) true isEnd
    else
      let isDl := h.toNat / 2 % 32 == 17
      if isDl && (i == 13 || c != 1) then false else bundleScan b n (i + 1) false false

/-- The bundle is well formed (R19). -/
def Bundle.ok (b : Bundle) : Bool := b.code 0 != 0 && bundleScan b 14 0 false false

/-- Base of the bundle of an address. -/
def bundleBase (a : VA) : Nat := a.toNat / 32 * 32

/-- What fetching a bundle gives; `wait`: the host has still to walk its page (R406). -/
inductive Fetched where
  | bundle (b : Bundle)
  | lease
  | wait
  deriving DecidableEq, Repr

/-- Fetch the bundle at an address: translated, inside the lease, on a page that is neither an index page nor protected
(R205). A bundle does not cross a page. -/
def State.fetch (s : State) (a : VA) : Fetched :=
  if (s.myMissing [bundleBase a]).isSome then .wait
  else
  match s.translate s.grp.place.part.cu.die (some (cuNum s.grp.place.part.cu)) s.grp.job (bundleBase a) with
  | none => .lease
  | some p =>
    if pteKind p.2.2 ≠ 0 ∨ pteProt p.2.2 then .lease
    else
      match s.launch? s.grp.id.l with
      | none => .lease
      | some l =>
        if l.leased (bundleBase a) then .bundle (Bundle.ofBytes (readBytes s.mem (physOf (bundleBase a) p) 32)) else .lease

/-- The verdict on a branch target (R24). -/
inductive Target where | ok | bad | lease | wait
  deriving DecidableEq, Repr

/-- The check of R24 on a target: not in the control word, not on a slot coded 00, bit 0 clear. -/
def State.checkTarget (s : State) (t : VA) : Target :=
  if t.getLsbD 0 then .bad
  else if t.toNat % 32 < 4 then .bad
  else
    match s.fetch t with
    | .lease => .lease
    | .wait => .wait
    | .bundle b => if b.code ((t.toNat % 32 - 4) / 2) = 0 then .bad else .ok

/-- Target of a format D branch (R23). -/
def branchTarget (here : VA) (o : BitVec 22) : VA := here + (o.signExtend 52 <<< 1)

/-! ### Replacing fragments, groups, launches -/

/-- Put the issuing fragment and group back among the others. -/
def State.unfocus (s : State) : State :=
  if s.live then
    { s with
      live := false,
      groups := { s.grp with frags := s.grp.frags ++ [s.frag] } :: s.groups }
  else s

/-- Bring a fragment into focus. -/
def State.focusOn (s : State) (i : GroupId) (entry : Nat) : State :=
  if s.live && s.grp.id == i then
    if s.frag.entry == entry then s
    else
      match s.grp.frags.find? (·.entry == entry) with
      | some f => { s with frag := f,
                           grp := { s.grp with frags := (s.grp.frags.filter (·.entry != entry)) ++ [s.frag] } }
      | none => s
  else
    let s := s.unfocus
    match s.groups.find? (·.id == i) with
    | some g =>
      match g.frags.find? (·.entry == entry) with
      | some f => { s with live := true, frag := f, grp := { g with frags := g.frags.filter (·.entry != entry) },
                           groups := s.groups.filter (·.id != i) }
      | none => s
    | none => s

/-- A group of an id, in focus or not. -/
def State.group? (s : State) (i : GroupId) : Option Group :=
  if s.live && s.grp.id == i then some s.grp else s.groups.find? (·.id == i)

/-- Change a group, in focus or not. -/
def State.updGroup (s : State) (i : GroupId) (f : Group → Group) : State :=
  if s.live && s.grp.id == i then { s with grp := f s.grp }
  else { s with groups := s.groups.map fun g => if g.id == i then f g else g }

/-- Change a launch. -/
def State.updLaunch (s : State) (l : Nat) (f : Launch → Launch) : State :=
  { s with launches := s.launches.map fun x => if x.uid == l then f x else x }

/-- Remove a launch from its queue's order and places (R170). -/
def Queue.drop (q : Queue) (l : Nat) : Queue :=
  { q with order := q.order.filter (· != l), places := q.places.filter (· != l) }

/-- The transaction of a group dooms with a cause, if it is live (R231). -/
def Group.doom (g : Group) (cause : Nat) : Group :=
  match g.tx with
  | some t => if t.cause = 0 then { g with tx := some { t with cause := cause, ops := [], stores := [], rows := [], lines := [] } } else g
  | none => g

/-- The group stops for good at an instruction boundary (R175): its open transaction aborts and it issues no more. -/
def Group.halt (g : Group) : Group :=
  { g.doom 3 with ended := true, wait := none, frags := [], splits := [], cursors := [] }

/-- A barrier's state. -/
def State.bar? (s : State) : BarRef → Option Barrier
  | .block l b n => (s.block? l b).map fun x => x.bars[n.toFin]
  | .cluster l c n => (s.clusterLaunches.find? fun x => x.l == l && x.c == c).map fun x => x.bars[n.toFin]
  | .launch l n => (s.launch? l).map fun x => x.lbars[n.toFin]

/-- The start condition of a deferred entry holds: its barrier's GEN differs from the generation it names (R294).
(DEDUCED, log entry 40) -/
def State.startHolds (s : State) (c : BarRef × BitVec 16) : Bool :=
  match s.bar? c.1 with | some b => b.gen != c.2 | none => false

/-- A plain STR in the injector's buffer, or out of it again: it is performed when its group, which waits at it, issues it (R248,
R364). -/
def Op.plainStr (o : Op) : Bool := match o.kind with | .row true _ _ 0 _ => true | _ => false

/-- Stop a launch as a cancel does: nothing of it is dispatched any more, its resident groups stop, and it will record
`final` (R175, R206, R335). Operations already issued complete; a block that is pre-empted, and what it has deferred, is discarded, and
so are results that debug holds back (R353). A launch in a terminal state, or already stopping, is not changed. (DEDUCED, log entry
22; DEDUCED, log entry 56) -/
def State.stopLaunch (s : State) (l : Nat) (final : Nat × Nat) : State :=
  match s.launch? l with
  | none => s
  | some x =>
    if 3 ≤ x.state ∨ x.final.isSome then s
    else
      let s := s.updLaunch l fun x => { x with final := some final }
      let s := { s with queues := s.queues.map fun (q : Queue) => q.drop l }
      let s := if s.live && s.grp.id.l == l then
          { s with live := false, groups := { s.grp.halt with frags := [] } :: s.groups }
        else s
      { s with
        groups := s.groups.map fun (g : Group) => if g.id.l == l then g.halt else g,
        blocks := s.blocks.map fun (b : Block) =>
          if b.l == l then { b with stopping := true, stopped := true, saved := false,
                                    endedGroups := BitVec.allOnes 32 } else b,
        ops := (s.ops.filter fun (o : Op) =>
            !(o.gid.l == l && (o.plainStr || s.blocks.any fun b => b.saved && b.l == l && b.idx == o.gid.blk))).map fun (o : Op) =>
          if o.gid.l == l && s.dbg.any (fun d => d.pendings.contains o.id) then { o with results := [] } else o,
        dbg := s.dbg.map fun (d : DebugPart) => { d with pendings := d.pendings.filter fun i =>
          !(s.ops.any fun (o : Op) => o.id == i && o.gid.l == l) } }

/-! ### Taking an exception (R330 to R335) -/

/-- The 64-byte fault record (R347). -/
def faultRecord (g : Group) (e : Exc) (pc : VA) : List Byte :=
  leBytes 8 (e.info.toNat * 256 + e.code) ++ leBytes 8 pc.toNat ++ leBytes 8 e.addr.toNat ++ leBytes 4 e.mask.toNat
    ++ leBytes 4 g.id.g ++ leBytes 4 g.bx.toNat ++ leBytes 4 g.byy.toNat ++ leBytes 4 g.bz.toNat ++ leBytes 20 0

/-- An unhandled fault: the fault record is written and the launch stops with STATE 5, CAUSE 0 (R335). -/
def State.unhandled (s : State) (e : Exc) : State :=
  let s := match s.launch? s.grp.id.l with
    | some l => s.areaWrite s.grp.job 4 l.lrec.ctxa.toNat (faultRecord s.grp e s.latch.start)
    | none => s
  s.stopLaunch s.grp.id.l (5, 0)

/-- The check of the trap vector at entry (R332): there is one, it passes R24, and its bundle is well formed (R19). Its
fetch may be a lease violation (R205). -/
def State.checkVector (s : State) : Target :=
  if s.grp.trapVec = 0 then .bad
  else
    match s.checkTarget s.grp.trapVec, s.fetch s.grp.trapVec with
    | .ok, .bundle b => if b.ok then .ok else .bad
    | .bad, _ => .bad
    | .wait, _ => .wait
    | _, _ => .lease

/-- The latch after an issue: no DL stands before what comes next. -/
def Latch.noDl (l : Latch) : Latch := { l with dl := none, split := false }

/-- Enter the handler (R332): the trap registers are written, em becomes the lane set, TMODE 1, pc the vector.
(DEDUCED, log entry 20) -/
def State.enterTrap (s : State) (e : Exc) : State :=
  { s with
    latch := s.latch.noDl,
    frag := { s.frag with em := s.frag.lanes, pc := s.grp.trapVec, st := .ready, skip := false },
    grp := { s.grp with
      tcause := BitVec.ofNat 64 (e.info.toNat * 256 + e.code), taddr := e.addr, tmask := e.mask,
      tepc := s.latch.start, tepcWritten := false, tem := s.frag.em, tmode := true, supp := false,
      handler := some s.frag.entry, cycle := s.grp.cycle + 1 } }

/-- A lease violation ends the launch with STATE 5 and CAUSE 1; no handler runs (R206). (DEDUCED, log entry 56) -/
def State.leaseViolation (s : State) (l : Nat) : State := { (s.stopLaunch l (5, 1)) with latch := s.latch.noDl }

/-- Take an exception: under TMODE another fragment's fault waits and commits nothing (R334); else the transaction is doomed
(R332, R231), and a fault of the handler, or without a usable vector, is unhandled (R335); the fetch of the vector's bundle
may be a lease violation, which then ends the launch (R205, R206), and while the host has still to walk its page the fault waits (R406).
(DEDUCED, log entry 20; DESIGN CHOICE, log entry 31) -/
def State.raise (s : State) (e : Exc) : State :=
  if s.grp.tmode ∧ s.grp.handler ≠ some s.frag.entry then
    { s with latch := s.latch.noDl,
             grp := { s.grp with pend := true },
             frag := { s.frag with pc := s.latch.start, st := .stalled, again := false, held := true } }
  else
    let t := s.setGrp fun g => g.doom 4
    match (if s.grp.tmode then .bad else s.checkVector) with
    | .ok => t.enterTrap e
    | .bad => { (t.unhandled e) with latch := s.latch.noDl }
    | .lease => t.leaseViolation s.grp.id.l
    | .wait =>
      let u := s.myWalk (bundleBase s.grp.trapVec)
      { u with latch := s.latch.noDl, frag := { s.frag with pc := s.latch.start, st := .stalled, again := false } }

/-! ### Barriers by code (R154, R155) -/

/-- The barrier that a code names for a group; codes beyond 27 name none. -/
def Group.barRef (g : Group) (code : Nat) : Option BarRef :=
  let i := g.id
  if code ≤ 15 then some (.block i.l i.blk (BitVec.ofNat 4 code))
  else if code ≤ 23 then
    if g.clb = 0 then none else some (.cluster i.l (i.blk / g.clb) (BitVec.ofNat 3 (code - 16)))
  else if code ≤ 27 then some (.launch i.l (BitVec.ofNat 2 (code - 24)))
  else none

/-- The barrier that a code names for the issuing group. -/
def State.barRef (s : State) (code : Nat) : Option BarRef := s.grp.barRef code

/-- The code of a barrier. -/
def BarRef.code : BarRef → Nat
  | .block _ _ n => n.toNat
  | .cluster _ _ n => 16 + n.toNat
  | .launch _ n => 24 + n.toNat

/-- The groups whose arrivals a barrier counts (R155). -/
def BarRef.covers (r : BarRef) (g : Group) : Bool :=
  match r with
  | .block l b _ => g.id.l == l && g.id.blk == b
  | .cluster l c _ => g.id.l == l && g.clb != 0 && g.id.blk / g.clb == c
  | .launch l _ => g.id.l == l

/-! ### Joins (R138 to R140, R143) -/

/-- When a group becomes unsplit its deferred frees are applied; a name whose engine read is still to come stays counted as
reserved (R143). -/
def Group.applyDeferred (g : Group) : Group :=
  if g.split? then g
  else
    let names := (List.range 32).filter fun i => g.deferredFree.getLsbD i
    names.foldl (fun g n => Group.freeName g (BitVec.ofNat 5 n)) { g with deferredFree := 0 }

/-- Members of a split among fragments: those that wait at the join. -/
def membersOf (fs : List Frag) (e : Nat) : List Frag := fs.filter fun f => f.split == some e

/-- Or of masks. -/
def orMasks (ms : List Mask) : Mask := ms.foldl (· ||| ·) 0

/-- The fragment of lowest entry. -/
def lowestEntry : List Frag → Option Frag
  | [] => none
  | f :: t => match lowestEntry t with
    | none => some f
    | some x => if f.entry ≤ x.entry then some f else some x

/-- Fuse a split all of whose members have arrived (R139): the fragments that remain, given those of the group. -/
def fuseSplit (g : Group) (fs : List Frag) (x : Split) : Group × List Frag :=
  let ms := membersOf fs x.entry
  match lowestEntry ms with
  | none => (g, fs)
  | some keep =>
    let parent := x.parent.bind fun p => g.splits.find? (·.entry == p)
    let keep := { keep with
      pc := x.join, em := orMasks (ms.map Frag.em), lanes := x.lanes, fmt := x.fmt,
      jr := (parent.map Split.join).getD 0, split := x.parent, st := .ready,
      entry := if x.parent.isNone then noEntry else keep.entry, written := false }
    let rest := fs.filter fun f => f.split != some x.entry
    let g := { g with
      splits := g.splits.filter fun y => y.entry != x.entry,
      handler := g.handler.map fun h => if ms.any fun f => f.entry == h then keep.entry else h }
    (g.applyDeferred, rest ++ [keep])

/-- Fuse a split if ARRIVED equals MEMBERS (R139, R140). -/
def tryFuse (g : Group) (fs : List Frag) (e : Nat) : Group × List Frag :=
  match g.splits.find? (·.entry == e) with
  | none => (g, fs)
  | some x => if 0 < x.members ∧ x.arrived = x.members then fuseSplit g fs x else (g, fs)

/-- Change a split. -/
def Group.updSplit (g : Group) (e : Nat) (f : Split → Split) : Group :=
  { g with splits := g.splits.map fun x => if x.entry == e then f x else x }

/-- Whether a fragment at its pc arrives at its split's join; one in a handler never does (R139, R334). -/
def Group.joins (g : Group) (f : Frag) : Option Split :=
  if g.tmode ∧ g.handler = some f.entry then none
  else
    match f.split with
    | none => none
    | some e =>
      match g.splits.find? (·.entry == e) with
      | some x => if x.join ≠ 0 ∧ x.join = f.pc ∧ f.st ≠ .atJoin then some x else none
      | none => none

/-- Arrive at the join, and fuse when all members have (R139). A fuse can bring the fused fragment to its parent's
join; `fuel` bounds the levels (at most 8, R135). -/
def arriveJoin : Nat → Group → List Frag → Frag → Group × List Frag
  | 0, g, fs, f => (g, f :: fs)
  | n + 1, g, fs, f =>
    match g.joins f with
    | none => (g, f :: fs)
    | some x =>
      let f := { f with st := .atJoin }
      let g := g.updSplit x.entry fun y => { y with arrived := y.arrived + 1 }
      let (g, all) := tryFuse g (f :: fs) x.entry
      if g.splits.any (·.entry == x.entry) then (g, all)
      else
        match all.getLast? with
        | none => (g, all)
        | some k => arriveJoin n g all.dropLast k

/-- Give the group these fragments: the ready one issued last stays in focus when it is still there, else the first. -/
def State.refocus (s : State) (g : Group) (fs : List Frag) (entry : Nat) : State :=
  match fs.find? (·.entry == entry) with
  | some f => { s with grp := { g with frags := fs.filter fun x => x.entry != entry }, frag := f }
  | none =>
    match fs with
    | f :: t => { s with grp := { g with frags := t }, frag := f }
    | [] => { s with grp := { g with frags := [] } }

/-- The issuing fragment, its pc just changed, arrives at its join if it stands there (R139); entries that the arrival may
change are reloaded first (R137). -/
def State.arrive (s : State) : State :=
  match s.grp.joins s.frag with
  | none => s
  | some _ =>
    let s := s.reloadAll 64
    let (g, fs) := arriveJoin 9 s.grp s.grp.frags s.frag
    s.refocus { g with frags := [] } fs s.frag.entry

/-! ### Egress tokens (R374, R375) -/

/-- Tokens for data bytes that leave for a job: a sealed job's bucket must cover them (R374, R375). (DEDUCED, log
entry 48) -/
def State.takeTokens (s : State) (job : BitVec 32) (n : Nat) : Option State :=
  match (s.job? job).bind Job.sealed with
  | none => some s
  | some x =>
    if x.tokens.toNat < n then none
    else some { s with jobs := s.jobs.map fun j =>
      if j.id == job then { j with sealed := j.sealed.map fun y => { y with tokens := y.tokens - BitVec.ofNat 32 n } } else j }

/-! ### Trace records (R361) -/

/-- The records that wait are written to the trace ring in order, each once the tokens of its job cover it (R361,
R375). (DEDUCED, log entry 28) -/
def State.writeTrace (s : State) : List (Option (BitVec 32) × List Byte) → State
  | [] => { s with traceWait := [] }
  | (job, bs) :: t =>
    match (match job with | some j => s.takeTokens j bs.length | none => some s) with
    | none => { s with traceWait := (job, bs) :: t }
    | some s =>
      State.writeTrace { s with mem := writeBytes s.mem (s.traceA.toNat + 32 * s.traceNext) bs,
                                traceNext := (s.traceNext + 1) % (Config.traceRingLast + 1) } t

/-- One trace record, on behalf of a job or none: type, die and payload, for the next place of the ring that TRACEA names;
none is written while TRACEA is 0. The cycle count is half the timebase, which counts at 3.6 GHz (R86). (DESIGN
CHOICE, log entry 6; DEDUCED, log entry 28) -/
def State.traceRecord (s : State) (job : Option (BitVec 32)) (type : Nat) (die : Nat) (payload : List Byte) : State :=
  if s.traceA = 0 then s
  else
    let bytes := leBytes 2 type ++ leBytes 1 die ++ leBytes 5 0 ++ leBytes 8 (s.time.toNat / 2)
      ++ payload ++ List.replicate (16 - payload.length) 0
    s.writeTrace (s.traceWait ++ [(job, bytes)])

/-- PLACE of a partition, its residency slot 0 (R85, R355, R361). -/
def Partition.word (p : Partition) : Nat :=
  p.cu.die.toNat * 2 ^ 14 + p.cu.cluster.toNat * 2 ^ 11 + p.cu.cu.toNat * 2 ^ 8 + p.part.toNat * 2 ^ 6

/-- The partition lies in a protected cluster (R366, R368). -/
def State.protectedPart (s : State) (p : Partition) : Bool :=
  s.clusters.any fun c => c.n == 5 * p.cu.die.toNat + p.cu.cluster.toNat && c.job.isSome

/-- The trace record of a stop or resume: PLACE and CAUSE (R361); none in a protected cluster (R368). (DEDUCED, log
entry 28) -/
def State.traceStop (s : State) (p : Partition) (cause : Nat) : State :=
  if s.protectedPart p then s
  else s.traceRecord none 5 p.cu.die.toNat (leBytes 8 (Partition.word p) ++ leBytes 8 cause)

/-! ### Intervals in which a barrier is held (R349, R361) -/

/-- The instruction in slot `i` of a bundle. -/
def Bundle.instr (b : Bundle) (i : Nat) : Except DecodeError Instr :=
  (decode (halfBytes [b.half i, b.half (i + 1)])).map Prod.fst

/-- All groups, each with all its fragments. -/
def State.allGroups (s : State) : List Group :=
  (if s.live then [{ s.grp with frags := s.grp.frags ++ [s.frag] }] else []) ++ s.groups

/-- The code of the barrier on whose BAR.WT, prefixed by a DL or not (R128), a fragment is stalled. (DEDUCED, log entry 27) -/
def State.wtCode (s : State) (g : Group) (f : Frag) : Option Nat :=
  if f.st == .stalled && !f.held then
    match ({ s with grp := g, modeSplit := BitVec.allOnes 64, hostReqs := [] } : State).fetch f.pc with
    | .lease | .wait => none
    | .bundle b =>
      match b.instr ((f.pc.toNat % 32 - 4) / 2) with
      | .ok (.barWt c _) => some c.toNat
      | .ok (.dl _) => (match b.instr ((f.pc.toNat % 32 - 4) / 2 + 1) with | .ok (.barWt c _) => some c.toNat | _ => none)
      | _ => none
  else none

/-- The codes of the barriers that a group is stalled on. -/
def State.stalledOn (s : State) (g : Group) : List Nat := (g.wait.map Wait.code).toList ++ g.frags.filterMap (s.wtCode g)

/-- Debug has stopped the partition of a group, which is held until a resume, a step that waits included (R351, R354). -/
def State.halts (s : State) (g : Group) : Bool :=
  !g.ended && s.dbg.any fun d => d.part == g.place.part && (d.stopped || d.stepping)

/-- A barrier's timer stands still for this group: debug holds it, or its block is pre-empted (R349). -/
def State.standsStill (s : State) (g : Group) : Bool :=
  s.halts g || match s.block? g.id.l g.id.blk with | some b => !g.ended && !b.stopped && (b.stopping || b.saved) | none => false

/-- The barriers that groups are stalled on and whose timers stand still. -/
def State.heldNow (s : State) : List HeldBar :=
  let gs := s.allGroups.filter fun g => !g.ended
  let refs := (gs.flatMap fun g => (s.stalledOn g).filterMap fun c => (g.barRef c).map fun r => (r, g.job)).eraseDups
  refs.filterMap fun x => (gs.find? fun g => BarRef.covers x.1 g && s.standsStill g).map fun g =>
    { bar := x.1, job := x.2, blk := g.id.blk, grp := g.id.g, die := g.place.part.cu.die }

/-- The record of the start (0) or the end (1) of an interval, of a protected job's too: R368 exempts records of type 5 alone (R361).
(DEDUCED, log entry 28) -/
def State.heldRecord (s : State) (what : Nat) (h : HeldBar) : State :=
  s.traceRecord (some h.job) 4 h.die.toNat
    (leBytes 2 what ++ leBytes 2 (BarRef.code h.bar) ++ leBytes 4 h.blk ++ leBytes 4 h.grp)

/-- The trace notes the intervals that begin and end here (R349, R361). (DEDUCED, log entry 28) -/
def State.traceHolds (s : State) : State :=
  if s.heldBars.isEmpty && !s.allGroups.any s.standsStill then s
  else
    let now := s.heldNow
    let gone := s.heldBars.filter fun h => !now.any fun x => x.bar == h.bar
    let new := now.filter fun h => !s.heldBars.any fun x => x.bar == h.bar
    let s := gone.foldl (fun s h => s.heldRecord 1 h) s
    let s := new.foldl (fun s h => s.heldRecord 0 h) s
    { s with heldBars := (s.heldBars.filter fun h => now.any fun x => x.bar == h.bar) ++ new }

/-! ### Debug registers (R352) -/

/-- The debug registers of a partition at reset. (DESIGN CHOICE, log entry 2) -/
def DebugPart.start (p : Partition) : DebugPart :=
  { part := p, slot := 0, stopped := false, dumped := false, cause := 0, refused := false, fslot := 0, wphit := 0,
    lanes := 0, stepping := false, dumpAsked := false, dw := Vector.replicate 4 Watch.off, pendings := [],
    leaves := Vector.replicate 14 0, snap := Vector.replicate 14 0 }

/-- The debug registers of a partition. -/
def State.debugPart (s : State) (p : Partition) : DebugPart := (s.dbg.find? fun d => d.part == p).getD (DebugPart.start p)

/-- DBGSTAT (R352). -/
def DebugPart.stat (d : DebugPart) : Nat :=
  (if d.stopped then 1 else 0) + (if d.dumped then 2 else 0) + d.cause.toNat * 4 + (if d.refused then 2 ^ 7 else 0)
    + d.fslot.toNat * 2 ^ 8 + d.wphit.toNat * 2 ^ 13 + d.lanes.toNat * 2 ^ 32

/-- DBGCTL as it reads: SLOT (R352). -/
def DebugPart.ctl (d : DebugPart) : Nat := d.slot.toNat * 2 ^ 8

/-- Change the debug registers of a partition, which are at reset while nothing is noted of it. -/
def State.updDebug (s : State) (p : Partition) (f : DebugPart → DebugPart) : State :=
  if s.dbg.any fun d => d.part == p then { s with dbg := s.dbg.map fun d => if d.part == p then f d else d }
  else { s with dbg := s.dbg ++ [f (DebugPart.start p)] }

/-! ### Issue and retire -/

/-- A slot counter of the issuing partition rises, with TOTAL (R357, R359). (DEDUCED, log entry 29; DESIGN CHOICE,
log entry 53) -/
def State.countSlot (s : State) (leaf : Nat) : State :=
  s.updDebug s.grp.place.part fun d =>
    { d with leaves := Vector.ofFn fun i => if i.val = leaf ∨ i.val = 13 then d.leaves[i] + 1 else d.leaves[i] }

/-- The run of the fragment ends: it moves to the tail of the rotation list (R182). -/
def State.endRun (s : State) : State :=
  { s with frag := { s.frag with rot := s.nextRot, run := 0 }, nextRot := s.nextRot + 1 }

/-- The run ends with the instruction that has just issued; a fragment that it has divided stands before the taken one, where
the division has put it (R135, R182). -/
def State.endRunAfter (s : State) (split : Bool) : State :=
  if split then { s with frag := { s.frag with run := 0 } } else s.endRun

/-- What the event counters have counted more by occurrence `n` (R359): how often an access predicted an address wrongly, missed a
TLB, met a busy bank or visited a node is not given. (DESIGN CHOICE, log entry 53) -/
def EventCounts.more (c : EventCounts) (n : Nat) : EventCounts :=
  let bank (b : Nat) : Nat := ((c.bankConflicts.find? fun x => x.1 == b).map Prod.snd).getD 0
  { squashed := c.squashed + Config.freeChoice n 64, tlbMisses := c.tlbMisses + Config.freeChoice n 65,
    bankConflicts := (List.range 8).map fun b => (b, bank b + Config.freeChoice n (66 + b)),
    nodeVisits := c.nodeVisits + Config.freeChoice n 74 }

/-- Bookkeeping of an instruction that took its effect (R20, R21, R86, R182, R337 SUPP). -/
def State.retire (s : State) : State :=
  let s := s.countSlot s.latch.leaf
  let split := s.latch.split
  let s := { s with
    fresh := s.fresh + 1, counts := s.counts.more s.fresh,
    grp := { s.grp with
      supp := s.grp.supp && s.grp.handler != some s.frag.entry, issued := s.grp.issued + 1, opCache := [],
      cycle := s.grp.cycle + 1 + s.latch.gap,
      lat := s.grp.lat.filter fun x => s.grp.cycle + 1 + s.latch.gap < x.ready },
    frag := { s.frag with run := s.frag.run + 1, st := .ready, again := false, written := false, skip := false },
    latch := s.latch.noDl }
  if s.latch.code = 3 ∨ s.latch.gap ≠ 0 ∨ 64 ≤ s.frag.run then s.endRunAfter split else s

/-- The run of the fragment in focus, if it is in one, is over (R182). -/
def State.runOver (s : State) : State := if 0 < s.frag.run then s.endRunAfter s.latch.split else s

/-- The fragment is stalled in its issue slot, which ends a run (R182); it has taken none of the issues that the device lets go
before an event of its own. -/
def State.stalled (s : State) (pc : VA) : State :=
  let s := { s with frag := { s.frag with st := .stalled, again := false, pc := pc }, latch := s.latch.noDl,
                    fresh := s.fresh + 1, picks := s.picks - 1 }
  if 0 < s.frag.run then s.endRun else s

/-- An instruction has issued: a debugger's step is over and the partition stops again with CAUSE 2, which ends the run of the
fragment (R182, R354). -/
def State.stepDone (s : State) : State :=
  let s := if s.dbg.any fun d => d.part == s.grp.place.part && d.stepping then (s.traceStop s.grp.place.part 2).runOver else s
  { s with dbg := s.dbg.map fun d =>
      if d.part == s.grp.place.part && d.stepping then { d with stepping := false, stopped := true, cause := 2 } else d }

/-- The state after an instruction whose effect is `t` has retired, execution going on at `a` (R20, R139). (DEDUCED,
log entry 55) -/
def State.goesOn (t : State) (a : VA) : State :=
  State.stepDone (State.arrive { t.retire with frag := { t.retire.frag with pc := a } })

/-- What an issue comes to, as the outcome of a step. (DEDUCED, log entry 55) -/
def finish (s : State) : Eff → Host.Outcome State Fault Refusal
  | .done t => .next (t.goesOn s.latch.next)
  | .jump a t => .next (t.goesOn a)
  | .stay t => .next t
  | .trap e => .next { ((s.countSlot s.latch.leaf).raise e).stepDone with fresh := s.fresh + 1 }
  | .trapWith e t => .next { ((t.countSlot s.latch.leaf).raise e).stepDone with fresh := s.fresh + 1 }
  | .stall t => .next (t.stalled s.latch.start)
  | .lease => .next { (s.leaseViolation s.grp.id.l).stepDone with fresh := s.fresh + 1 }

/-- Issue an instruction that DL 0 may not prefix when K = 0 (R130). -/
def issue (s : State) (f : State → Eff) : Host.Outcome State Fault Refusal :=
  if s.live then
    if s.dlDual then finish s (.trap excIllegal) else finish s (f s)
  else .fault .noFragment

/-- Issue an instruction that DL 0 may prefix when K = 0 (R130). -/
def issueDual (s : State) (f : State → Eff) : Host.Outcome State Fault Refusal :=
  if s.live then finish s (f s) else .fault .noFragment

/-- The group is inside an open transaction, live or doomed (R227). -/
def State.inTx (s : State) : Bool := s.grp.tx.isSome
/-- transaction misuse (R228). -/
def excTx : Exc := exc 20

/-! ### Return from an exception (R337) -/

/-- What every ERET does: em is restored within the fragment's lane set (R134), TMODE, PEND and WAITR end, and fragments that a fault held back may issue again
(R334, R337). (DEDUCED, log entry 20) -/
def State.leaveTrap (s : State) : State :=
  { s with
    frag := { s.frag with em := s.grp.tem &&& s.frag.lanes },
    grp := { s.grp with
      tmode := false, pend := false, waitr := false, handler := none, waitRec := none,
      frags := s.grp.frags.map fun f =>
        if f.st = .stalled then { f with again := true, held := false } else { f with held := false } } }

/-- The recorded wait that an ERET resumes: only while TEPC holds its address (R337, R349). (DEDUCED, log entry 20) -/
def Group.resumes (g : Group) : Option Wait := if g.waitr then g.waitRec.filter fun w => w.addr == g.tepc else none

/-- The length of what stands at an address, for ERET.SKIP: a DL with the instruction it prefixes counts as one
(R337). (DEDUCED, log entry 20) -/
def Bundle.skipFrom (b : Bundle) (a : VA) : Nat :=
  let i := (a.toNat % 32 - 4) / 2
  let len (h : BitVec 16) : Nat := if h.getLsbD 0 then 4 else 2
  if !(b.half i).getLsbD 0 && (b.half i).toNat / 2 % 32 == 17 then 2 + len (b.half (i + 1)) else len (b.half i)

end Sys2Proof.Machine
end

