-- ==== Sys2Proof/Machine/Flags.lean ====
section
/-! DEFINITION. Lane-by-lane results, conditions, predicates and the special registers (R32, R78, R85 to R89). -/

namespace Sys2Proof.Machine

/-! ### Lane by lane -/

/-- A function of one source in every lane. -/
def map1 (f : BitVec 32 → BitVec 32) (x : Lanes) : Lanes := Vector.ofFn fun l => f x[l]
/-- A function of two sources in every lane. -/
def map2 (f : BitVec 32 → BitVec 32 → BitVec 32) (x y : Lanes) : Lanes := Vector.ofFn fun l => f x[l] y[l]
/-- A function of three sources in every lane. -/
def map3 (f : BitVec 32 → BitVec 32 → BitVec 32 → BitVec 32) (x y z : Lanes) : Lanes :=
  Vector.ofFn fun l => f x[l] y[l] z[l]
/-- In every component, lanes of `m` from `new` and the others from `old`. -/
def mergeComps (m : Mask) (old new : VReg) (kt : Nat) : VReg :=
  (List.range (kt + 1)).map fun j => mergeLanes m (compAt old j) (compAt new j)

/-- The lanes below `n` in which `f` holds, as a number. -/
def laneBits (f : Nat → Bool) : Nat → Nat
  | 0 => 0
  | n + 1 => laneBits f n + (if f n then 2 ^ n else 0)
/-- The lanes in which `f` holds. -/
def laneMask (f : Nat → Bool) : Mask := BitVec.ofNat 32 (laneBits f 32)
/-- The lanes of a mask, ascending. -/
def lanesOf (m : Mask) : List Nat := (List.range 32).filter fun l => m.getLsbD l
/-- The lowest lane of a mask. -/
def lowestLane (m : Mask) : Option Nat := (lanesOf m).head?

/-- Bytes of a vector value: lane l at 4 l. -/
def lanesBytes (x : Lanes) : List Byte := x.toList.flatMap fun w => leBytes 4 w.toNat

/-- A vector value from 128 bytes. -/
def lanesOfBytes (bs : List Byte) : Lanes := Vector.ofFn fun l => BitVec.ofNat 32 (leNat ((bs.drop (4 * l.val)).take 4))

/-! ### Conditions -/

/-- An integer condition (R87). -/
def icond {w : Nat} (c : ICond) (x y : BitVec w) : Bool :=
  match c with
  | .eq => x == y
  | .ne => x != y
  | .lt => decide (x.toInt < y.toInt)
  | .le => decide (x.toInt ≤ y.toInt)
  | .gt => decide (y.toInt < x.toInt)
  | .ge => decide (y.toInt ≤ x.toInt)
  | .ltn => decide (x.toNat < y.toNat)
  | .gen => decide (y.toNat ≤ x.toNat)

/-- The condition of ICMPI among those of ICMP (R88). -/
def ICond4.toICond : ICond4 → ICond
  | .eq => .eq
  | .ne => .ne
  | .lt => .lt
  | .ge => .ge

/-- A predicate instruction of two sources (R89). -/
def pred2 (g d a b : PReg) (f : Mask → Mask → Mask) (s : State) : Eff :=
  .done (s.writeK d (s.active g) (f (s.readK a) (s.readK b)) 2)

/-! ### Special registers -/

/-- PLACE (R85). -/
def Place.word (p : Place) : Nat :=
  p.part.cu.die.toNat * 2 ^ 14 + p.part.cu.cluster.toNat * 2 ^ 11 + p.part.cu.cu.toNat * 2 ^ 8
    + p.part.part.toNat * 2 ^ 6 + p.slot.toNat * 2 ^ 2

/-- The device timebase moves on before a CLK read outside deterministic mode, and never back (R86): a 64-bit counter at
3.6 × 10^9 ticks per second does not run over while the device runs. (DESIGN CHOICE, log entry 6) -/
def State.readTime (s : State) (r : SpecReg) : State :=
  if r = .clk ∧ !s.grp.det then
    { s with time := BitVec.ofNat 64 (min (2 ^ 64 - 1) (s.time.toNat + Config.clkAdvance s.fresh)) }
  else s

/-- A special register as lane `l` reads it (R85, R86). -/
def State.special (s : State) (r : SpecReg) (l : Nat) : BitVec 64 :=
  match r with
  | .laneid => BitVec.ofNat 64 l
  | .grpidx => BitVec.ofNat 64 s.grp.id.g
  | .ngrp => BitVec.ofNat 64 s.grp.ngrp
  | .blkx => s.grp.bx.setWidth 64
  | .blky => s.grp.byy.setWidth 64
  | .blkz => s.grp.bz.setWidth 64
  | .gridx => s.grp.gx.setWidth 64
  | .gridy => s.grp.gy.setWidth 64
  | .gridz => s.grp.gz.setWidth 64
  | .gst => s.gst.setWidth 64
  | .place => BitVec.ofNat 64 s.grp.place.word
  | .clk => if s.grp.det then BitVec.ofNat 64 s.grp.issued else s.time
  | .launchid => s.grp.launchId.setWidth 64
  | .devid => s.devId.setWidth 64

end Sys2Proof.Machine
end

