-- ==== Sys2Proof/Machine/TableIndex.lean ====
section
/-! DEFINITION. Keyed tables as data: slots and references, the ordered index, the hashed index, rebalancing and scans
(12_keyed_tables.md R212 to R226). -/

namespace Sys2Proof.Machine

/-! ### Slots and references (R213, R215, R216) -/

/-- Bytes of a row (R212). -/
def Table.rowBytes (t : Table) : Nat := (t.rsz + 1) * 16
/-- The table has an ordered index. -/
def Table.ordered (t : Table) : Bool := t.kind % 2 == 1
/-- The table has a hashed index. -/
def Table.hashed (t : Table) : Bool := decide (2 ≤ t.kind)
/-- The slot that holds a key. -/
def Table.find (t : Table) (k : BitVec 64) : Option Nat := (t.rows.find? (·.1 == k)).map Prod.snd
/-- The generation of a slot. -/
def Table.gen (t : Table) (slot : Nat) : BitVec 8 := ((t.gens.find? (·.1 == slot)).map Prod.snd).getD 0
/-- The reference of a slot (R215). -/
def Table.ref (t : Table) (slot : Nat) : BitVec 64 := t.num ++ BitVec.ofNat 40 slot ++ t.gen slot
/-- The slot that a reference names, unless it is stale (R216, R248). -/
def Table.slotOfRef (t : Table) (r : BitVec 64) : Option Nat :=
  let slot := r.toNat / 2 ^ 8 % 2 ^ 40
  if r ≠ 0 ∧ slot < t.rcap ∧ t.gen slot = r.setWidth 8 then some slot else none
/-- The table that a reference names. -/
def refTable (r : BitVec 64) : BitVec 16 := r.extractLsb' 48 16
/-- The slot holds no key. -/
def Table.slotFree (t : Table) (slot : Nat) : Bool := decide (slot < t.rcap) && !(t.rows.any (·.2 == slot))
/-- A deterministic launch that has not completed used the table when the slot was freed (R226). -/
def Table.isFrozen (t : Table) (slot : Nat) : Bool := t.frozen.any fun x => x.1 == slot && x.2.any t.users.contains
/-- Virtual address of byte `o` of a slot's row (R213). -/
def Table.rowVa (t : Table) (slot o : Nat) : Nat := t.rpool + slot * t.rowBytes + o

/-- The first slot from `x` on that is free for an insert, wrapping at RCAP; `dead` slots lie on retired pages (R211). -/
def Table.firstFree (t : Table) (dead : Nat → Bool) : Nat → Nat → Option Nat
  | 0, _ => none
  | n + 1, x =>
    let x := if x < t.rcap then x else 0
    if t.slotFree x && !t.isFrozen x && !dead x then some x else Table.firstFree t dead n (x + 1)

/-- Any free slot (R225): the choice is open. At most `more` slots are dead. (DEDUCED, log entry 38) -/
def Table.anySlot (t : Table) (dead : Nat → Bool) (more choice : Nat) : Option Nat :=
  if t.rcap = 0 then none
  else t.firstFree dead (min t.rcap (t.rows.length + t.frozen.length + more + 1)) (choice % t.rcap)

/-- F: the lowest slot from which on every slot is free (R226). -/
def Table.runBase (t : Table) : Nat := (t.rows.map fun r => r.2 + 1).foldl max 0

/-! ### Nodes (R220, R222) -/

/-- Pages that the primary buckets fix. -/
def Table.primaryPages (t : Table) : Nat := if t.hashed then (2 ^ t.hb * 128 + 4095) / 4096 else 0
/-- Nodes of the index pool in use. (DEDUCED, log entry 39) -/
def Table.nodesUsed (t : Table) : Nat :=
  t.leaves.length + (t.inner.map List.length).sum + (t.buckets.map fun b => b.2.length - 1).sum
/-- FREENODES (R253); pages of the pool that are retired are never allocated (R211). (DEDUCED, log entry 39) -/
def Table.freeNodes (t : Table) : Nat := t.ipages - t.lost - t.primaryPages - t.nodesUsed
/-- HEIGHT (R212). -/
def Table.height (t : Table) : Nat := if t.leaves.isEmpty then 0 else 1 + t.inner.length

/-! ### The ordered index (R220) -/

/-- Insert into a sorted list of keys. -/
def insertKey (k : BitVec 64) (slot : Nat) : List (BitVec 64 × Nat) → List (BitVec 64 × Nat)
  | [] => [(k, slot)]
  | x :: t => if k.toNat < x.1.toNat then (k, slot) :: x :: t else x :: insertKey k slot t

/-- The leaf that a key belongs to: the last whose smallest key is not above it, else the first. (DEDUCED, log entry
36) -/
def leafFor (k : BitVec 64) (ls : List Leaf) : Nat :=
  (ls.zipIdx.filterMap fun p => match p.1.keys with
    | [] => none
    | x :: _ => if x.1.toNat ≤ k.toNat then some p.2 else none).getLast?.getD 0

/-- Replace element `i` by the elements given. -/
def splice {α : Type} (xs : List α) (i : Nat) (ys : List α) : List α := xs.take i ++ ys ++ xs.drop (i + 1)

/-- The node of a level that has child `ci`, given its child counts. -/
def parentOf : List Nat → Nat → Nat
  | [], _ => 0
  | n :: t, ci => if ci < n then 0 else 1 + parentOf t (ci - n)

/-- Child `ci` has split: its parent takes one more child and may split in turn, up to a new root. The levels after it
and the splits of inner nodes. -/
def growLevels : List (List Nat) → Nat → List (List Nat) × Nat
  | [], _ => ([[2]], 0)
  | lv :: up, ci =>
    let p := parentOf lv ci
    let n := lv.getD p 0 + 1
    if n ≤ 16 then (lv.set p n :: up, 0)
    else
      let r := growLevels up p
      (splice lv p [8, 9] :: r.1, r.2 + 1)

/-- Insert a key into the ordered index. (DEDUCED, log entry 36) -/
def Table.growOrdered (t : Table) (k : BitVec 64) (slot : Nat) : Table :=
  if !t.ordered then t
  else if t.leaves.isEmpty then { t with leaves := [{ keys := [(k, slot)] }] }
  else
    let i := leafFor k t.leaves
    let ks := insertKey k slot ((t.leaves.getD i { keys := [] }).keys)
    if ks.length ≤ 16 then { t with leaves := t.leaves.set i { keys := ks } }
    else
      let g := growLevels t.inner i
      { t with
        leaves := splice t.leaves i [{ keys := ks.take 8 }, { keys := ks.drop 8 }],
        inner := g.1, splits := t.splits + 1 + BitVec.ofNat 32 g.2 }

/-! ### The hashed index (R222) -/

/-- h(k) for `b` hash bits (R222). -/
def hashOf (b : Nat) (k : BitVec 64) : Nat := (((k ^^^ (k >>> 31)) * 0x9E3779B97F4A7C15#64) >>> (64 - b)).toNat

/-- Put a key into the first bucket of a chain that has room, else into a new overflow bucket. (DEDUCED, log entry
39) -/
def chainPut (k : BitVec 64) : List (List (BitVec 64)) → List (List (BitVec 64))
  | [] => [[k]]
  | b :: t => if b.length < 8 then (b ++ [k]) :: t else b :: chainPut k t

/-- Change the chain of a bucket. -/
def updChain (bs : List (Nat × List (List (BitVec 64)))) (i : Nat) (f : List (List (BitVec 64)) → List (List (BitVec 64))) :
    List (Nat × List (List (BitVec 64))) :=
  if bs.any (·.1 == i) then bs.map fun b => if b.1 == i then (i, f b.2) else b else bs ++ [(i, f [[]])]

/-- Insert a key into the hashed index. (DEDUCED, log entry 36; DEDUCED, log entry 39) -/
def Table.growHashed (t : Table) (k : BitVec 64) : Table :=
  if t.hashed then { t with buckets := updChain t.buckets (hashOf t.hb k) (chainPut k) } else t

/-! ### Insert, delete (R216, R219) -/

/-- Insert an absent key at a free slot; none if the index pool has too few free nodes. ROOT follows the root node.
(DEDUCED, log entry 36) -/
def Table.insert (t : Table) (k : BitVec 64) (slot : Nat) : Option Table :=
  let t' := (t.growOrdered k slot).growHashed k
  if t'.nodesUsed + t.primaryPages + t.lost ≤ t.ipages then
    some { t' with rows := t.rows ++ [(k, slot)] }
  else none

/-- Delete a present key: the slot's generation advances; the last key takes the whole ordered index with it (R216,
R221). `freeze`: the deterministic launches that use the table (R226). (DEDUCED, log entry 36) -/
def Table.delete (t : Table) (k : BitVec 64) (freeze : List Nat) : Table :=
  match t.find k with
  | none => t
  | some slot =>
    let rows := t.rows.filter (·.1 != k)
    { t with
      rows := rows,
      gens := (slot, t.gen slot + 1) :: t.gens.filter (·.1 != slot),
      leaves := if rows.isEmpty then [] else t.leaves.map fun l => { keys := l.keys.filter (·.1 != k) },
      inner := if rows.isEmpty then [] else t.inner,
      buckets := if t.hashed then updChain t.buckets (hashOf t.hb k) (List.map (List.filter (· != k))) else t.buckets,
      frozen := if freeze.isEmpty then t.frozen else (slot, freeze) :: t.frozen }

/-! ### Rebalancing (R221, R222) -/

/-- Nodes `i` and `j` of a level stand under one parent. -/
def sameParent (counts : List Nat) (i j : Nat) : Bool := parentOf counts i == parentOf counts j

/-- The child counts when node `i`'s parent loses one child. -/
def loseChild (counts : List Nat) (i : Nat) : List Nat :=
  let p := parentOf counts i
  counts.set p (counts.getD p 0 - 1)

/-- The sibling that node `i` of `n` merges into: the left one if the two together fit, else the right one. -/
def mergeTarget (counts : List Nat) (n i : Nat) (fits : Nat → Bool) : Option Nat :=
  if 0 < i ∧ sameParent counts (i - 1) i ∧ fits (i - 1) then some (i - 1)
  else if i + 1 < n ∧ sameParent counts i (i + 1) ∧ fits (i + 1) then some (i + 1)
  else none

/-- Leaf `i`, with fewer than 4 keys, merges into a sibling (R221). (DEDUCED, log entry 36) -/
def Table.mergeLeaf (t : Table) (i : Nat) : Table :=
  let at_ (j : Nat) : List (BitVec 64 × Nat) := (t.leaves.getD j { keys := [] }).keys
  let counts := t.inner.headD []
  if counts.isEmpty ∨ t.leaves.length ≤ i ∨ 4 ≤ (at_ i).length then t
  else
    match mergeTarget counts t.leaves.length i fun j => decide ((at_ i).length + (at_ j).length ≤ 16) with
    | none => t
    | some j =>
      let lo := min i j
      { t with
        leaves := splice (splice t.leaves (lo + 1) []) lo [{ keys := at_ lo ++ at_ (lo + 1) }],
        inner := loseChild counts i :: t.inner.drop 1,
        merges := t.merges + 1 }

/-- Inner node `i` of level `lv`, reduced to one child, is removed in the same way (R221). (DEDUCED, log entry 36) -/
def Table.mergeInner (t : Table) (lv i : Nat) : Table :=
  let row := t.inner.getD lv []
  let counts := t.inner.getD (lv + 1) []
  if counts.isEmpty ∨ row.getD i 0 ≠ 1 then t
  else
    match mergeTarget counts row.length i fun j => decide (1 + row.getD j 0 ≤ 16) with
    | none => t
    | some j =>
      let lo := min i j
      let merged := splice (splice row (lo + 1) []) lo [row.getD lo 0 + row.getD (lo + 1) 0]
      { t with inner := (t.inner.set lv merged).set (lv + 1) (loseChild counts i) }

/-- A root with one child is replaced by that child (R221). -/
def Table.dropRoot (t : Table) : Table :=
  if t.inner.getLast? = some [1] then { t with inner := t.inner.dropLast } else t

/-- Empty overflow buckets of a chain are unchained (R222). -/
def unchain : List (List (BitVec 64)) → List (List (BitVec 64))
  | [] => []
  | b :: t => b :: t.filter fun x => !x.isEmpty

/-- One rebalancing step; it changes no key set, slot or generation (R218). (DEDUCED, log entry 36) -/
def Table.rebalance (t : Table) : RebalanceStep → Table
  | .leaf i => t.mergeLeaf i
  | .inner lv i => t.mergeInner lv i
  | .root => t.dropRoot
  | .bucket b => { t with buckets := t.buckets.map fun x => if x.1 == b then (b, unchain x.2) else x }

/-- Rebalancing steps that would change the table: the work of the background rebalancer. -/
def Table.rebalanceWork (t : Table) : List RebalanceStep :=
  let steps := ((List.range t.leaves.length).map RebalanceStep.leaf)
    ++ (t.inner.zipIdx.flatMap fun p => (List.range p.1.length).map fun i => RebalanceStep.inner p.2 i)
    ++ [.root] ++ t.buckets.map fun b => RebalanceStep.bucket b.1
  steps.filter fun x => t.rebalance x != t

/-! ### Scans (R224) and statistics (R253) -/

/-- Keys in ascending order with their slots. -/
def Table.sorted (t : Table) : List (BitVec 64 × Nat) := t.rows.foldl (fun acc r => insertKey r.1 r.2 acc) []

/-- The first `n` keys that a cursor returns (R224). -/
def Table.scan (t : Table) (c : Cursor) (n : Nat) : List (BitVec 64 × Nat) :=
  if c.exhausted then []
  else
    (t.sorted.filter fun r =>
      (if c.returned then decide (c.last.toNat < r.1.toNat) else decide (c.last.toNat ≤ r.1.toNat))
        && decide (r.1.toNat ≤ c.hi.toNat)).take n

/-- The value that a selector of TSTAT names (R253). -/
def Table.stat (t : Table) : StatSel → Nat
  | .rows => t.rows.length
  | .height => t.height
  | .splits => t.splits.toNat
  | .merges => t.merges.toNat
  | .freeSlots => t.rcap - t.rows.length
  | .freeNodes => t.freeNodes

/-! ### Table records (R212, R213) -/

/-- A field of a table record's 512 bits: `n` bits from bit `i`. -/
def recField (bits : Nat) (i n : Nat) : Nat := bits / 2 ^ i % 2 ^ n

/-- The table that a 64-byte record describes, empty; none if the record is invalid or names an array (R212, R213). An RCAP of 0 or
above 2^40, which R212 does not give and R213 does not call invalid, is taken as it is. (DESIGN CHOICE, log entry 35) -/
def Table.ofRecord (job : BitVec 32) (num : BitVec 16) (bytes : List Byte) : Option Table :=
  let f := recField (leNat bytes)
  let kind := f 0 2
  let hb := f 8 6
  let t : Table :=
    { job := job, num := num, kind := kind, rsz := f 2 5, hb := hb, hdie := BitVec.ofNat 2 (f 16 2),
      hslice := BitVec.ofNat 5 (f 18 5), rbhw := f 23 1 == 1, detres := f 32 32, rpool := f 64 52, rcap := f 128 41,
      ipool := f 192 52, ipages := f 256 32, splits := 0, merges := 0, rows := [], gens := [], leaves := [], inner := [],
      buckets := [], frozen := [], root := 0, lost := 0, users := [] }
  let reserved := [(14, 2), (24, 8), (116, 12), (169, 23), (244, 12), (288, 32), (372, 12), (425, 7), (437, 11)]
  let bad := f 7 1 == 0 || reserved.any (fun r => f r.1 r.2 != 0) || kind == 0
    || (if t.hashed then hb == 0 || decide (40 < hb) else hb != 0)
    || decide (2 ^ 52 < t.rpool + t.rcap * t.rowBytes) || decide (2 ^ 52 < t.ipool + t.ipages * 4096)
    || (t.hashed && decide (t.ipages ≤ t.primaryPages))
  if bad then none else some t

/-- SPLITS and MERGES of a record (R212). -/
def recordCounts (bytes : List Byte) : BitVec 32 × BitVec 32 :=
  (BitVec.ofNat 32 (recField (leNat bytes) 448 32), BitVec.ofNat 32 (recField (leNat bytes) 480 32))

/-- ROWS of a record. (DESIGN CHOICE, log entry 35) -/
def recordRows (bytes : List Byte) : Nat := recField (leNat bytes) 384 41

/-- Bytes 40 to 63 of a table's record, which the device keeps current: ROOT, ROWS and HEIGHT, SPLITS, MERGES (R212). -/
def Table.roBytes (t : Table) : List Byte :=
  leBytes 8 (if t.height = 0 then 0 else t.ipool + 4096 * t.root) ++ leBytes 6 t.rows.length ++ leBytes 2 t.height
    ++ leBytes 4 t.splits.toNat ++ leBytes 4 t.merges.toNat

/-! ### A launch's table and where its rows lie (R203, R205, R213) -/

/-- A table bound for a launch (R213). -/
def State.tableOf (s : State) (job : BitVec 32) (num : BitVec 16) (l : Nat) : Option Table :=
  s.tables.find? fun t => t.job == job && t.num == num && t.users.contains l

/-- The index pool of a table lies inside the launch's leases, as an operation on its index needs (R205, R213); the KIND of its pages,
which R213 wants to be 1, is not looked at. (DESIGN CHOICE, log entry 35) -/
def State.indexLeased (s : State) (l : Nat) (t : Table) : Bool :=
  match s.launch? l with | some x => x.covers t.ipool (4096 * t.ipages) | none => false

/-- What reaching bytes of a row comes to: their places, a page that a row may not lie on, a lease violation (R203, R205), or a wait for
the host's walk of a page (R406). -/
inductive RowReach where
  | ok (ps : List Loc)
  | protectedPage
  | lease
  | wait (va : Nat)
  deriving DecidableEq, Repr

/-- The places of the `n` bytes from byte `off` of a slot's row, as the table's home engine reaches them (R203, R205, R213). -/
def State.rowLocs (s : State) (l : Nat) (t : Table) (slot off n : Nat) : RowReach :=
  let rs := (List.range n).map fun i => s.reachFrom l t.hdie none t.job (t.rowVa slot (off + i))
  match s.walkMissing t.hdie none t.job ((List.range n).map fun i => t.rowVa slot (off + i)) with
  | some va => .wait va
  | none =>
  if rs.contains .protectedPage then .protectedPage
  else if rs.contains .lease then .lease
  else .ok (rs.filterMap fun r => match r with | .ok pa _ => some (Loc.dev pa) | _ => none)

/-- The page that it waits for. -/
def RowReach.waits : RowReach → Option Nat | .wait va => some va | _ => none

/-- The places alone. -/
def RowReach.places : RowReach → List Loc | .ok ps => ps | _ => []

end Sys2Proof.Machine
end

