-- ==== Sys2Proof/Machine/Operands.lean ====
section
/-! DEFINITION. Operand forms of memory accesses: how lane addresses are formed and checked (R103, R104, R203, R236,
R237, R331, R339, R356), operations in flight and their order (R11, R96, R102, R235, R267, R268), and how their
results reach registers (R22, R353). -/

namespace Sys2Proof.Machine

/-! ### Lane addresses -/

/-- A lane and the offset it accesses within its segment. -/
structure LaneOff where
  lane : Nat
  off : Nat
  deriving DecidableEq, Repr

/-- The segment that a scalar base selects (R103). -/
def segOf (base : BitVec 64) : Nat := base.toNat / 2 ^ 61
/-- Bits [60:52] of a base must be 0 (R104). -/
def baseHigh (base : BitVec 64) : Bool := base.toNat / 2 ^ 52 % 2 ^ 9 ≠ 0

/-- Offsets of the active lanes as LD forms them (R103). -/
def laneOffs (base : BitVec 64) (v : Lanes) (act : Mask) : List LaneOff :=
  (lanesOf act).map fun l => { lane := l, off := base.toNat % 2 ^ 52 + (v.get l).toNat }

/-- Offsets of the active lanes as LDS forms them, in 64 bits (R237). -/
def laneOffsScratch (base : BitVec 64) (v : Lanes) (act : Mask) : List LaneOff :=
  (lanesOf act).map fun l => { lane := l, off := (base + (v.get l).setWidth 64).toNat }

/-- The lanes of a list as a mask. -/
def maskOf (xs : List Nat) : Mask := orMasks (xs.map fun l => 1#32 <<< l)

/-- A fault for these lanes, with the value that TADDR takes for the lowest (R330). (DEDUCED, log entry 14) -/
def laneExc (code : Nat) (xs : List (Nat × Nat)) : Exc :=
  { code := code, addr := BitVec.ofNat 64 ((xs.head?.map Prod.snd).getD 0), mask := maskOf (xs.map Prod.fst), info := 0 }

/-- The limit of a segment of the issuing group. -/
def Group.limit (g : Group) (seg : Nat) : Nat := ((g.sg.toList.getD seg { base := 0, limit := 0 }).limit).toNat
/-- The base of a segment of the issuing group. -/
def Group.segBase (g : Group) (seg : Nat) : Nat := ((g.sg.toList.getD seg { base := 0, limit := 0 }).base).toNat

/-- The segment check of R104: segments in `allow`, sg7 always protected, every byte below the limit. Of two faults of
rank 8 the segment limit comes first (R331). (DEDUCED, log entry 14; DEDUCED, log entry 15) -/
def segCheck (g : Group) (seg : Nat) (high : Bool) (allow : List Nat) (n : Nat) (xs : List LaneOff) : Option Exc :=
  let ps := fun (f : LaneOff → Bool) => (xs.filter f).map fun x => (x.lane, x.off)
  let bad := ps fun x => (seg != 7 && !allow.contains seg) || high || decide (g.limit seg < x.off + n)
  if !bad.isEmpty then some (laneExc 7 bad)
  else if seg = 7 ∧ !xs.isEmpty then some (laneExc 8 (ps fun _ => true))
  else none

/-- The alignment check of atomic accesses (R236). -/
def alignCheck (n : Nat) (xs : List LaneOff) : Option Exc :=
  let bad := (xs.filter fun x => x.off % n != 0).map fun x => (x.lane, x.off)
  if bad.isEmpty then none else some (laneExc 9 bad)

/-! ### Translation, protection and leases by lane (R203, R205, R207) -/

/-- What the bytes of one lane meet. -/
inductive ByteReach where
  | ok (p : Loc)
  | prot
  | lease
  | ats (pasid : BitVec 20) (page : BitVec 40)
  deriving DecidableEq, Repr

/-- A byte of a segment of the issuing group, at offset `o`. -/
def State.reachByte (s : State) (seg o : Nat) : ByteReach :=
  let g := s.grp
  if seg = 1 then .ok (.scr g.id.l g.id.blk o)
  else
    let va := g.segBase seg + o
    if seg = 6 then
      let pasid := match s.job? g.job with | some j => j.pasid | none => 0
      match s.launch? g.id.l with
      | none => .lease
      | some l =>
        if !l.hostLeased va then .lease
        else
          let page := BitVec.ofNat 40 (va / 0x1000)
          if s.atc.contains (pasid, page) then .ok (.host pasid.toNat va) else .ats pasid page
    else
      match s.reachVa g.id.l g.place.part.cu g.job va with
      | .ok pa _ => .ok (.dev pa)
      | .protectedPage => .prot
      | .lease => .lease

/-- The bytes of one lane. -/
def State.reachBytes (s : State) (seg o n : Nat) : List ByteReach := (List.range n).map fun i => s.reachByte seg (o + i)

/-- What an access meets after translation; `walk`: it waits for the host's walk of a page. -/
inductive Reached where
  | ok (accs : List Acc)
  | trap (e : Exc)
  | lease
  | ats (pasid : BitVec 20) (page : BitVec 40)
  | walk (va : Nat)
  deriving DecidableEq, Repr

/-- Translate every lane of an access, once the host has made the walks that it is to make: protected pages first, then leases (R331, rank 11), then host translations that
are not yet cached (R207). TADDR of a protected page is the lane's virtual address. -/
def State.reachLanes (s : State) (seg n : Nat) (xs : List LaneOff) : Reached :=
  let rs := xs.map fun x => (x, s.reachBytes seg x.off n)
  match (if seg = 1 ∨ seg = 6 then none
    else s.myMissing (xs.flatMap fun x => (List.range n).map fun i => s.grp.segBase seg + x.off + i)) with
  | some va => .walk va
  | none =>
  let prot := (rs.filter fun r => r.2.contains .prot).map fun r => (r.1.lane, s.grp.segBase seg + r.1.off)
  if !prot.isEmpty then .trap (laneExc 8 prot)
  else if rs.any fun r => r.2.contains .lease then .lease
  else
    match (rs.flatMap Prod.snd).findSome? fun b => match b with | .ats p q => some (p, q) | _ => none with
    | some (p, q) => .ats p q
    | none => .ok (rs.map fun r =>
        { lane := r.1.lane, off := r.1.off,
          locs := r.2.filterMap fun b => match b with | .ok p => some p | _ => none, data := [] })

/-- The access waits for the host's translation, which the device requests (R207). -/
def State.askAts (s : State) (pasid : BitVec 20) (page : BitVec 40) : State :=
  if s.out.contains (.ats pasid page) || s.out.contains (.pri pasid page) then s
  else { s with out := s.out ++ [.ats pasid page] }

/-! ### Watchpoints (R339, R356) -/

/-- A read, a write, an access that counts as both, one that does so but reads
nothing yet (R240), or a read that no watchpoint sees. -/
inductive AccKind where | rd | wr | both | buffered | unwatched
  deriving DecidableEq, Repr

/-- A watchpoint of an address kind looks at accesses of this kind. -/
def WpKind.sees (k : WpKind) (a : AccKind) : Bool :=
  match k, a with
  | _, .unwatched => false
  | .key, _ => false
  | .rw, _ => true
  | .rd, .wr => false
  | .wr, .rd => false
  | _, _ => true

/-- The first byte of [va, va + n) that the watchpoint matches. -/
def Watch.hit (w : Watch) (a : AccKind) (va n : Nat) : Option Nat :=
  if w.en && WpKind.sees w.kind a && decide (w.lo.toNat ≤ w.hi.toNat) && decide (w.lo.toNat < va + n)
      && decide (va ≤ w.hi.toNat) then
    some (max va w.lo.toNat)
  else none

/-- The watchpoint matches a key of a table. -/
def Watch.keyHit (w : Watch) (t : BitVec 16) (lo hi : BitVec 64) : Option Nat :=
  if w.en && w.kind == .key && w.table == t && decide (w.lo.toNat ≤ w.hi.toNat) && decide (w.lo.toNat ≤ hi.toNat)
      && decide (lo.toNat ≤ w.hi.toNat) then
    some (max lo.toNat w.lo.toNat)
  else none

/-- Lanes with their matching address or key, and the watchpoints that match any. -/
def hitsOf (ws : List Watch) (m : Watch → Nat → Option Nat) (lanes : List Nat) : List (Nat × Nat) × Nat :=
  let per := lanes.map fun l => (l, ws.map fun w => m w l)
  ((per.filterMap fun p => (p.2.filterMap id).min?.map fun a => (p.1, a)),
   (per.map fun p => (p.2.zipIdx.map fun x => if x.1.isSome then 2 ^ x.2 else 0).foldl (· ||| ·) 0).foldl (· ||| ·) 0)

/-- The outcome of the watchpoint checks. -/
inductive Watched where
  | clear
  | trap (e : Exc)
  /-- A debug watchpoint: lanes and watchpoints hit. -/
  | stop (lanes : Mask) (wps : Nat)
  deriving DecidableEq, Repr

/-- Debug watchpoints before group watchpoints (R356); the group's are not checked under SUPP (R339), the debugger's not
at the resume after their hit (R356). `group`: TMASK is 0, for PUSHM, POPM, CALL, CALLI, RET and LDC. (DEDUCED, log
entry 14) -/
def State.watchWith (s : State) (m : Watch → Nat → Option Nat) (lanes : List Nat) (group : Bool) : Watched :=
  let dw := match s.dbg.find? fun d => d.part == s.grp.place.part with
    | some d => if s.frag.skip then [] else d.dw.toList
    | none => []
  let dh := hitsOf dw m lanes
  if !dh.1.isEmpty then .stop (if group then 0 else maskOf (dh.1.map Prod.fst)) dh.2
  else if s.grp.supp then .clear
  else
    let h := hitsOf s.grp.w.toList m lanes
    if h.1.isEmpty then .clear
    else
      let e := laneExc 24 h.1
      .trap { e with mask := if group then 0 else e.mask, info := BitVec.ofNat 16 h.2 }

/-- Watchpoints on an access of lanes of a translated segment; scratchpad and accumulator memory are not watched. -/
def State.watchAccess (s : State) (k : AccKind) (seg n : Nat) (xs : List LaneOff) (group : Bool) : Watched :=
  if seg = 1 ∨ seg = 2 then .clear
  else
    let base := s.grp.segBase seg
    s.watchWith (fun w i => match xs.find? (·.lane == i) with
      | some x => w.hit k (base + x.off) n
      | none => none) (xs.map LaneOff.lane) group

/-- Watchpoints on the keys of a table operation. -/
def State.watchKeys (s : State) (t : BitVec 16) (xs : List (Nat × BitVec 64 × BitVec 64)) : Watched :=
  s.watchWith (fun w i => match xs.find? (·.1 == i) with
    | some x => w.keyHit t x.2.1 x.2.2
    | none => none) (xs.map Prod.fst) false

/-- A debug watchpoint's hit stops the partition with CAUSE 1; the instruction has not issued (R356, R361). (DEDUCED,
log entry 29) -/
def State.debugStop (s : State) (lanes : Mask) (wps : Nat) : State :=
  let s := (s.traceStop s.grp.place.part 1).runOver
  ({ s with
    latch := s.latch.noDl,
    frag := { s.frag with pc := s.latch.start, skip := true },
    dbg := s.dbg.map fun d =>
      if d.part == s.grp.place.part then
        { d with stopped := true, stepping := false, cause := 1, lanes := lanes, wphit := BitVec.ofNat 4 wps,
                 fslot := s.grp.place.slot.setWidth 5 }
      else d } : State).traceHolds

/-! ### Poison (R210) -/

/-- uncorrectable data, for the lanes that read a poisoned byte; TADDR is the offset of the byte. -/
def State.poisonCheck (s : State) (accs : List Acc) : Option Exc :=
  let bad := accs.filterMap fun a =>
    (a.locs.zipIdx.find? fun p => s.poisoned p.1).map fun p => (a.lane, a.off + p.2)
  if bad.isEmpty then none else some (laneExc 22 bad)

/-! ### The checks of a lane access in order (R331) -/

/-- What checking an access gives: its lanes with their bytes, or the effect that comes first. -/
inductive Checked where
  | ok (accs : List Acc)
  | stop (e : Eff)

/-- Segment, alignment, translation, watchpoints, and poison for what is read (R331). `align` is the width an atomic
access must be aligned to, 1 for others; `group`: a group-wide access, whose TMASK is 0. With no lane there is
nothing to check (R104). (DEDUCED, log entry 14) -/
def State.checkAccess (s : State) (k : AccKind) (seg : Nat) (high : Bool) (allow : List Nat) (align n : Nat)
    (xs : List LaneOff) (group : Bool) : Checked :=
  let trap (e : Exc) : Checked := .stop (.trap { e with mask := if group then 0 else e.mask })
  match segCheck s.grp seg high allow n xs with
  | some e => trap e
  | none =>
    match alignCheck align xs with
    | some e => trap e
    | none =>
      match s.reachLanes seg n xs with
      | .trap e => trap e
      | .lease => .stop .lease
      | .ats p q => .stop (.stall (s.askAts p q))
      | .walk va => .stop (.stall (s.myWalk va))
      | .ok accs =>
        match s.watchAccess k seg n xs group with
        | .trap e => trap e
        | .stop m w => .stop (.stay (s.debugStop m w))
        | .clear =>
          if k = .wr ∨ k = .buffered then .ok accs
          else
            match s.poisonCheck accs with
            | some e => trap e
            | none => .ok accs

/-- The bytes of a record that LAUNCH or SEGLD reads: of every segment but sg0 and sg4, sg7 included, segment limit (R186,
R343). (DEDUCED, log entry 14) -/
def State.checkRecord (s : State) (x : BitVec 64) (n : Nat) : Checked :=
  let o := x.toNat % 2 ^ 52
  if segOf x = 7 then .stop (.trap { code := 7, addr := BitVec.ofNat 64 o, mask := 0, info := 0 })
  else s.checkAccess .unwatched (segOf x) (baseHigh x) [0, 4] 1 n [{ lane := 0, off := o }] true

/-! ### Counters (R11) -/

/-- The value of a counter. -/
def Group.count (g : Group) : Ctr → Nat
  | .ld => g.ld
  | .st => g.st
  | .cp => g.cp
  | .mx => g.mx

/-- Add to a counter. -/
def Group.addCount (g : Group) (c : Ctr) (f : Nat → Nat) : Group :=
  match c with
  | .ld => { g with ld := f g.ld }
  | .st => { g with st := f g.st }
  | .cp => { g with cp := f g.cp }
  | .mx => { g with mx := f g.mx }

/-- The issue must wait for the counter to fall (R11). -/
def State.counterFull (s : State) : Option Ctr → Bool
  | none => false
  | some c => 31 ≤ s.grp.count c

/-! ### Operations in flight -/

/-- A new operation of the issuing group, performed by nothing yet. -/
def State.newOp (s : State) (ctr : Option Ctr) (k : OpKind) : Op :=
  { id := s.nextId, gid := s.grp.id, job := s.grp.job, cu := s.grp.place.part.cu, ctr := ctr, addr := s.latch.start,
    kind := k, act := BitVec.allOnes 32, base := 0, role := s.grp.role, entered := s.nextId, started := false, performed := false, instant := s.fresh, parts := [], resolved := [], records := [],
    buf := [], results := [], cst := 0, deferred := none, bar := none, bytes := 0, src := [], img := [], dst := [],
    spoilt := [], before := [], clobbered := false, hold := false }

/-- The operation reads host memory: its request is non-posted (R372). -/
def OpKind.readsHost : OpKind → Bool
  | .load _ accs _ _ => accs.any fun a => a.locs.any fun p => match p with | .host .. => true | _ => false
  | _ => false

/-- Data bytes that a store sends to the host (R374). -/
def OpKind.hostBytes : OpKind → Nat
  | .store accs _ => ((accs.flatMap Acc.locs).filter fun p => match p with | .host .. => true | _ => false).length
  | _ => 0

/-- The operation sends a request to the host, posted or not, which carries the key index in force (R372). -/
def OpKind.toHost (k : OpKind) : Bool := k.readsHost || k.hostBytes != 0

/-- A link stream that carries a job's requests to the host. (DEDUCED, log entry 49) -/
def Stream.carries (x : Stream) (job : BitVec 32) : Bool :=
  x.job == job && !x.insecure && match x.ref with | .ide _ => true | .tether .. => false

/-- The operation joins those in flight and its counter rises. -/
def State.enqueue (s : State) (o : Op) : State :=
  { s with
    ops := s.ops ++ [o],
    nextId := s.nextId + 1,
    streams := if o.kind.toHost then
        s.streams.map fun x => if x.carries o.job then { x with flight := x.flight ++ [(o.id, x.cur)] } else x
      else s.streams,
    grp := match o.ctr with | some c => s.grp.addCount c (· + 1) | none => s.grp }

/-- A register that an operation will write holds undefined values until a WAIT observes it (R22). `twice`: another operation
owns the register meanwhile, and what is delivered is undefined too. Where an earlier write's latency has not elapsed, `key` chooses
whether its value, `cur`, stays instead of the result (R21). (DEDUCED, log entry 13) -/
def State.pend (s : State) (op : Nat) (c : RegClass) (n : Nat) (twice : Bool) (key : Nat) (cur : VReg × BitVec 64) : State :=
  s.setGrp fun g => { g with pending := g.pending ++
    [{ op := op, cls := c, name := n, source := false, reads := false, clobbered := twice,
       first := if g.firstStays c n s.fresh key then some cur else none }] }

/-- A vector destination of a counted operation: lanes `m` undefined from issue (R22). -/
def State.pendV1 (s : State) (op : Nat) (m : Mask) (n : Reg) : State :=
  let g := s.grp.alloc n
  let cur : VReg := (g.vreg n).getD []
  let r : VReg := (List.range (g.kt + 1)).map fun j => mergeLanes m (compAt cur j) (freeLanes s.fresh (n.toNat * 8 + j))
  let g' : Group := { g with
    v := g.v.set n.toNat (some r) n.isLt, deferredFree := g.deferredFree &&& ~~~(1#32 <<< n.toNat) }
  (s.grp.readFrom n.toNat).foldl (fun t d => t.loseResult s.grp.id d)
    (({ s with grp := g'.clobber .vec n.toNat }).pend op .vec n.toNat (s.grp.isPending .vec n.toNat)
      (6000 + n.toNat) (cur, 0))

/-- Vector destinations of a counted operation, each name once. (DEDUCED, log entry 13) -/
def State.pendV (s : State) (op : Nat) (m : Mask) (ns : List Reg) : State :=
  ns.eraseDups.foldl (fun s n => s.pendV1 op m n) s

/-- A scalar destination of a counted operation. -/
def State.pendS (s : State) (op : Nat) (n : Reg) : State :=
  let g := { s.grp with s := s.grp.s.set n.toNat (Config.freeWord s.fresh n.toNat) n.isLt }
  ({ s with grp := g.clobber .scalar n.toNat }).pend op .scalar n.toNat (s.grp.isPending .scalar n.toNat)
    (6100 + n.toNat) ([], s.grp.s[n.toFin])

/-- Lanes `m` of a predicate destination of a counted operation. -/
def State.pendK (s : State) (op : Nat) (n : PReg) (m : Mask) : State :=
  if n = 0 ∨ m = 0 then s
  else
    let bits := (Config.freeWord s.fresh (32 + n.toNat)).setWidth 32
    let g := { s.grp with k := s.grp.k.set n.toNat ((s.grp.k[n.toFin] &&& ~~~m) ||| (bits &&& m)) n.isLt }
    ({ s with grp := g.clobber .pred n.toNat }).pend op .pred n.toNat (s.grp.isPending .pred n.toNat)
      (6200 + n.toNat) ([], s.grp.k[n.toFin].setWidth 64)

/-- Memory bytes an operation touches. -/
def OpKind.locs : OpKind → List Loc
  | .load _ accs _ _ => accs.flatMap Acc.locs
  | .store accs _ | .kvapp accs => accs.flatMap Acc.locs
  | .atomic _ _ _ _ lanes => lanes.flatMap AtomLane.locs
  | .row _ _ _ _ lanes => lanes.flatMap RowLane.locs
  | _ => []

/-- The tables whose order an operation takes a place in. -/
def OpKind.tables : OpKind → List (BitVec 16)
  | .point _ _ d _ => [d.table]
  | .tnext _ _ _ _ lanes => lanes.filterMap Prod.snd
  | .tstat _ _ t => [t]
  | _ => []

/-- Bytes of rows of present keys that a queued table operation would touch at this moment (R267 note 1). (DEDUCED, log entry 16) -/
def State.rowsOf (s : State) (o : Op) : List Loc :=
  match o.kind with
  | .point p _ desc lanes =>
    match s.tableOf o.job desc.table o.gid.l with
    | none => []
    | some t => lanes.flatMap fun x => match t.find x.key with
      | none => []
      | some slot => (if p == .del then s.rowLocs o.gid.l t slot 0 t.rowBytes
          else s.rowLocs o.gid.l t slot (4 * desc.w) (4 * desc.m)).places
  | .tnext cur n _ desc lanes =>
    lanes.flatMap fun x =>
      match x.2.bind fun num => s.tableOf o.job num o.gid.l,
          (s.group? o.gid).bind fun g => g.cursors.find? fun c => c.slot == cur && c.lane == x.1 with
      | some t, some c => (t.scan c n).flatMap fun k => (s.rowLocs o.gid.l t k.2 (4 * desc.w) (4 * desc.m)).places
      | _, _ => []
  | _ => []

/-- Entry size of a remote queue in bytes (R196). -/
def queueEntrySize (c : BitVec 64) : Nat := 16 * 2 ^ (c.toNat / 2 ^ 19 % 8)
/-- Bytes of the slots that a queue has (R196). -/
def queueBytes (c : BitVec 64) : Nat := c.toNat / 2 ^ 9 % 2 ^ 10 * 1024
/-- Entries that the queue's slots hold (R196). -/
def queueCapacity (c : BitVec 64) : Nat := queueBytes c / queueEntrySize c
/-- sg1 offset of the queue's first byte (R196). -/
def queueBase (c : BitVec 64) : Nat := c.toNat % 2 ^ 9 * 1024

/-- The operation is an append to a queue, one of whose slots holds the byte (R235). (DEDUCED, log entry 16) -/
def State.appendsTo (s : State) (o : Op) (p : Loc) : Bool :=
  match o.kind, p with
  | .qapp l blk q _ _ _, .scr l' b x =>
    let c := match s.launch? l with | some y => y.qcfg.getD q 0 | none => 0
    l == l' && blk == b && decide (queueBase c ≤ x ∧ x < queueBase c + queueBytes c)
  | _, _ => false

/-- The tables into which an operation would insert a key at this moment: the row of any free slot may become its own. -/
def State.insertsInto (s : State) (o : Op) : List Table :=
  match o.kind with
  | .point .ins _ desc lanes =>
    match s.tableOf o.job desc.table o.gid.l with
    | some t => if lanes.any fun x => (t.find x.key).isNone then [t] else []
    | none => []
  | _ => []

/-- The virtual addresses of an operation's lanes in translated segments, each with its length. -/
def Op.spans (o : Op) : List (Nat × Nat) :=
  match o.kind with
  | .load _ accs _ _ | .store accs _ => (accs.filter fun a => a.locs.any fun p => match p with | .dev _ => true | _ => false).map fun a =>
      (o.base + a.off, a.locs.length)
  | .atomic _ _ _ _ lanes => (lanes.filter fun x => x.locs.any fun p => match p with | .dev _ => true | _ => false).map fun x =>
      (o.base + x.off, x.locs.length)
  | _ => []

/-- The free slots of a table whose rows an operation touches: those that the addresses of its lanes meet, or that references of
its lanes name. -/
def State.freeRows (s : State) (t : Table) (o : Op) : Bool :=
  (o.job == t.job && o.spans.any fun x => (List.range x.2).any fun i =>
    let va := x.1 + i
    decide (t.rpool ≤ va ∧ va < t.rpool + t.rcap * t.rowBytes) && t.slotFree ((va - t.rpool) / t.rowBytes)) ||
  match o.kind with
  | .row _ _ _ _ lanes => o.job == t.job && lanes.any fun x => refTable x.ref == t.num && t.slotFree (x.ref.toNat / 2 ^ 8 % 2 ^ 40)
  | _ => false

/-- Two operations touch a common byte, or one inserts a key whose row the other may touch (R235, R267 note 1). (DEDUCED, log
entry 16) -/
def State.meets (s : State) (p o : Op) : Bool :=
  let a := p.kind.locs ++ s.rowsOf p
  let b := o.kind.locs ++ s.rowsOf o
  a.any b.contains || a.any (s.appendsTo o) || b.any (s.appendsTo p)
    || (s.insertsInto p).any (s.freeRows · o) || (s.insertsInto o).any (s.freeRows · p)

/-- Scopes from .BLK outward order accesses for other parties (R267: at .LANE and .GRP the group is the only observer).
(DEDUCED, log entry 16) -/
def Scope.orders (c : Scope) : Bool := c != .lane && c != .grp

/-- Scopes wider than .CU (R199). -/
def Scope.widerThanCu (c : Scope) : Bool := Scope.orders c && c != .blk && c != .cu
/-- Scopes .MEM and wider (R271). -/
def Scope.mem (c : Scope) : Bool :=
  match c with | .mem | .host | .peer | .pod | .fab => true | _ => false

/-- Two parties of one device, with their work on CUs `a` and `b`, share an instance of a scope (R256). -/
def Scope.shared (c : Scope) (i j : GroupId) (a b : CuRef) : Bool :=
  match c with
  | .lane | .grp => i == j
  | .blk => i == j || (i.l == j.l && i.blk == j.blk)
  | .cu => a == b
  | .clu => a.die == b.die && a.cluster == b.cluster
  | .die => a.die == b.die
  | .dev | .mem | .host | .peer | .pod | .fab => true

/-- Scopes that every party of the device shares: an ordering at one of them holds for all (R256, R257). -/
def Scope.wide (c : Scope) : Bool := match c with | .lane | .grp | .blk | .cu | .clu | .die => false | _ => true

/-- The scope of an acquire, a reader's or writer's lock access counting as one until it is performed (R243, R260). -/
def OpKind.acquire? : OpKind → Option Scope
  | .load _ _ acq _ => acq
  | .atomic .rd c _ _ _ | .atomic .wr c _ _ _ => some c
  | _ => none

/-- A lock word as it stands lets the access take it, which makes it an acquire (R243). -/
def State.takes (s : State) (k : AtomKind) (x : AtomLane) : Bool :=
  let w := leNat (s.readLocs x.locs)
  match k with
  | .rd => decide (w < 2 ^ 32 - 1)
  | .wr => decide (w < 2 ^ 63 ∧ w % 2 ^ 32 = 0)
  | _ => false

/-- A lock word as it stands lets the access give it up, which makes it a release (R243). -/
def State.givesUp (s : State) (k : AtomKind) (x : AtomLane) : Bool :=
  let w := leNat (s.readLocs x.locs)
  match k with
  | .rdx => decide (0 < w % 2 ^ 32)
  | .wrx => decide (2 ^ 63 ≤ w)
  | _ => false

/-- The scope at which the operation would act as an acquire if it were performed now (R243, R260). -/
def State.acquireScope (s : State) (o : Op) : Option Scope :=
  match o.kind with
  | .atomic k c _ _ lanes => if lanes.any (s.takes k) then some c else none
  | k => k.acquire?

/-- The scope at which the operation would act as a release if it were performed now (R198, R243, R260). -/
def State.releaseScope (s : State) (o : Op) : Option Scope :=
  match o.kind with
  | .store _ rel => rel
  | .atomic k c _ _ lanes => if lanes.any (s.givesUp k) then some c else none
  | .qapp .. => some .clu
  | _ => none

/-- Later accesses of the group wait for this one, whoever looks (R257, R267 row Acq). -/
def State.acquires (s : State) (o : Op) : Bool := (s.acquireScope o).any Scope.wide

/-- This access waits for all earlier ones, whoever looks; only blocks that share its scope see an entry appended to a queue (R198,
R257, R267 column Rel). -/
def State.releases (s : State) (o : Op) : Bool :=
  (s.releaseScope o).any Scope.wide || match o.kind with | .qapp .. => true | _ => false

/-- The wider of two scopes. -/
def Scope.max (a b : Scope) : Scope := if a.code.toNat < b.code.toNat then b else a

/-- The widest scope at which an ordering instruction keeps operation `p` of a group before a later one, `o`, without holding `o`
back for all: a narrow acquire, release or FENCE, or a lock access which would be refused at this moment (R243, R257, R260).
(DEDUCED, log entry 16) -/
def State.keptAt (s : State) (p o : Op) : Option Scope :=
  let cs := p.kind.acquire?.toList ++ (s.releaseScope o).toList
    ++ (s.fences.filter fun f => f.gid == o.gid && decide (p.id < f.before ∧ f.before ≤ o.id)).map FenceMark.scope
  match cs.filter Scope.orders with
  | [] => none
  | c :: t => some (t.foldl Scope.max c)

/-- A window is open: some operation that its accesses went before is still to be performed. -/
def State.isOpen (s : State) (w : Window) : Bool := s.ops.any fun p => w.behind.contains p.id && !p.performed

/-- A party is one that a window closes bytes to: it shares the scope, its group's engine work included (R256, R257). -/
def Window.faces (w : Window) (i : GroupId) (cu : CuRef) : Bool := i != w.gid && Scope.shared w.scope w.gid i w.cu cu

/-- An open window keeps a party's access to these bytes waiting, so that the order which the window's group keeps toward it holds
(R257). (DEDUCED, log entry 16) -/
def State.closedTo (s : State) (i : GroupId) (cu : CuRef) (wr : Bool) (ps : List Loc) : Bool :=
  s.windows.any fun w => w.faces i cu && (wr || w.wr) && ps.any w.locs.contains && s.isOpen w

/-- Asynchronous work of class Cpy (R260). -/
def OpKind.async : OpKind → Bool
  | .copy _ | .mat .. | .drain .. | .query _ | .send .. | .recv .. | .ratom .. | .ared .. => true
  | _ => false

/-- A link operation (R395). -/
def OpKind.link : OpKind → Bool
  | .send .. | .recv .. | .ratom .. | .ared .. => true
  | _ => false

/-- Scopes .PEER and wider. -/
def Scope.far (c : Scope) : Bool := match c with | .peer | .pod | .fab => true | _ => false

/-- A release at .PEER or wider, which waits for earlier link operations (R394). -/
def OpKind.releasesFar : OpKind → Bool
  | .store _ (some c) => Scope.far c
  | .atomic .rdx c _ _ _ | .atomic .wrx c _ _ _ => Scope.far c
  | _ => false

/-- A FENCE of .CU or wider stands between two operations of a group: later engine work comes after what is earlier (R268). -/
def State.fenced (s : State) (p o : Op) : Bool :=
  s.fences.any fun f => f.gid == o.gid && f.scope != .blk && decide (p.id < f.before ∧ f.before ≤ o.id)

/-- An earlier operation of the group that is still to be performed holds back a later one: engine work waits for an acquire of
any scope, since the group shares every one with its engine work, and for what stands before a FENCE of .CU or wider (R102, R218,
R235, R256, R267, R268, R394). -/
def State.holdsBack (s : State) (p o : Op) : Bool :=
  p.gid == o.gid &&
    (if p.kind.link then o.kind.releasesFar
     else !p.performed &&
      (if p.kind.async then false
       else if o.kind.async then (s.acquireScope p).isSome || s.fenced p o
       else s.acquires p || s.releases o
         || p.kind.tables.any o.kind.tables.contains
         || s.meets p o))

/-- The operations issued before one. -/
def opsBefore (ops : List Op) (id : Nat) : List Op := ops.takeWhile fun p => p.id != id

/-- The earlier operations of its group that are still to be performed and that a narrow ordering keeps before this one, each with
the scope (R257). -/
def State.passed (s : State) (o : Op) : List (Scope × Nat) :=
  if o.kind.async then []
  else (opsBefore s.ops o.id).filterMap fun p =>
    if p.gid == o.gid && !p.performed && !p.kind.async then (s.keptAt p o).map fun c => (c, p.id) else none

/-- An operation that writes memory or row bytes. -/
def OpKind.writes : OpKind → Bool
  | .store .. | .kvapp _ | .row true _ _ _ _ | .atomic .. | .qapp .. | .point .ins .. | .point .repl .. | .point .del .. => true
  | _ => false

/-- The bytes that an operation would touch at this moment. -/
def State.touches (s : State) (o : Op) : List Loc := o.kind.locs ++ s.rowsOf o

/-- An operation may not go before the earlier ones that a narrow ordering keeps before it while another party's window waits for an
operation on its bytes: neither order would then hold for the other (R257, R264). (DEDUCED, log entry 16) -/
def State.crosses (s : State) (o : Op) : Bool :=
  s.windows.any fun w => w.faces o.gid o.cu && s.ops.any fun p => w.behind.contains p.id && !p.performed
    && (p.kind.writes || o.kind.writes) && (s.touches p).any (s.touches o).contains

/-- Nothing that comes before it in the group's order is still to be performed, no injector holds it (R364, R365), and no window of
another party is closed to it (R257). -/
def State.mayPerform (s : State) (o : Op) : Bool :=
  !o.hold && !((opsBefore s.ops o.id).any fun p => s.holdsBack p o)
    && (s.windows.isEmpty || (!s.closedTo o.gid o.cu o.kind.writes (s.touches o) && ((s.passed o).isEmpty || !s.crosses o)))

/-- The same of an engine's access to these bytes: windows of other groups keep it waiting too (R257). -/
def State.engineMay (s : State) (o : Op) (wr : Bool) (ps : List Loc) : Bool := s.mayPerform o && !s.closedTo o.gid o.cu wr ps

/-- An operation that is about to be performed goes before earlier ones that a narrow ordering keeps before it: a window opens for
each scope (R257). Those that have closed go. (DEDUCED, log entry 16) -/
def State.opening (s : State) (o : Op) : State :=
  match s.passed o with
  | [] => s
  | xs => { s with windows := (s.windows.filter s.isOpen) ++ ((xs.map Prod.fst).eraseDups.map fun c =>
      ({ gid := o.gid, cu := o.cu, scope := c, locs := s.touches o, wr := o.kind.writes,
         behind := (xs.filter fun x => x.1 == c).map Prod.snd } : Window)) }

/-- Every earlier operation of the issuing group that is not Cpy work has been performed: what FENCE and a barrier
arrival wait for (R244, R260, R365). (DEDUCED, log entry 22) -/
def State.quiet (s : State) : Bool := !(s.ops.any fun p => p.gid == s.grp.id && !p.performed && !p.kind.async)

/-- The lanes that an operation is for: of one whose results are decided, those that were active when it was issued. -/
def Op.lanes (o : Op) : Mask :=
  match o.kind with
  | .load (.vec ..) accs _ _ => maskOf (accs.map Acc.lane)
  | .atomic _ _ _ _ xs | .ratom _ _ _ _ xs => maskOf (xs.map AtomLane.lane)
  | .point _ _ _ xs => maskOf (xs.map KeyLane.lane)
  | .tnext _ _ _ _ xs => maskOf (xs.map Prod.fst)
  | .row _ _ _ _ xs => maskOf (xs.map RowLane.lane)
  | _ => o.act

/-- The injector holds a store of the issuing group: a release or FENCE of the group, whatever its scope, does not issue until it has
left the buffer (R365, R401). -/
def State.holding (s : State) : Bool := s.ops.any fun p => p.gid == s.grp.id && p.hold

/-- Class queues of a CU (R293). -/
inductive QueueClass where | copy | matrix | drain | table | reed | link | none
  deriving DecidableEq, Repr

/-- The queue that an operation enters. -/
def OpKind.queue : OpKind → QueueClass
  | .copy _ => .copy
  | .mat .. => .matrix
  | .drain .. => .drain
  | .point .. | .tnext .. | .tstat .. | .kvapp .. => .table
  | .query _ => .reed
  | .send .. | .recv .. | .ratom .. | .ared .. => .link
  | _ => .none

/-- Depth of a queue. -/
def QueueClass.depth : QueueClass → Nat
  | .copy => 32
  | .matrix | .drain => 8
  | .table => 64
  | .reed | .link => 16
  | .none => 0

/-- Slots of a queue of a CU in use: a slot is freed when its engine starts the operation. -/
def State.queued (s : State) (cu : CuRef) (q : QueueClass) : Nat :=
  (s.ops.filter fun o => o.cu == cu && o.kind.queue == q && !o.started && !o.performed && o.deferred.isNone).length

/-- The queue has no free slot. (DEDUCED, log entry 43) -/
def State.queueFull (s : State) (cu : CuRef) (q : QueueClass) : Bool := decide (q.depth ≤ s.queued cu q)

/-- A link operation of the issuing group has not completed (R394). -/
def State.linksBusy (s : State) : Bool := s.ops.any fun p => p.gid == s.grp.id && p.kind.link

/-- A read of these bytes at issue has to wait: an earlier operation of the issuing group to one of them, an acquire of
it or something before a FENCE is still to be performed, or another party's window is closed to it (R102, R257, R260, R267).
(DEDUCED, log entry 16) -/
def State.busyLocs (s : State) (ps : List Loc) : Bool :=
  (s.ops.any fun p => p.gid == s.grp.id && !p.performed && !p.kind.async
    && ((s.acquireScope p).any Scope.orders || (s.fences.any fun f => f.gid == s.grp.id && decide (p.id < f.before))
      || ps.any fun x => p.kind.locs.contains x || (s.rowsOf p).contains x || s.appendsTo p x))
    || s.closedTo s.grp.id s.grp.place.part.cu false ps

/-- A relaxed store (class St: ST, STR, PUSHM, CALL, CALLI, KVAPP) whose parts, by lane, virtual address and length, meet
the injector's range is held in the die's buffer; none while the buffer lacks an entry for each held part (R260, R364). A
protected job's are not held (R368). (DEDUCED, log entry 51) -/
def State.holdParts (s : State) (o : Op) (xs : List (Nat × Nat × Nat)) : Option Op :=
  let j := s.inj[o.cu.die.toFin]
  let met := if j.en && !s.grp.prot then
      (xs.filter fun x => decide (j.lo.toNat < x.2.1 + x.2.2 ∧ x.2.1 ≤ j.hi.toNat)).map Prod.fst
    else []
  if met.isEmpty then some o
  else
    let used := ((s.ops.filter fun p => p.hold && p.cu.die == o.cu.die).map fun p => p.parts.length).sum
    if used + met.length ≤ 64 then some { o with hold := true, parts := met } else none

/-- The same of a store of `n` bytes a lane by offset in a segment. (DEDUCED, log entry 51) -/
def State.holdStore (s : State) (o : Op) (seg n : Nat) (xs : List LaneOff) : Option Op :=
  s.holdParts o (xs.map fun x => (x.lane, s.grp.segBase seg + x.off, n))

/-- segment limit of an instruction that forms no lane offset: the spec states no TADDR for it, which is free.
(DEDUCED, log entry 14) -/
def State.excLimit (s : State) : Exc := { code := 7, addr := Config.freeWord s.fresh 62, mask := 0, info := 0 }

/-- An engine's access outside the leases: the operation ends where it stands, and the launch with it (R205, R206,
R276). (DEDUCED, log entry 56) -/
def State.violate (s : State) (o : Op) : State :=
  ({ s with ops := s.ops.filter fun p => p.id != o.id } : State).leaseViolation o.gid.l

/-! ### Delivery of results -/

/-- What an operation delivers to a register: its result, or what an earlier write within whose latency it was issued leaves there
(R21). -/
def Group.delivered (g : Group) (op : Nat) (w : RegWrite) : RegWrite :=
  match (g.pending.find? fun p => p.op == op && p.cls == w.cls && p.name == w.name).bind Pend.first with
  | some x => { w with comps := x.1, word := x.2 }
  | none => w

/-- Merge a result into a group's register; where something has made the register undefined meanwhile all of it is (R22).
(DEDUCED, log entry 13) -/
def Group.deliver (g : Group) (n : Nat) (op : Nat) (r : RegWrite) : Group :=
  let w := g.delivered op r
  let spoiled := g.pending.any fun p => p.op == op && p.cls == w.cls && p.name == w.name && p.clobbered
  match w.cls with
  | .vec =>
    if h : w.name < 32 then
      match g.v[w.name] with
      | none => g
      | some cur =>
        let r : VReg := (List.range (g.kt + 1)).map fun j =>
          if spoiled then freeLanes n (w.name * 8 + j) else mergeLanes w.mask (compAt cur j) (compAt w.comps j)
        { g with v := g.v.set w.name (some r) h }
    else g
  | .scalar =>
    if h : w.name < 32 then
      { g with s := g.s.set w.name (if spoiled then Config.freeWord n w.name else w.word) h }
    else g
  | .pred =>
    if h : w.name < 8 then
      if w.name = 0 then g
      else
        let x := if spoiled then (Config.freeWord n (32 + w.name)).setWidth 32
          else (g.k[w.name] &&& ~~~w.mask) ||| (w.word.setWidth 32 &&& w.mask)
        { g with k := g.k.set w.name x h }
    else g

/-- A WAIT observes the completed operations of these counters: their results become defined (R22, R96), and what the group
reads from now on may depend on them (R266). (DEDUCED, log entry 13; DEDUCED, log entry 18) -/
def Group.observe (g : Group) (n : Nat) (cs : List Ctr) : Group :=
  let now := g.done.filter fun d => cs.contains d.ctr
  let g := now.foldl (fun g d => d.writes.foldl (fun g w => g.deliver n d.op w) g) g
  { g with
    seen := (now.map Done.instant).foldl max g.seen,
    done := g.done.filter fun d => !cs.contains d.ctr,
    pending := g.pending.filter fun p => !(now.any fun d => d.op == p.op) }

/-- The partition of a group is stopped by debug: results are held as pending writes (R353), but for a group that a cancel
has stopped. -/
def State.heldGroup (s : State) (i : GroupId) : Bool :=
  match s.group? i with
  | some g => !g.ended && s.dbg.any fun d => d.part == g.place.part && d.stopped
  | none => false

/-- Debug has stopped the partition of a group, which is held until a resume, a step that waits included (R351, R354). -/
def State.haltedGroup (s : State) (i : GroupId) : Bool :=
  match s.group? i with
  | some g => s.halts g
  | none => false

/-- Of an operation that reads vector sources, the bytes of its block's sg1 that it writes (R281). -/
def Op.writesBytes (o : Op) : List Nat :=
  match o.kind, o.img.head? with | .query _, some r => (List.range r.2.2).map (r.2.1 + ·) | _, _ => []
/-- Of an operation that reads vector sources, the tile that it writes (R281). -/
def Op.writesTile (o : Op) : Option Nat := match o.kind with | .mat (.amscl ..) t _ => some t | _ => none

/-- The operation completes: it leaves, its counter falls, reserved registers it has read return, and its results wait for
the WAIT that observes them. -/
def State.finishOp (s : State) (o : Op) : State :=
  let s := { s with ops := s.ops.filter fun p => p.id != o.id }
  match o.ctr with
  | none => s
  | some c =>
    s.updGroup o.gid fun g =>
      let g := (g.addCount c (· - 1)).hasRead o.id
      let fab := match o.kind with | .ared .. => true | _ => false
      if o.results.isEmpty && !(g.pending.any fun p => p.op == o.id) && !fab then g
      else { g with done := g.done ++
        [{ op := o.id, ctr := c, instant := if o.kind.async then s.fresh else o.instant, writes := o.results, wrote := o.writesBytes,
           tile := o.writesTile, fab := fab, bar := o.bar.map BarRef.code }] }

/-- Replace an operation. -/
def State.setOp (s : State) (o : Op) : State := { s with ops := s.ops.map fun p => if p.id == o.id then o else p }

/-- The operation has taken its effect on memory: it completes now, or its register results are held as a pending write
while debug holds the partition (R353). -/
def State.completeOp (s : State) (o : Op) : State :=
  if s.heldGroup o.gid && !o.results.isEmpty then
    let s := s.setOp { o with performed := true }
    match s.group? o.gid with
    | some g => { s with dbg := s.dbg.map fun d =>
        if d.part == g.place.part then { d with pendings := d.pendings ++ [o.id] } else d }
    | none => s
  else s.finishOp o

/-! ### Effects on memory that other parties see -/

/-- Device lines that places touch. -/
def linesOf (ps : List Loc) : List Nat :=
  (ps.filterMap fun p => match p with | .dev a => some (a / 128) | _ => none).eraseDups

/-- Change every group, in focus or not. -/
def State.mapGroups (s : State) (f : Group → Group) : State := { s with grp := f s.grp, groups := s.groups.map f }

/-- A write of these lines by party `by_` aborts other groups' transactions that track one (R230). -/
def State.conflictLines (s : State) (by_ : Option GroupId) (lines : List Nat) : State :=
  if lines.isEmpty then s
  else s.mapGroups fun g =>
    match g.tx with
    | some t => if some g.id != by_ && t.cause == 0 && t.lines.any lines.contains then g.doom 1 else g
    | none => g

/-- The number lies in one of the ranges (start, length). -/
def inRanges (rs : List (Nat × Nat)) (x : Nat) : Bool := rs.any fun r => decide (r.1 ≤ x ∧ x < r.1 + r.2)

/-- An addition to sg1, one indivisible update: lane accesses fall before or after it (R269). -/
def OpKind.addsToScratch : OpKind → Bool
  | .drain true _ _ true _ _ _ _ => true
  | _ => false

/-- The operation, not yet complete, writes this byte (R268, R269). -/
def Op.writesTo (o : Op) (p : Loc) : Bool :=
  if o.kind.addsToScratch then false else
  match p with
  | .scr l b x => o.gid.l == l && o.img.any fun r => r.1 == b && inRanges [r.2] x
  | .dev a => inRanges o.dst a
  | .host .. => false

/-- The operation, not yet complete, reads this byte of its block's scratchpad (R269, R303). -/
def Op.readsFrom (o : Op) (p : Loc) : Bool :=
  match p with
  | .scr l b x => o.gid.l == l && o.gid.blk == b && inRanges o.src x
  | _ => false

/-- A write of these bytes, about to be made, leaves undefined what an incomplete operation of an engine writes to them, where a
lane makes it (R268), and what it computes from them, whoever makes it, once `reads` says that it may read (R269, R303). `old`
gives what they hold. (DEDUCED, log entry 40) -/
def Op.spoil (o : Op) (lane reads : Bool) (old : Loc → Byte) (ps : List Loc) : Op :=
  let dst := if lane then ps.filter o.writesTo else []
  let src := if reads then ps.filter o.readsFrom else []
  if dst.isEmpty && src.isEmpty then o
  else { o with
    spoilt := o.spoilt ++ dst ++ src, clobbered := o.clobbered || !src.isEmpty,
    before := o.before ++ (src.filter fun p => !o.before.any fun x => x.1 == p).map fun p => (p, old p) }

/-- The operation may have begun to read when party `w` writes: an entry whose start condition does not hold has not, and its start,
an acquire, makes it see what is written before the condition holds (R294, R303); nor has one that waits for an acquire of its
group, which makes it see what other groups write before (R267 note 4, R329). (DEDUCED, log entry 40) -/
def State.mayRead (s : State) (w : Option GroupId) (o : Op) : Bool :=
  match o.deferred with
  | some c => s.startHolds c
  | none => w == some o.gid || !((opsBefore s.ops o.id).any fun p => s.holdsBack p o)

/-- Bytes of sg1 that are written anew are no engine's result any more (R281). -/
def Group.rewritten (ps : List Loc) (g : Group) : Group :=
  if g.done.any fun d => !d.wrote.isEmpty then
    { g with done := g.done.map fun d => { d with wrote := d.wrote.filter fun x => !ps.contains (.scr g.id.l g.id.blk x) } }
  else g

/-- A tile of a block that is made anew is no engine's result any more (R281). -/
def Group.retiled (l blk t : Nat) (g : Group) : Group :=
  if g.id.l == l && g.id.blk == blk && g.done.any (·.tile == some t) then
    { g with done := g.done.map fun d => if d.tile == some t then { d with tile := none } else d }
  else g

/-- The spoiling of every operation but `except_` by a write of party `w`, of a lane or not. -/
def State.spoil (s : State) (lane : Bool) (w : Option GroupId) (except_ : Option Nat) (ps : List Loc) : State :=
  let s := s.mapGroups (Group.rewritten ps)
  if s.ops.any fun o => some o.id != except_ && (o.src.length != 0 || o.img.length != 0 || o.dst.length != 0) then
    { s with ops := s.ops.map fun o => if some o.id == except_ then o else o.spoil lane (s.mayRead w o) s.readLoc ps }
  else s

/-- Bytes written by lanes: memory, L1 of their CU, poison, transactions that track the lines, and operations of engines on the
bytes; the versions of slots are left to the operation. -/
def State.writeBy (s : State) (by_ : Option GroupId) (cu : Option CuRef) (ps : List Loc) (vs : List Byte) : State :=
  ((s.spoil true by_ none ps).putBytes by_ cu ps vs).conflictLines by_ (linesOf ps)

/-- Bytes written by a party other than a lane, operation `op` of an engine if it is one: as `writeBy` (R259, R268). -/
def State.placeBy (s : State) (op : Option Nat) (by_ : Option GroupId) (cu : Option CuRef) (ps : List Loc) (vs : List Byte) :
    State :=
  ((s.spoil false by_ op ps).putBytes by_ cu ps vs).conflictLines by_ (linesOf ps)

/-- One operation writes these bytes, and the versions of the slots it writes to advance (R194). -/
def State.storeBy (s : State) (by_ : Option GroupId) (cu : CuRef) (ps : List Loc) (vs : List Byte) : State :=
  (s.writeBy by_ (some cu) ps vs).advanceSlots ps

/-- A byte as a lane reads it: undefined while an engine is writing it (R268, R269). `i` numbers it in this occurrence. -/
def State.laneByte (s : State) (i : Nat) (p : Loc) : Byte :=
  if s.ops.any fun q => q.writesTo p then Config.freeByte s.fresh i else s.readLoc p

/-- Bytes as a lane reads them. -/
def State.laneBytes (s : State) (i : Nat) (ps : List Loc) : List Byte := ps.zipIdx.map fun p => s.laneByte (i + p.2) p.1

/-- A stalled fragment may look again whether it is still stalled once something has happened (R182), but for one that met a fault
while a handler runs (R334). -/
def Frag.wake (f : Frag) : Frag := if f.st = .stalled ∧ !f.held then { f with again := true } else f
/-- L1 lines that an acquire wider than .CU discards: all but those of sg4 (R199). (DEDUCED, log entry 18) -/
def State.discardL1 (s : State) (cu : CuRef) : State :=
  { s with l1 := s.l1.filter fun x => x.cu != cu || x.const.isSome }

/-- An acquire of a group on a CU: wider than .CU, it discards what the L1 holds (R199); the group's later reads are after it
(R265), and its later releases order what has been released to it (R263). (DEDUCED, log entry 18) -/
def State.acquire (s : State) (i : GroupId) (cu : CuRef) (wide : Bool) : State :=
  let s := (if wide then s.discardL1 cu else s).acquireL2 i
  s.updGroup i fun g => { g with seen := max g.seen s.fresh }

/-- An acquire of a group at a scope that orders accesses (R199, R265, R271). (DEDUCED, log entry 18) -/
def State.acquireAt (s : State) (i : GroupId) (cu : CuRef) (c : Scope) : State :=
  if Scope.orders c then
    let s := s.acquire i cu (Scope.widerThanCu c)
    if Scope.mem c then s.acquireMem i else s
  else s

/-- A WAIT of the issuing group observes the completed operations of these counters; one of an ARED is an acquire at .FAB (R95, R96,
R399). -/
def State.observes (s : State) (cs : List Ctr) : State :=
  let fab := s.grp.done.any fun d => cs.contains d.ctr && d.fab
  let s : State := { s with grp := s.grp.observe s.fresh cs }
  if fab then s.acquireAt s.grp.id s.grp.place.part.cu .fab else s

/-- A group has seen or written these bytes at L2, by an access that does not go through its CU's L1 (R264, R265). (DEDUCED, log
entry 18) -/
def State.seeL2 (s : State) (i : GroupId) (ps : List Loc) : State :=
  let s := s.readL2 i ps
  match s.group? i with | some g => s.dropLines g.place.part.cu ps | none => s

/-- A read at issue has seen these bytes as they are now: what the group's L1 holds of them goes, and accesses whose addresses or whose
issue follow from it come after (R264 to R266). (DEDUCED, log entry 18) -/
def State.readAtIssue (s : State) (ps : List Loc) : State :=
  (s.seeL2 s.grp.id ps).setGrp fun g => { g with seen := max g.seen s.fresh }

/-- Wake the stalled fragments of a group. -/
def Group.wake (g : Group) : Group := { g with frags := g.frags.map Frag.wake }

/-- The shape of an event: the focused group joins the others, the event takes place, stalled fragments look again.
(DESIGN CHOICE, log entry 3) -/
def event (s : State) (f : State → State) : Host.Outcome State Fault Refusal :=
  let s := f { s.unfocus with fresh := s.fresh + 1 }
  .next { s with groups := s.groups.map Group.wake }

end Sys2Proof.Machine
end

