-- ==== Sys2Proof/Machine/Barrier.lean ====
section
/-! DEFINITION. Barriers, REGROUP, roles and quota (R147, R148, R154 to R166). -/

namespace Sys2Proof.Machine

/-! ### Barrier state (R154, R155) -/

/-- Change a barrier's state. -/
def State.updBar (s : State) (r : BarRef) (f : Barrier → Barrier) : State :=
  match r with
  | .block l b n => s.updBlock l b fun x => { x with bars := x.bars.set n.toNat (f x.bars[n.toFin]) n.isLt }
  | .cluster l c n => { s with clusterLaunches := s.clusterLaunches.map fun x =>
      if x.l == l && x.c == c then { x with bars := x.bars.set n.toNat (f x.bars[n.toFin]) n.isLt } else x }
  | .launch l n => s.updLaunch l fun x => { x with lbars := x.lbars.set n.toNat (f x.lbars[n.toFin]) n.isLt }

/-- The barrier an operand names, as the issuing group sees it; an unconfigured one if there is none. -/
def State.barOf (s : State) (code : Nat) : Barrier := ((s.barRef code).bind s.bar?).getD Barrier.none

/-- An acquire of a group at a barrier's scope (R155, R160). -/
def State.acquireBar (s : State) (code : Nat) (g : Group) : State :=
  let s := s.acquire g.id g.place.part.cu (decide (16 ≤ code))
  if g.done.any fun d => d.fab && d.bar == some code then s.acquireAt g.id g.place.part.cu .fab else s

/-! ### The exchange of REGROUP (R163, R164) -/

/-- A group's em: that of its fragments. -/
def Group.em (g : Group) : Mask := orMasks (g.frags.map Frag.em)

/-- The group's REGROUP waits as a recorded wait, while its barrier hang's handler runs (R349), even where that waits at another
barrier: the lanes that it exchanges are those of the em which ERET will restore. (DEDUCED, log entry 27) -/
def Group.regroupsSaved (g : Group) (r : Regrouping) : Bool :=
  let at_ (w : Wait) : Bool := w.regroup && w.addr == r.addr
  g.tmode && g.waitRec.any at_ && !g.wait.any at_

/-- The em that a REGROUP of the group exchanges. -/
def Group.regroupEm (g : Group) (r : Regrouping) : Mask := if g.regroupsSaved r then g.tem else g.em
/-- Set the em that a REGROUP of the group exchanges. -/
def Group.setRegroupEm (g : Group) (r : Regrouping) (m : Mask) : Group :=
  if g.regroupsSaved r then { g with tem := m } else { g with frags := g.frags.map fun f => { f with em := m } }

/-- The key that sets what a group's part of an exchange leaves open apart from its partner's. -/
def Group.exchangeKey (g : Group) : Nat := 2 ^ 14 * (1 + g.id.g)

/-- Where new lanes come from: lanes of the even group (true), then of the odd group (false), ascending. -/
def regroupSources (e o : Mask) : List (Bool × Nat) :=
  ((lanesOf e).map fun l => (true, l)) ++ ((lanesOf o).map fun l => (false, l))

/-- A vector name as the exchange reads it: 0 where it is unmapped; a result within its latency as R21 has it; under DL 1 its
components read as +0 (R129; DEDUCED, log entry 66). -/
def Group.exchangeRead (g : Group) (occ : Nat) (dl : Bool) (n : Reg) : VReg :=
  match g.vreg n with
  | none => []
  | some r => if dl then (g.early occ g.exchangeKey n.toNat r).take 1 else g.early occ g.exchangeKey n.toNat r

/-- A vector name of the group whose REGROUP is `r` after the exchange: its lanes from their sources; under DL 1 its components are
+0 (R129; DEDUCED, log entry 66). -/
def exchangeName (occ : Nat) (r re ro : Regrouping) (e o : Group) (n : Reg) (src : List (Bool × Nat)) (kt : Nat) : VReg :=
  let ve := e.exchangeRead occ re.dl n
  let vo := o.exchangeRead occ ro.dl n
  (List.range (if r.dl then 1 else kt + 1)).map fun j => Vector.ofFn fun l =>
    match src[l.val]? with
    | some (true, x) => (compAt ve j).get x
    | some (false, x) => (compAt vo j).get x
    | none => 0

/-- A predicate after the exchange. -/
def exchangePred (e o : Mask) (src : List (Bool × Nat)) : Mask :=
  laneMask fun l => match src[l]? with
    | some (true, x) => e.getLsbD x
    | some (false, x) => o.getLsbD x
    | none => false

/-- Names of the range that a group which receives `src` holds mapped afterwards. -/
def exchanged (e o : Group) (names : List Reg) (src : List (Bool × Nat)) : List Reg :=
  names.filter fun n => 0 < src.length && (e.mapped n || o.mapped n)

/-- One group after the exchange: lanes from `src`, names of the range, k1 to k7, em (R163). What a latency or a counted
operation of the group leaves open of a register that it writes is open here too (R21, R22). (DEDUCED, log entry 13) -/
def exchangeInto (occ : Nat) (h e o : Group) (r re ro : Regrouping) (names : List Reg) (src : List (Bool × Nat)) : Group :=
  let key := h.exchangeKey
  let on := exchanged e o names src
  let g := { h.setRegroupEm r (BitVec.ofNat 32 (2 ^ src.length - 1)) with opCache := [] }
  let g := (names.filter fun n => !on.contains n).foldl Group.unmap g
  let g := on.foldl (fun (g : Group) n =>
    g.writeV occ key n (BitVec.allOnes 32) (exchangeName occ r re ro e o n src h.kt) 0) g
  (List.range 7).foldl (fun (g : Group) i =>
    let n : PReg := BitVec.ofNat 3 (i + 1)
    g.writeK occ key n (BitVec.allOnes 32)
      (exchangePred (e.earlyK occ e.exchangeKey n) (o.earlyK occ o.exchangeKey n) src) 0) g

/-- The range that the pair exchanges: the names in both ranges. -/
def regroupNames (re ro : Regrouping) : List Reg :=
  let lo := max re.a.toNat ro.a.toNat
  let hi := min re.b.toNat ro.b.toNat
  ((List.range 32).filter fun n => decide (lo ≤ n ∧ n ≤ hi)).map fun n => BitVec.ofNat 5 n

/-- The exchange of a pair, even and odd group with their ranges: the two groups after it, or none when their free
quotas cannot cover the allocations (R163, R164). R148 says that only RQXFER moves quota; where an exchange needs registers
R164, the rule of this instruction, moves it too. (DESIGN CHOICE, log entry 59) -/
def regroupPair (occ : Nat) (e o : Group) (re ro : Regrouping) : Option (Group × Group) :=
  let src := regroupSources (e.regroupEm re) (o.regroupEm ro)
  let names := regroupNames re ro
  let se := src.take 32
  let so := src.drop 32
  let u := e.kt + 1
  let both := 0 < se.length && 0 < so.length
  let needE := if both then (names.filter fun n => !e.mapped n && o.mapped n).length * u else 0
  let needO := if both then (names.filter fun n => !o.mapped n && e.mapped n).length * u else 0
  let freeE := e.quota - e.held
  let freeO := o.quota - o.held
  if freeE + freeO < needE + needO then none
  else
    let toE := needE - freeE
    let toO := needO - freeO
    let passE := if 0 < se.length && so.isEmpty then (names.filter fun n => !e.mapped n && o.mapped n).length * u else 0
    let e' := exchangeInto occ e e o re re ro names se
    let o' := exchangeInto occ o e o ro re ro names so
    some ({ e' with quota := e.quota + toE + passE - toO }, { o' with quota := o.quota + toO - toE - passE })

/-- Engine results of a group from sources that the exchange has written, not yet observed, are undefined (R281). -/
def State.loseResults (s : State) (g : Group) (ns : List Reg) : State :=
  (ns.flatMap fun n => g.readFrom n.toNat).eraseDups.foldl (fun s d => s.loseResult g.id d) s

/-- Raise a fault in a fragment that is not in focus, at the address of the instruction it waits in; its group's entries that are
written back are reloaded first (R137). (DEDUCED, log entry 27) -/
def State.raiseFrag (s : State) (i : GroupId) (entry : Nat) (at_ : VA) (e : Exc) : State :=
  if (s.groups.find? (·.id == i)).any fun g => g.frags.any (·.entry == entry) then
    let l := s.latch
    let t := s.focusOn i entry
    let t := { t.reloadAll 64 with latch := { l with start := at_, here := at_, dl := none } }
    { (t.raise e).unfocus with latch := l.noDl }
  else s

/-- Raise a fault in an unsplit group that is not in focus. -/
def State.raiseIn (s : State) (i : GroupId) (at_ : VA) (e : Exc) : State :=
  match (s.groups.find? (·.id == i)).bind fun g => g.frags.head? with
  | none => s
  | some f => s.raiseFrag i f.entry at_ e

/-- Groups of a block that are not in focus. -/
def State.listed (s : State) (l blk g : Nat) : Option Group := s.groups.find? (·.id == { l := l, blk := blk, g := g })

/-- S(d) of a REGROUP that has completed: 1 if em is non-zero, readable two cycles after the issue (R21, R162). -/
def Group.regroupDone (g : Group) (occ : Nat) (r : Regrouping) : Group :=
  g.writeS occ g.exchangeKey r.d (if g.regroupEm r = 0 then 0 else 1) (r.cycle + 2 - g.cycle)

/-- One group's part of the completed phase of a REGROUP: the even group of a pair settles both (R162 to R164). -/
def State.settleRegroup (s : State) (l blk : Nat) (rs : List Regrouping) (r : Regrouping) : State :=
  let partner := rs.find? fun x => x.g == r.g ^^^ 1
  match partner with
  | none => s.updGroup { l := l, blk := blk, g := r.g } fun g => g.regroupDone s.fresh r
  | some p =>
    if r.g % 2 = 1 then s
    else
      match s.listed l blk r.g, s.listed l blk p.g with
      | some e, some o =>
        match regroupPair s.fresh e o r p with
        | some (e', o') =>
          let ns := regroupNames r p
          let src := regroupSources (e.regroupEm r) (o.regroupEm p)
          let t := (s.loseResults e (exchanged e o ns (src.take 32))).loseResults o (exchanged e o ns (src.drop 32))
          (t.updGroup e.id fun _ => e'.regroupDone s.fresh r).updGroup o.id fun _ => o'.regroupDone s.fresh p
        | none =>
          let clear (g : Group) : Group := { g with wait := none }
          let s' := (s.updGroup e.id clear).updGroup o.id clear
          (s'.raiseIn e.id r.addr (exc 5)).raiseIn o.id p.addr (exc 5)
      | _, _ => s

/-! ### Phases (R156, R160) -/

/-- A group that waited on the barrier goes on (R158). -/
def Group.release (g : Group) : Group :=
  match g.wait with
  | none => g
  | some w => { g with wait := none, frags := g.frags.map fun f => { f with pc := w.next } }

/-- A group waits in BAR.SYNC or after the arrival of REGROUP on this barrier. -/
def Group.waitsOn (g : Group) (r : BarRef) : Bool :=
  match g.wait with
  | some w => BarRef.covers r g && w.code == BarRef.code r
  | none => false

/-- The phase completes (R156): with no group in focus. -/
def State.completePhase (s : State) (r : BarRef) (b : Barrier) : State :=
  let s := s.updBar r fun b => { b with gen := b.gen + 1, arrived := 0, target := 0, bytes := 0, arrivals := [], regroups := [] }
  let s : State := match r with
    | .block l blk _ => b.regroups.foldl (fun (s : State) x => s.settleRegroup l blk b.regroups x) s
    | _ => s
  let s : State := (s.groups.filter fun (g : Group) => g.waitsOn r).foldl (fun (s : State) g => s.acquireBar (BarRef.code r) g) s
  ({ s with groups := s.groups.map fun (g : Group) => (if g.waitsOn r then g.release else g).wake } : State).traceHolds

/-- Test the completion condition (R156). -/
def State.testPhase (s : State) (r : BarRef) : State :=
  match s.bar? r with
  | none => s
  | some b => if b.expected ≠ 0 ∧ b.arrived = b.expected ∧ b.bytes = b.target then s.completePhase r b else s

/-- Change a barrier and test its phase; the group in focus stays in focus. -/
def State.applyBar (s : State) (r : BarRef) (f : Barrier → Barrier) : State :=
  if s.live then ((s.unfocus.updBar r f).testPhase r).focusOn s.grp.id s.frag.entry
  else (s.updBar r f).testPhase r

/-- Bytes that an engine counts in the phase (R156, R280). -/
def State.countBytes (s : State) (r : BarRef) (n : Nat) : State :=
  s.applyBar r fun b => { b with bytes := b.bytes + BitVec.ofNat 32 n }

/-- A wait that an ERET resumes goes on at once if its phase has completed meanwhile (R337, R349). -/
def State.resumeWait (s : State) (w : Wait) : State :=
  if (s.barOf w.code).gen = w.gen then (s.setGrp fun g => { g with wait := some w }).traceHolds
  else { (s.acquireBar w.code s.grp) with frag := { s.frag with pc := w.next } }

/-! ### Barrier instructions (R158, R159) -/

/-- An arrival: the faults of R158, the wait of a release for earlier accesses, and then `k` with the barrier and the state after the
release (R160). -/
def arriveAt (s : State) (code : Nat) (k : State → BarRef → Barrier → Eff) : Eff :=
  if s.inTx then .trap excTx
  else
    match s.barRef code with
    | none => .trap (excBarrier code)
    | some r =>
      let b := s.barOf code
      if b.expected = 0 ∨ s.grp.split? ∨ b.arrivals.contains (s.grp.id.blk, s.grp.id.g) then .trap (excBarrier code)
      else if s.quiet then k (s.releaseL2 s.grp.id false) r b
      else .stall s

/-- The arrival of a group. -/
def Barrier.arrive (b : Barrier) (i : GroupId) : Barrier :=
  { b with arrived := b.arrived + 1, arrivals := b.arrivals ++ [(i.blk, i.g)] }

/-- BAR_ARV (R158). -/
def execBarArv (c : BitVec 5) (d : Reg) (s : State) : Host.Outcome State Fault Refusal :=
  issue s fun s => arriveAt s c.toNat fun s r b =>
    let t := (s.writeS d (b.gen.setWidth 64) 2).goesOn s.latch.next
    .stay (t.applyBar r fun x => x.arrive s.grp.id)

/-- BAR_WT (R158). -/
def execBarWt (c : BitVec 5) (a : Reg) (s : State) : Host.Outcome State Fault Refusal :=
  issue s fun s =>
    if (s.barOf c.toNat).gen = (s.readS a).setWidth 16 then .stay (s.stalled s.latch.start).traceHolds
    else .done (s.acquireBar c.toNat s.grp)

/-- The group waits on a barrier after its arrival: it has issued, and goes on at the next instruction. -/
def State.waitOn (s : State) (w : Wait) : State := s.retire.setGrp fun g => { g with wait := some w }

/-- BAR_SYNC (R158). -/
def execBarSync (c : BitVec 5) (s : State) : Host.Outcome State Fault Refusal :=
  issue s fun s => arriveAt s c.toNat fun s r b =>
    let t := s.waitOn { regroup := false, code := c.toNat, gen := b.gen, addr := s.latch.start, next := s.latch.next,
                        d := 0, a := 0, b := 0 }
    .stay (t.stepDone.applyBar r fun x => x.arrive s.grp.id).traceHolds

/-- BAR_ARM (R158). -/
def execBarArm (c : BitVec 5) (b : Reg) (s : State) : Host.Outcome State Fault Refusal :=
  issue s fun s =>
    let x := s.barOf c.toNat
    match s.barRef c.toNat with
    | none => .trap (excBarrier c.toNat)
    | some r =>
      if x.expected = 0 ∨ 2 ^ 32 - 1 < x.target.toNat + (s.readS b).toNat then .trap (excBarrier c.toNat)
      else
        .stay ((s.goesOn s.latch.next).applyBar r fun y => { y with target := y.target + (s.readS b).setWidth 32 })

/-- BAR_TST (R159). -/
def execBarTst (c : BitVec 5) (d : Reg) (s : State) : Host.Outcome State Fault Refusal :=
  issue s fun s =>
    let b := s.barOf c.toNat
    .done (s.writeS d (BitVec.ofNat 64 (b.expected.toNat * 2 ^ 32 + b.arrived.toNat * 2 ^ 16 + b.gen.toNat)) 2)

/-- REGROUP (R161, R162). -/
def execRegroup (bar : BitVec 4) (d a b : Reg) (s : State) : Host.Outcome State Fault Refusal :=
  issue s fun s =>
    if s.inTx then .trap excTx
    else if s.grp.ld ≠ 0 ∨ s.grp.mx ≠ 0 then .stall s
    else arriveAt s bar.toNat fun s r x =>
      let t := s.waitOn { regroup := true, code := bar.toNat, gen := x.gen, addr := s.latch.start, next := s.latch.next,
                          d := d, a := a, b := b }
      let x : Regrouping :=
        { g := s.grp.id.g, addr := s.latch.start, cycle := s.grp.cycle, d := d, a := a, b := b, dl := s.dlConst }
      .stay (t.stepDone.applyBar r fun y => { y.arrive s.grp.id with regroups := y.regroups ++ [x] }).traceHolds

/-! ### Roles and quota (R165, R166) -/

/-- RQGET (R165). -/
def execRqget (d : Reg) (s : State) : Host.Outcome State Fault Refusal :=
  issue s fun s => .done (s.writeS d (BitVec.ofNat 64 (s.grp.held * 2 ^ 16 + s.grp.quota)) 2)

/-- ROLESET (R165); the trace records the change (R361). -/
def execRoleset (a : Reg) (s : State) : Host.Outcome State Fault Refusal :=
  issue s fun s =>
    let r := (s.readS a).toNat
    if 4 < r then .trap (exc 10)
    else .done ((s.setGrp fun g => { g with role := r }).traceRecord (some s.grp.job) 7 s.grp.place.part.cu.die.toNat
      (leBytes 8 s.grp.id.g ++ leBytes 8 r))

/-- ROLEGET (R165). -/
def execRoleget (d : Reg) (s : State) : Host.Outcome State Fault Refusal :=
  issue s fun s => .done (s.writeS d (BitVec.ofNat 64 s.grp.role) 2)

/-- RQXFER (R166): the first condition that fails, in the order 3, 1, 2, gives the code. -/
def execRqxfer (d a b : Reg) (s : State) : Host.Outcome State Fault Refusal :=
  issue s fun s =>
    let i := (s.readS a).toNat
    let n := (s.readS b).toNat
    let g := s.grp
    let to_ := s.groups.find? fun x => x.id == { g.id with g := i }
    let give (x : Group) : Eff :=
      if x.ended then .done (s.writeS d 3 2)
      else if x.place.part != g.place.part then .done (s.writeS d 1 2)
      else if g.quota - g.held < n then .done (s.writeS d 2 2)
      else
        let t := (s.writeS d 0 2).setGrp fun g => { g with quota := g.quota - n }
        .done { t with groups := t.groups.map fun y => if y.id == x.id then { y with quota := y.quota + n }.wake else y }
    if g.ngrp ≤ i ∨ i = g.id.g then .done (s.writeS d 3 2)
    else match to_ with
      | none => .done (s.writeS d 3 2)
      | some x => give x

end Sys2Proof.Machine
end

