-- ==== Sys2Proof/Machine/Control.lean ====
section
/-! DEFINITION. Control flow, divergence and joins, WAIT, the spill stack and the DL prefix (R90 to R101, R128, R129,
R134 to R140, R153). -/

namespace Sys2Proof.Machine

/-! ### Branches -/

/-- Go to a target that has passed R24, or take what its check gives. -/
def branchTo (s : State) (t : VA) (raw : BitVec 64) (ok : Eff) : Eff :=
  match s.checkTarget t with
  | .ok => ok
  | .bad => .trap (excTarget raw)
  | .lease => .lease
  | .wait => .stall (s.myWalk (bundleBase t))

/-! ### Divergence (R135) -/

/-- The taken fragment joins the rotation list behind the fall-through, which goes on with its run if that does not end with
the BRA (R182); if its target is its split's join address it arrives at once (R139). -/
def State.addTaken (s : State) (f : Frag) : State :=
  let f := { f with rot := s.nextRot + 1 }
  let s := { s with nextRot := s.nextRot + 2, frag := { s.frag with rot := s.nextRot }, latch := { s.latch with split := true } }
  match s.grp.joins f with
  | none => s.setGrp fun g => { g with frags := g.frags ++ [f] }
  | some x => s.setGrp fun g =>
      { (g.updSplit x.entry fun y => { y with arrived := y.arrived + 1 }) with
        frags := g.frags ++ [{ f with st := .atJoin }] }

/-- A divergent BRA: `tk` are the lanes that take it (R135); a split that gains a sibling is first reloaded (R137). -/
def diverge (s : State) (target : VA) (tk : Mask) : Eff :=
  let sibling (s : State) : Option Split :=
    s.frag.split.bind fun e => s.grp.splits.find? fun x => x.entry == e && x.join == s.frag.jr
  let s := if (sibling s).isSome then s.reloadAll 64 else s
  let f := s.frag
  let tooDeep : Exc := { code := 4, addr := target.setWidth 64, mask := tk, info := 0 }
  let fall (e : Nat) (sp : Option Nat) : Frag :=
    { f with lanes := f.lanes &&& ~~~tk, em := f.em &&& ~~~tk, entry := e, split := sp }
  let taken (e : Nat) (sp : Option Nat) : Frag :=
    { f with pc := target, lanes := tk, em := tk, entry := e, split := sp, st := .ready, run := 0, skip := false }
  if s.grp.tmode ∧ s.grp.handler = some f.entry then .trap tooDeep
  else
    match sibling s with
    | some x =>
      let s := s.makeRoom 1 64
      let e := s.tableFree.headD 0
      let s := s.setGrp fun g => g.updSplit x.entry fun y => { y with members := y.members + 1 }
      let s := { s with frag := fall f.entry f.split }
      .done (s.addTaken (taken e f.split))
    | none =>
      if 8 ≤ s.grp.depthOf f then .trap tooDeep
      else
        let s := s.makeRoom (if f.entry = noEntry then 3 else 2) 64
        let fr := s.tableFree
        let es := fr.getD 0 0
        let ef := if f.entry = noEntry then fr.getD 1 0 else f.entry
        let et := if f.entry = noEntry then fr.getD 2 0 else fr.getD 1 0
        let x : Split := { entry := es, lanes := f.lanes, join := f.jr, fmt := f.fmt, depth := s.grp.depthOf f + 1,
                           parent := f.split, members := 2, arrived := 0, written := false }
        let s := s.setGrp fun g => { g with
          splits := g.splits ++ [x], handler := g.handler.map fun h => if h = f.entry then ef else h }
        let s := { s with frag := fall ef (some es) }
        .done (s.addTaken (taken et (some es)))

/-- BRA (R90): taken, not taken, or divergent; its target is checked in every case (R24). -/
def execBra (g : PReg) (o : BitVec 22) (s : State) : Host.Outcome State Fault Refusal :=
  issue s fun s =>
    let t := branchTarget s.latch.here o
    let e := s.frag.em
    let tk := e &&& s.readK g
    branchTo s t (t.setWidth 64)
      (if tk = e then .jump t s else if tk = 0 then .done s else diverge s t tk)

/-- BRI (R92). -/
def execBri (a : Reg) (s : State) : Host.Outcome State Fault Refusal :=
  issue s fun s =>
    let t := (s.readS a).setWidth 52
    branchTo s t (t.setWidth 64) (.jump t s)

/-- JOIN (R138, R153). -/
def execJoin (o : BitVec 22) (s : State) : Host.Outcome State Fault Refusal :=
  issue s fun s =>
    let t := branchTarget s.latch.here o
    branchTo s t (t.setWidth 64) (.done { s with frag := { s.frag with jr := t } })

/-! ### END (R93, R140) -/

/-- A split loses a member that has ended; a split without members ends as a member of its parent; a split all of whose
members wait at the join fuses (R140). -/
def endMember : Nat → Group → List Frag → Nat → Group × List Frag
  | 0, g, fs, _ => (g, fs)
  | n + 1, g, fs, e =>
    match g.splits.find? (·.entry == e) with
    | none => (g, fs)
    | some x =>
      if x.members ≤ 1 then
        let g := { g with splits := g.splits.filter fun y => y.entry != e }
        match x.parent with
        | none => (g, fs)
        | some p => endMember n g fs p
      else
        let g := g.updSplit e fun y => { y with members := y.members - 1 }
        let (g, fs) := tryFuse g fs e
        if g.splits.any (·.entry == e) then (g, fs)
        else
          match fs.getLast? with
          | none => (g, fs)
          | some k => arriveJoin 9 g fs.dropLast k

/-- A group ends with its last fragment: an open transaction aborts with cause 5, its cursors close and its watchpoints
end (R93, R227, R223, R339). -/
def Group.finishGroup (g : Group) : Group :=
  { g with
    ended := true, frags := [], splits := [], cursors := [], unmapped := false, w := Vector.replicate 4 Watch.off,
    txCause := match g.tx with | some t => if t.cause = 0 then 5 else t.cause | none => g.txCause,
    tx := none }

/-- The bit of a group in its block's set of ended groups. -/
def Block.groupEnded (b : Block) (g : Nat) : Block := { b with endedGroups := b.endedGroups ||| (1#32 <<< g) }

/-- END after it has retired: the issuing fragment is gone. -/
def State.endFragment (s : State) : State :=
  if s.grp.frags.isEmpty then
    let s := s.updBlock s.grp.id.l s.grp.id.blk fun b => b.groupEnded s.grp.id.g
    { s with live := false, groups := s.grp.finishGroup :: s.groups }
  else
    let s := s.reloadAll 64
    let (g, fs) := match s.frag.split with
      | some e => endMember 10 s.grp s.grp.frags e
      | none => (s.grp, s.grp.frags)
    s.refocus { g with frags := [] } fs s.frag.entry

/-- END (R93, R140). -/
def execEndFrag (s : State) : Host.Outcome State Fault Refusal :=
  issue s fun s => .stay s.retire.stepDone.endFragment

/-! ### NOP, YIELD, DL -/

/-- NOP (R94). -/
def execNop (s : State) : Host.Outcome State Fault Refusal := issue s .done

/-- YIELD (R94): the run ends, whatever the slot code. -/
def execYield (s : State) : Host.Outcome State Fault Refusal :=
  issue s fun s => .done { s with latch := { s.latch with code := 3 } }

/-- DL (R27, R128): the prefix of the next instruction of the bundle; before another DL it is an illegal encoding at the
first. -/
def execDl (mode : Bool) (s : State) : Host.Outcome State Fault Refusal :=
  if s.live then
    if s.latch.dl.isSome then finish s (.trap excIllegal)
    else .next { s with latch := { s.latch with dl := some mode } }
  else .fault .noFragment

/-- ILLEGAL_ENCODING (R29 to R38): the instruction reached is not one. -/
def execIllegalEncoding (s : State) : Host.Outcome State Fault Refusal :=
  if s.live then finish s (.trap excIllegal) else .fault .noFragment

/-- BUNDLE_MALFORMED (R19): TADDR is the bundle's address. -/
def execBundleMalformed (s : State) : Host.Outcome State Fault Refusal :=
  if s.live then
    finish s (.trap { code := 2, addr := BitVec.ofNat 64 (bundleBase s.latch.here), mask := 0, info := 0 })
  else .fault .noFragment

/-! ### WAIT (R95) -/

/-- The live terms of a WAIT. -/
def liveTerms (mx cp st ld : BitVec 5) : List (Ctr × Nat) :=
  [(Ctr.ld, ld.toNat), (.st, st.toNat), (.cp, cp.toNat), (.mx, mx.toNat)].filter fun t => decide (t.2 < 31)

/-- The terms that hold. -/
def Group.holdTerms (g : Group) (ts : List (Ctr × Nat)) : List (Ctr × Nat) := ts.filter fun t => decide (g.count t.1 ≤ t.2)

/-- WAIT (R95). -/
def execWait (mx cp st ld : BitVec 5) (s : State) : Host.Outcome State Fault Refusal :=
  issue s fun s =>
    let ts := liveTerms mx cp st ld
    if (s.grp.holdTerms ts).length = ts.length then .done (s.observes (ts.map Prod.fst))
    else .stall s

/-- WAIT_ANY (R95). -/
def execWaitAny (mx cp st ld : BitVec 5) (s : State) : Host.Outcome State Fault Refusal :=
  issue s fun s =>
    let ts := liveTerms mx cp st ld
    let hs := s.grp.holdTerms ts
    if ts.isEmpty ∨ !hs.isEmpty then .done (s.observes (hs.map Prod.fst)) else .stall s

/-! ### The spill stack -/

/-- spill overflow: TADDR is sp (R330). -/
def excSpill (s : State) : Exc := { code := 6, addr := s.grp.sp, mask := 0, info := 0 }

/-- Check a group-wide access to `n` bytes of sg3 at offset `o`; a record that lies above the limit, for SPSET or SEGLD has
changed one of them, is a segment limit. (DESIGN CHOICE, log entry 58) -/
def State.checkSpill (s : State) (k : AccKind) (o n : Nat) : Checked :=
  s.checkAccess k 3 false [3] 1 n [{ lane := 0, off := o }] true

/-- Store to sg3: the operation it starts, or the stall of a full counter or buffer. -/
def State.spillStore (s : State) (ctr : Option Ctr) (accs : List Acc) (o : Nat) (bytes : List Byte) : Option State :=
  let op := { s.newOp ctr (.store (accs.map fun a => { a with data := bytes }) none) with base := s.grp.segBase 3 }
  if s.counterFull ctr then none
  else (s.holdStore op 3 bytes.length [{ lane := 0, off := o }]).map s.enqueue

/-- CALL and CALLI (R91). -/
def callTo (s : State) (t : VA) : Eff :=
  if s.inTx then .trap excTx
  else
    branchTo s t (t.setWidth 64)
      (let sp := s.grp.sp.toNat
       if s.grp.limit 3 < sp + 16 then .trap (excSpill s)
       else
         match s.checkSpill .wr sp 16 with
         | .stop e => e
         | .ok accs =>
           match s.spillStore none accs sp (leBytes 8 s.latch.next.toNat ++ leBytes 8 0) with
           | none => .stall s
           | some s => .jump t (s.setGrp fun g => { g with sp := g.sp + 16 }))

/-- CALL (R91). -/
def execCall (o : BitVec 22) (s : State) : Host.Outcome State Fault Refusal :=
  issue s fun s => callTo s (branchTarget s.latch.here o)

/-- CALLI (R91). -/
def execCalli (a : Reg) (s : State) : Host.Outcome State Fault Refusal :=
  issue s fun s => callTo s ((s.readS a).setWidth 52)

/-- RET (R91): it waits for earlier accesses of the group to the record, reads the return address and goes there; of its 8
bytes only the low 52 bits are an address. Bytes that an engine is writing are undefined (R268). (DESIGN CHOICE, log entry 57) -/
def execRet (s : State) : Host.Outcome State Fault Refusal :=
  issue s fun s =>
    let sp := s.grp.sp.toNat
    if s.inTx then .trap excTx
    else if sp < 16 then .trap (excSpill s)
    else
      match s.checkSpill .rd (sp - 16) 8 with
      | .stop e => e
      | .ok accs =>
        let ps := accs.flatMap Acc.locs
        if s.busyLocs ps then .stall s
        else
          let raw := BitVec.ofNat 64 (leNat (s.laneBytes 0 ps))
          let t := raw.setWidth 52
          branchTo s t raw (.jump t ((s.readAtIssue ps).setGrp fun g => { g with sp := g.sp - 16 }))

/-- Names d to d + c. -/
def nameRange (d c : BitVec 5) : List Reg := (List.range (c.toNat + 1)).map fun i => BitVec.ofNat 5 (d.toNat + i)

/-- Size of a spill record (R97). -/
def recordSize (scalar : Bool) (n kt : Nat) : Nat :=
  if scalar then (n * 8 + 15) / 16 * 16 else 16 + n * (kt + 1) * 128

/-- The record that PUSHM stores, all components included: it writes no tangents, and a DL 1 before it has no effect (R97, R98, R129).
(DEDUCED, log entry 19) -/
def State.spillRecord (s : State) (scalar : Bool) (ns : List Reg) (d : Reg) : List Byte :=
  let kt := s.grp.kt
  if scalar then
    let body := ns.flatMap fun n => leBytes 8 (s.readS n).toNat
    body ++ List.replicate (recordSize true ns.length kt - body.length) 0
  else
    let bits := (ns.zipIdx.map fun p => if s.grp.mapped p.1 then 2 ^ p.2 else 0).sum
    leBytes 4 bits ++ leBytes 1 d.toNat ++ leBytes 1 ns.length ++ leBytes 1 kt ++ leBytes 1 0 ++ leBytes 8 0
      ++ ns.flatMap fun n => (List.range (kt + 1)).flatMap fun j => lanesBytes (compAt (s.readVAll n) j)

/-- Issue cycles beyond the first (R98). -/
def State.holdIssue (s : State) (n : Nat) : State := s.setGrp fun g => { g with cycle := g.cycle + (n - 1) }

/-- A vector record's header still names this count and K, and the class (R97, R99). -/
def headerFits (bs : List Byte) (n kt : Nat) : Bool :=
  bs.getD 5 0 == BitVec.ofNat 8 n && bs.getD 6 0 == BitVec.ofNat 8 kt && bs.getD 7 0 == 0

/-- A record that PUSHM stores; earlier ones that it covers a byte of are no longer whole (R99). (DEDUCED, log entry 19) -/
def State.noteSpill (s : State) (x : Spilled) : State :=
  { s with spills := (s.spills.filter fun y => !(y.locs.any x.locs.contains)) ++ [x] }

/-- PUSHM (R97, R98). -/
def execPushm (c : BitVec 5) (scalar free : Bool) (d : Reg) (s : State) : Host.Outcome State Fault Refusal :=
  issue s fun s =>
    let ns := nameRange d c
    let size := recordSize scalar ns.length s.grp.kt
    let sp := s.grp.sp.toNat
    if s.inTx then .trap excTx
    else if s.grp.limit 3 < sp + size then .trap (excSpill s)
    else
      match s.checkSpill .wr sp size with
      | .stop e => e
      | .ok accs =>
        match s.spillStore (some .st) accs sp (s.spillRecord scalar ns d) with
        | none => .stall s
        | some t =>
          let t := t.noteSpill { scalar := scalar, count := ns.length, kt := s.grp.kt, locs := accs.flatMap Acc.locs }
          let t := t.setGrp fun g => { g with sp := g.sp + BitVec.ofNat 64 size }
          let t := if free then t.freeNames ns else t
          .done (t.holdIssue ((ns.length * (s.grp.kt + 1) + 1) / 2))

/-- Names of a foreign record's range that its undefined map bits map besides those that are mapped: as many as the quota
has room for, since an undefined value raises no fault (R6, R99). (DEDUCED, log entry 19) -/
def State.popFree (s : State) (ns : List Reg) : List Reg :=
  ns.zipIdx.foldl (fun (on : List Reg) p =>
    if Config.freeBit s.fresh p.2 && s.grp.room (on ++ [p.1]) == .ok && !s.grp.mapped p.1 then on ++ [p.1] else on)
    (ns.filter s.grp.mapped)

/-- POPM of vectors, its record read: it maps `on` and frees `off`; `comp n j` holds their components, which are +0 beyond
the primal under DL 1 (R99, R129). (DEDUCED, log entry 19) -/
def popVectors (s : State) (on off : List Reg) (size : Nat) (comp : Reg → Nat → Lanes) : Eff :=
  let g := off.foldl Group.unmap (s.grp)
  match g.room on with
  | .quota => .trap (exc 5)
  | .stall => .stall s
  | .ok =>
    let t := { s with grp := { g with sp := g.sp - BitVec.ofNat 64 size } }
    let ws := on.map fun n =>
      ({ cls := .vec, name := n.toNat, mask := BitVec.allOnes 32,
         comps := (List.range (s.grp.kt + 1)).map fun j => if s.dlConst && j != 0 then Lanes.splat 0 else comp n j,
         word := 0 } : RegWrite)
    let op := { t.newOp (some .ld) .results with results := ws }
    .done ((t.enqueue op).pendV op.id (BitVec.allOnes 32) on)

/-- POPM (R97, R99): it waits for earlier accesses of the group to the record, which it reads at issue; its results come
with the completion of its operation. Where no PUSHM of the same class, count and K has stored a record there since which no other
covered a byte of it, or the header no longer says so, the values are undefined; else they are what the bytes hold now (R102).
(DEDUCED, log entry 19) -/
def execPopm (c : BitVec 5) (scalar : Bool) (d : Reg) (s : State) : Host.Outcome State Fault Refusal :=
  issue s fun s =>
    let ns := nameRange d c
    let size := recordSize scalar ns.length s.grp.kt
    let sp := s.grp.sp.toNat
    if s.inTx then .trap excTx
    else if sp < size then .trap (excSpill s)
    else
      match s.checkSpill .rd (sp - size) size with
      | .stop e => e
      | .ok accs =>
        let ps := accs.flatMap Acc.locs
        if s.busyLocs ps ∨ s.counterFull (some .ld) then .stall s
        else
          let bs := s.laneBytes 0 ps
          let own := s.spills.contains { scalar := scalar, count := ns.length, kt := s.grp.kt, locs := ps }
            && (scalar || headerFits bs ns.length s.grp.kt)
          let s := s.seeL2 s.grp.id ps
          if scalar then
            let ws := ns.zipIdx.map fun p =>
              ({ cls := .scalar, name := p.1.toNat, mask := 0, comps := [],
                 word := if own then BitVec.ofNat 64 (leNat ((bs.drop (8 * p.2)).take 8))
                   else Config.freeWord s.fresh (64 + p.2) } : RegWrite)
            let op := { s.newOp (some .ld) .results with results := ws }
            let t := s.setGrp fun g => { g with sp := g.sp - BitVec.ofNat 64 size }
            .done (ns.foldl (fun t n => t.pendS op.id n) (t.enqueue op))
          else if own then
            let bits := leNat (bs.take 4)
            let at_ (n : Reg) : Nat := (n - d).toNat
            popVectors s (ns.filter fun n => bits.testBit (at_ n)) (ns.filter fun n => !bits.testBit (at_ n)) size fun n j =>
              lanesOfBytes ((bs.drop (16 + 128 * ((s.grp.kt + 1) * at_ n + j))).take 128)
          else popVectors s (s.popFree ns) [] size fun n j => freeLanes s.fresh (512 + n.toNat * 8 + j)

/-- SPGET (R100). -/
def execSpget (d : Reg) (s : State) : Host.Outcome State Fault Refusal :=
  issue s fun s => .done (s.writeS d s.grp.sp 2)

/-- SPSET (R100). -/
def execSpset (a : Reg) (s : State) : Host.Outcome State Fault Refusal :=
  issue s fun s => .done (s.setGrp fun g => { g with sp := s.readS a &&& ~~~0xF#64 })

end Sys2Proof.Machine
end

