-- ==== Sys2Proof/Machine/Float.lean ====
section
/-! DEFINITION. Number formats, exact values, rounding and the functions of 03_number_formats.md (R52 to R76). -/

namespace Sys2Proof.Machine

/-! ### Exact values -/

/-- A value: NaN, an infinity, or (-1)^neg × m × 2^e exactly. A value that no such triple states exactly (a quotient, a
root, a transcendental) is held with far more bits than any format has and an odd last bit that stands for the rest, so
that every rounding of R64 gives what the real number gives (DEDUCED, log entry 10). -/
inductive Num where
  | nan
  | inf (neg : Bool)
  | fin (neg : Bool) (m : Nat) (e : Int)
  deriving DecidableEq, Repr

namespace Num

/-- The zero of a sign. -/
def zero (neg : Bool) : Num := .fin neg 0 0
/-- A natural number. -/
def ofNat (n : Nat) : Num := .fin false n 0
/-- An integer. -/
def ofInt (i : Int) : Num := .fin (i < 0) i.natAbs 0
/-- Sign inverted. -/
def neg : Num → Num
  | .nan => .nan
  | .inf s => .inf (!s)
  | .fin s m e => .fin (!s) m e
/-- The value is zero. -/
def isZero : Num → Bool
  | .fin _ m _ => m == 0
  | _ => false
/-- The sign. -/
def sign : Num → Bool
  | .nan => false
  | .inf s => s
  | .fin s _ _ => s
/-- Value times 2^n. -/
def scale (n : Int) : Num → Num
  | .fin s m e => .fin s m (e + n)
  | x => x

/-- IEEE product, exact (R65: the sign of a zero is the product's). -/
def mul : Num → Num → Num
  | .nan, _ => .nan
  | _, .nan => .nan
  | .inf s, .inf t => .inf (s != t)
  | .inf s, .fin t m _ => if m = 0 then .nan else .inf (s != t)
  | .fin s m _, .inf t => if m = 0 then .nan else .inf (s != t)
  | .fin s m e, .fin t n f => .fin (s != t) (m * n) (e + f)

/-- Signed sum of two finite values at the smaller exponent. -/
def addFin (s : Bool) (m : Nat) (e : Int) (t : Bool) (n : Nat) (f : Int) : Int × Int :=
  let q := min e f
  let x : Int := (m * 2 ^ (e - q).toNat : Nat)
  let y : Int := (n * 2 ^ (f - q).toNat : Nat)
  ((if s then -x else x) + (if t then -y else y), q)

/-- IEEE sum, exact; `rdn` says that the rounding mode is RDN, which decides the sign of an exact zero (R65). -/
def add (rdn : Bool) : Num → Num → Num
  | .nan, _ => .nan
  | _, .nan => .nan
  | .inf s, .inf t => if s = t then .inf s else .nan
  | .inf s, .fin _ _ _ => .inf s
  | .fin _ _ _, .inf t => .inf t
  | .fin s m e, .fin t n f =>
    if m = 0 ∧ n = 0 then .fin (if s = t then s else rdn) 0 0
    else
      let (z, q) := addFin s m e t n f
      if z = 0 then .fin rdn 0 0 else .fin (z < 0) z.natAbs q

/-- Quotient of naturals with at least 120 significant bits and a sticky last bit. -/
def divNat (m n : Nat) (e : Int) (s : Bool) : Num :=
  let k := 120 + n.log2
  let q := (m * 2 ^ k) / n
  .fin s (2 * q + (if (m * 2 ^ k) % n = 0 then 0 else 1)) (e - k - 1)

/-- IEEE quotient (R125: non-zero by zero is an infinity). -/
def div : Num → Num → Num
  | .nan, _ => .nan
  | _, .nan => .nan
  | .inf _, .inf _ => .nan
  | .inf s, .fin t _ _ => .inf (s != t)
  | .fin s _ _, .inf t => .fin (s != t) 0 0
  | .fin s m e, .fin t n f =>
    if n = 0 then (if m = 0 then .nan else .inf (s != t))
    else divNat m n (e - f) (s != t)

/-- Order of two values that are not NaN. -/
def lt : Num → Num → Bool
  | .nan, _ => false
  | _, .nan => false
  | .inf s, .inf t => s && !t
  | .inf s, .fin _ _ _ => s
  | .fin _ _ _, .inf t => !t
  | .fin s m e, .fin t n f => (addFin s m e (!t) n f).1 < 0
/-- Equality of values that are not NaN. -/
def eqv : Num → Num → Bool
  | .nan, _ => false
  | _, .nan => false
  | .inf s, .inf t => s == t
  | .fin s m e, .fin t n f => (addFin s m e (!t) n f).1 == 0
  | _, _ => false

end Num

/-! ### Formats -/

/-- How a float format lays out its codes (R55 to R59). -/
inductive FKind where
  | ieee
  | small (signed ext : Bool)
  | t3
  | ue8
  deriving DecidableEq, Repr

/-- A float format: bits of a code, precision P, bias (R55, R57 to R59). -/
structure FFmt where
  bits : Nat
  prec : Nat
  bias : Nat
  kind : FKind
  deriving DecidableEq, Repr

/-- binary32. -/
def f32 : FFmt := { bits := 32, prec := 24, bias := 127, kind := .ieee }
/-- binary16. -/
def f16 : FFmt := { bits := 16, prec := 11, bias := 15, kind := .ieee }
/-- bfloat16. -/
def bf16 : FFmt := { bits := 16, prec := 8, bias := 127, kind := .ieee }
/-- A signed narrow code of K bits and precision P (R57). -/
def smallFmt (k p : Nat) (signed ext : Bool) : FFmt :=
  let w := if signed then k - p else 9 - p
  { bits := k, prec := p, bias := 2 ^ (w - 1), kind := .small signed ext }

/-- The float format of a code (R52, R53). -/
def floatFmt (c : BitVec 6) : Option FFmt :=
  match c.toNat with
  | 0x08 => some f32
  | 0x09 => some f16
  | 0x0A => some bf16
  | 0x0B => some { bits := 8, prec := 1, bias := 127, kind := .ue8 }
  | 0x0C => some (smallFmt 6 2 true false)
  | 0x0D => some (smallFmt 6 3 true false)
  | 0x0E => some (smallFmt 4 1 true false)
  | 0x0F => some (smallFmt 4 2 true false)
  | 0x10 => some { bits := 2, prec := 1, bias := 0, kind := .t3 }
  | n =>
    if 0x20 ≤ n ∧ n ≤ 0x3B then some (smallFmt 8 (n / 4 % 8 + 1) (n / 2 % 2 = 0) (n % 2 = 1)) else none

/-- An integer format: width and signedness (R52, R54). -/
def intFmt (c : BitVec 6) : Option (Nat × Bool) :=
  match c.toNat with
  | 0 => some (8, true) | 1 => some (16, true) | 2 => some (32, true) | 3 => some (64, true)
  | 4 => some (8, false) | 5 => some (16, false) | 6 => some (32, false) | 7 => some (64, false)
  | _ => none

/-- Trailing field width T = P − 1. -/
def FFmt.t (f : FFmt) : Nat := f.prec - 1
/-- Exponent of the subnormal spacing: 1 − bias − T. -/
def FFmt.emin (f : FFmt) : Int := 1 - (f.bias : Int) - f.t
/-- The format has a sign bit. -/
def FFmt.signed (f : FFmt) : Bool := match f.kind with | .ieee => true | .small s _ => s | .t3 => true | .ue8 => false
/-- Largest finite magnitude code (R55 to R57). -/
def FFmt.maxMag (f : FFmt) : Nat :=
  match f.kind with
  | .ieee => 2 ^ (f.bits - 1) - 1 - 2 ^ f.t
  | .small true ext => 2 ^ (f.bits - 1) - 1 - (if ext then 1 else 0)
  | .small false ext => 2 ^ f.bits - 2 - (if ext then 1 else 0)
  | .t3 => 1
  | .ue8 => 0xFE
/-- Canonical NaN (R56). -/
def FFmt.qnan (f : FFmt) : Nat :=
  match f.kind with
  | .ieee => 2 ^ (f.bits - 1) - 2 ^ f.t + 2 ^ (f.t - 1)
  | .small true _ => 2 ^ (f.bits - 1)
  | .small false _ => 0xFF
  | .t3 => 2
  | .ue8 => 0xFF
/-- The infinity of a sign, if the format has it (R56). -/
def FFmt.infCode (f : FFmt) (neg : Bool) : Option Nat :=
  match f.kind with
  | .ieee => some (2 ^ (f.bits - 1) - 2 ^ f.t + (if neg then 2 ^ (f.bits - 1) else 0))
  | .small true true => some (2 ^ (f.bits - 1) - 1 + (if neg then 2 ^ (f.bits - 1) else 0))
  | .small false true => if neg then none else some 0xFE
  | _ => none

/-- The value of a magnitude code (R55, R57). -/
def FFmt.magVal (f : FFmt) (neg : Bool) (mag : Nat) : Num :=
  let e := mag / 2 ^ f.t
  let t := mag % 2 ^ f.t
  if e = 0 then .fin neg t f.emin else .fin neg (2 ^ f.t + t) (f.emin + (e - 1 : Nat))

/-- val(c, F) for a float format (R55 to R59, R76). -/
def FFmt.val (f : FFmt) (c : Nat) : Num :=
  let c := c % 2 ^ f.bits
  match f.kind with
  | .ieee =>
    let neg := 2 ^ (f.bits - 1) ≤ c
    let mag := c % 2 ^ (f.bits - 1)
    let infMag := 2 ^ (f.bits - 1) - 2 ^ f.t
    if mag = infMag then .inf neg else if infMag < mag then .nan else f.magVal neg mag
  | .small true ext =>
    let neg := 2 ^ (f.bits - 1) ≤ c
    let mag := c % 2 ^ (f.bits - 1)
    if c = 2 ^ (f.bits - 1) then .nan
    else if ext ∧ mag = 2 ^ (f.bits - 1) - 1 then .inf neg
    else f.magVal neg mag
  | .small false ext =>
    if c = 0xFF then .nan else if ext ∧ c = 0xFE then .inf false else f.magVal false c
  | .t3 => match c with | 0 => .zero false | 1 => .fin false 1 0 | 3 => .fin true 1 0 | _ => .nan
  | .ue8 => if c = 0xFF then .nan else .fin false 1 ((c : Int) - 127)

/-! ### Rounding -/

/-- Rounding modes (R64). -/
inductive RM where | rne | rtz | rdn | rup | sr
  deriving DecidableEq, Repr

/-- The mode of a 3-bit code; 5 to 7 are read as RNE (R64). -/
def RM.ofCode (c : BitVec 3) : RM :=
  match c.toNat with | 1 => .rtz | 2 => .rdn | 3 => .rup | 4 => .sr | _ => .rne

/-- One draw (R66): the new seed and the 24-bit number. -/
def srDraw (seed : BitVec 32) : BitVec 32 × Nat :=
  let s := if seed = 0 then 1 else seed
  let s := s ^^^ (s <<< 13)
  let s := s ^^^ (s >>> 17)
  let s := s ^^^ (s <<< 5)
  (s, s.toNat / 2 ^ 8)

/-- A draw under SR, none under any other mode (R68). -/
def draw (rm : RM) (seed : BitVec 32) : BitVec 32 × Nat := if rm = .sr then srDraw seed else (seed, 0)

/-- Magnitude m × 2^e rounded to a multiple of 2^q (R64, R65, R67); `tieUp` is the precision-1 tie rule, `u` the
draw. (DEDUCED, log entry 10) -/
def roundAt (tieUp : Bool) (rm : RM) (neg : Bool) (m : Nat) (e q : Int) (u : Nat) : Nat :=
  if q ≤ e then m * 2 ^ (e - q).toNat
  else
    let sh := (q - e).toNat
    let a := m / 2 ^ sh
    let r := m % 2 ^ sh
    let up : Bool := match rm with
      | .rne => 2 ^ sh < 2 * r || (2 * r == 2 ^ sh && (tieUp || a % 2 == 1))
      | .rtz => false
      | .rdn => neg && r != 0
      | .rup => !neg && r != 0
      | .sr => 2 ^ 24 ≤ r * 2 ^ 24 / 2 ^ sh + u
    if up then a + 1 else a

/-- Exponent of the last place for a magnitude m × 2^e, m > 0: precision `p`, at least `emin` (R65). -/
def ulpExp (p : Nat) (emin : Int) (m : Nat) (e : Int) : Int := max emin (e + m.log2 - (p - 1 : Nat))

/-- Magnitude code of a × 2^q, where q ≥ emin and a < 2^P + 1; may exceed the format's largest (R65). -/
def FFmt.magCode (f : FFmt) (a : Nat) (q : Int) : Nat :=
  let (a, q) := if a = 2 ^ f.prec then (2 ^ f.t, q + 1) else (a, q)
  if a < 2 ^ f.t then a else ((q - f.emin).toNat + 1) * 2 ^ f.t + (a - 2 ^ f.t)

/-- The unbounded result as a magnitude code (R65, R67). -/
def FFmt.roundMag (f : FFmt) (rm : RM) (neg : Bool) (m : Nat) (e : Int) (u : Nat) : Nat :=
  let q := ulpExp f.prec f.emin m e
  f.magCode (roundAt (f.prec == 1) rm neg m e q u) q

/-- Sign and magnitude as a code of the format; an unsigned zero where the format has no −0 (R65). -/
def FFmt.signed' (f : FFmt) (neg : Bool) (mag : Nat) : Nat :=
  match f.kind with
  | .ieee => mag + (if neg then 2 ^ (f.bits - 1) else 0)
  | _ => if mag = 0 then 0 else mag + (if neg then 2 ^ (f.bits - 1) else 0)

/-- roundf(x, F, mode) for F32, F16, BF16 with IEEE overflow (R65, R70, R76), the draw `u` given. -/
def FFmt.roundf (f : FFmt) (rm : RM) (u : Nat) : Num → Nat
  | .nan => f.qnan
  | .inf s => (f.infCode s).getD f.qnan
  | .fin s m e =>
    if m = 0 then f.signed' s 0
    else
      let mag := f.roundMag rm s m e u
      if mag ≤ f.maxMag then f.signed' s mag
      else match rm with
        | .rtz => f.signed' s f.maxMag
        | .rdn => if s then (f.infCode s).getD 0 else f.signed' s f.maxMag
        | .rup => if s then f.signed' s f.maxMag else (f.infCode s).getD 0
        | _ => (f.infCode s).getD 0

/-- round(x, mode) to binary32 (R76). -/
def round32 (rm : RM) (u : Nat) (x : Num) : BitVec 32 := BitVec.ofNat 32 (f32.roundf rm u x)
/-- The value of a binary32 code. -/
def val32 (x : BitVec 32) : Num := f32.val x.toNat

/-- narrow(x, F, mode) with SAT (R69, R76). -/
def FFmt.narrow (f : FFmt) (sat : Bool) (rm : RM) (u : Nat) (x : Num) : Nat :=
  match f.kind with
  | .ue8 =>
    match x with
    | .nan => 0xFF
    | .inf s => if s then 0xFF else if sat then 0xFE else 0xFF
    | .fin s m e =>
      if m = 0 ∨ s then 0xFF
      else
        let q := e + m.log2
        let a := roundAt true rm false m e q u
        let q := if a = 2 then q + 1 else q
        if q < -127 then 0 else if q ≤ 127 then (q + 127).toNat else if sat then 0xFE else 0xFF
  | .t3 =>
    match x with
    | .nan => 2
    | .inf s => if sat then (if s then 3 else 1) else 2
    | .fin s m e =>
      let a := roundAt false rm s m e 0 u
      if a = 0 then 0 else if a = 1 ∨ sat then (if s then 3 else 1) else 2
  | _ =>
    match x with
    | .nan => f.qnan
    | .inf s =>
      if s ∧ !f.signed then (if sat then 0 else f.qnan)
      else match f.infCode s with
        | some c => c
        | none => if sat then f.signed' s f.maxMag else f.qnan
    | .fin s m e =>
      if m = 0 then f.signed' s 0
      else
        let mag := f.roundMag rm s m e u
        if s ∧ !f.signed then (if mag = 0 then 0 else if sat then 0 else f.qnan)
        else if mag ≤ f.maxMag then f.signed' s mag
        else if sat then f.signed' s f.maxMag
        else (f.infCode s).getD f.qnan

/-- The integer nearest x by the mode. -/
def roundInt (rm : RM) (u : Nat) (s : Bool) (m : Nat) (e : Int) : Int :=
  let a : Int := roundAt false rm s m e 0 u
  if s then -a else a

/-- toint(x, F, mode) as a w-bit code (R71). -/
def toInt (w : Nat) (signed : Bool) (rm : RM) (u : Nat) : Num → Nat
  | .nan => 0
  | .inf s => clamp (if s then -(2 : Int) ^ 200 else (2 : Int) ^ 200)
  | .fin s m e => clamp (roundInt rm u s m e)
where
  /-- Clamped to the destination's range. -/
  clamp (i : Int) : Nat :=
    let lo : Int := if signed then -(2 : Int) ^ (w - 1) else 0
    let hi : Int := if signed then (2 : Int) ^ (w - 1) - 1 else (2 : Int) ^ w - 1
    ((max lo (min hi i)) % (2 : Int) ^ w).toNat

/-- The value of a w-bit integer code (R54). -/
def intVal (w : Nat) (signed : Bool) (c : Nat) : Num :=
  let c := c % 2 ^ w
  Num.ofInt (if signed ∧ 2 ^ (w - 1) ≤ c then (c : Int) - (2 : Int) ^ w else c)

/-! ### Binary64 for the reference algorithms (R73) -/

/-- binary64. -/
def f64 : FFmt := { bits := 64, prec := 53, bias := 1023, kind := .ieee }
/-- round64 (R76). -/
def round64 (x : Num) : Num := f64.val (f64.roundf .rne 0 x)
/-- Binary64 sum. -/
def add64 (x y : Num) : Num := round64 (x.add false y)
/-- Binary64 difference. -/
def sub64 (x y : Num) : Num := round64 (x.add false y.neg)
/-- Binary64 product. -/
def mul64 (x y : Num) : Num := round64 (x.mul y)
/-- Binary64 quotient. -/
def div64 (x y : Num) : Num := round64 (x.div y)
/-- round64 of the rational 1/n, negated if asked. -/
def recip64 (neg : Bool) (n : Nat) : Num := round64 (Num.divNat 1 n 0 neg)

/-- Bits after the point of the constants below. -/
def constBits : Nat := 600
/-- floor(π × 2^600). -/
def piBits : Nat := 0x3243f6a8885a308d313198a2e03707344a4093822299f31d0082efa98ec4e6c89452821e638d01377be5466cf34e90c6cc0ac29b7c97c50dd3f84d5b5b54709179216d5d98979fb1bd1310b
/-- floor(ln 2 × 2^600). -/
def ln2Bits : Nat := 0xb17217f7d1cf79abc9e3b39803f2f6af40f343267298b62d8a0d175b8baafa2be7b876206debac98559552fb4afa1b10ed2eae35c138214427573b291169b8253e96ca16224ae8c51acbda

/-- The integer nearest to i / n, n > 0; never a tie where it is used (R73). -/
def nearestDiv (i : Int) (n : Nat) : Int := (2 * i + n) / (2 * (n : Int))

/-- Nearest integer to x × a / b (a, b real constants with the given bits over 2^600) and x − n × c. -/
def reduceBy (c : Nat) (neg : Bool) (m : Nat) (e : Int) : Int × Num :=
  -- x = ±m × 2^e scaled by 2^(600 + 200)
  let x : Int := if 0 ≤ e + 800 then (m * 2 ^ (e + 800).toNat : Nat) else (m / 2 ^ (-(e + 800)).toNat : Nat)
  let x := if neg then -x else x
  let cc : Nat := c * 2 ^ 200
  let n := nearestDiv x cc
  let r := x - n * cc
  (n, .fin (r < 0) (2 * r.natAbs + (if n = 0 then 0 else 1)) (-801))

/-- Horner sum S of ref_sincos (R73). -/
def sinPoly (rho z : Num) : Num :=
  let s5 := recip64 true 39916800
  let s4 := recip64 false 362880
  let s3 := recip64 true 5040
  let s2 := recip64 false 120
  let s1 := recip64 true 6
  let p := add64 s4 (mul64 z s5)
  let p := add64 s3 (mul64 z p)
  let p := add64 s2 (mul64 z p)
  let p := add64 s1 (mul64 z p)
  add64 rho (mul64 rho (mul64 z p))

/-- Horner sum C of ref_sincos (R73). -/
def cosPoly (z : Num) : Num :=
  let c6 := recip64 false 479001600
  let c5 := recip64 true 3628800
  let c4 := recip64 false 40320
  let c3 := recip64 true 720
  let c2 := recip64 false 24
  let c1 := recip64 true 2
  let p := add64 c5 (mul64 z c6)
  let p := add64 c4 (mul64 z p)
  let p := add64 c3 (mul64 z p)
  let p := add64 c2 (mul64 z p)
  let p := add64 c1 (mul64 z p)
  add64 (Num.ofNat 1) (mul64 z p)

/-- FSIN (want = true) and FCOS by the reference algorithm (R73). (DEDUCED, log entry 10) -/
def refSinCos (want : Bool) (x : BitVec 32) : BitVec 32 :=
  match val32 x with
  | .nan => 0x7FC00000
  | .inf _ => 0x7FC00000
  | .fin s m e =>
    if m = 0 then (if want then x else 0x3F800000)
    else
      let (n, r) := reduceBy (piBits / 2) s m e
      let rho := round64 r
      let z := mul64 rho rho
      let sp := sinPoly rho z
      let cp := cosPoly z
      let t := match want, (n % 4).toNat with
        | true, 0 => sp | true, 1 => cp | true, 2 => sp.neg | true, _ => cp.neg
        | false, 0 => cp | false, 1 => sp.neg | false, 2 => cp.neg | false, _ => sp
      round32 .rne 0 t

/-- 1/j! in binary64. -/
def expCoef : Nat → Num
  | 0 => Num.ofNat 1 | 1 => Num.ofNat 1 | 2 => recip64 false 2 | 3 => recip64 false 6 | 4 => recip64 false 24
  | 5 => recip64 false 120 | 6 => recip64 false 720 | 7 => recip64 false 5040 | 8 => recip64 false 40320
  | 9 => recip64 false 362880 | 10 => recip64 false 3628800 | 11 => recip64 false 39916800
  | _ => recip64 false 479001600

/-- The Horner loop of ref_tanh from j down to 0 (R73). -/
def expPoly (rho : Num) : Nat → Num → Num
  | 0, p => add64 (expCoef 0) (mul64 rho p)
  | j + 1, p => expPoly rho j (add64 (expCoef (j + 1)) (mul64 rho p))

/-- FTANH by the reference algorithm (R73). (DEDUCED, log entry 10) -/
def refTanh (x : BitVec 32) : BitVec 32 :=
  match val32 x with
  | .nan => 0x7FC00000
  | .inf s => if s then 0xBF800000 else 0x3F800000
  | .fin s m e =>
    if (Num.fin false m e).lt (.fin false 1 (-12)) then x
    else if !(Num.fin false m e).lt (Num.ofNat 9) then (if s then 0xBF800000 else 0x3F800000)
    else
      let (k, r) := reduceBy ln2Bits false m (e + 1)
      let p := expPoly (round64 r) 11 (expCoef 12)
      let ee := p.scale k
      let t := sub64 (Num.ofNat 1) (div64 (Num.ofNat 2) (add64 ee (Num.ofNat 1)))
      round32 .rne 0 (if s then t.neg else t)

/-! ### Correctly rounded functions (R72) -/

/-- Integer square root, bit by bit from bit `i` − 1 down. -/
def isqrtGo (n : Nat) : Nat → Nat → Nat
  | 0, r => r
  | i + 1, r => isqrtGo n i (if (r + 2 ^ i) * (r + 2 ^ i) ≤ n then r + 2 ^ i else r)
/-- Integer square root. -/
def isqrt (n : Nat) : Nat := isqrtGo n (n.log2 / 2 + 1) 0

/-- √x (IEEE squareRoot). (DEDUCED, log entry 10) -/
def sqrtNum : Num → Num
  | .nan => .nan
  | .inf s => if s then .nan else .inf false
  | .fin s m e =>
    if m = 0 then .fin s 0 0
    else if s then .nan
    else
      let k : Nat := 240 + (e % 2).toNat
      let n := m * 2 ^ k
      let r := isqrt n
      .fin false (2 * r + (if r * r = n then 0 else 1)) ((e - k) / 2 - 1)

/-- 1/√x (IEEE rSqrt). -/
def rsqrtNum : Num → Num
  | .nan => .nan
  | .inf s => if s then .nan else .fin false 0 0
  | .fin s m e =>
    if m = 0 then .inf s
    else if s then .nan
    else
      let m' := if e % 2 = 0 then m else 2 * m
      let e' := if e % 2 = 0 then e else e - 1
      let r := isqrt (2 ^ 400 / m')
      .fin false (2 * r + (if r * r * m' = 2 ^ 400 then 0 else 1)) (-200 - e' / 2 - 1)

/-- Taylor sum of exp(y) at 400 bits: terms j, j + 1, … of value `t` over 2^400. -/
def expTaylor (y : Nat) : Nat → Nat → Nat → Nat → Nat
  | 0, _, _, acc => acc
  | fuel + 1, j, t, acc => expTaylor y fuel (j + 1) (t * y / 2 ^ 400 / (j + 1)) (acc + t)

/-- 2^x (IEEE exp2). (DEDUCED, log entry 10) -/
def exp2Num : Num → Num
  | .nan => .nan
  | .inf s => if s then .fin false 0 0 else .inf false
  | .fin s m e =>
    if m = 0 then Num.ofNat 1
    else if 12 < e + (m.log2 : Int) then .fin false 1 (if s then -5000 else 5000)
    else
      let x : Int := if 0 ≤ e + 400 then (m * 2 ^ (e + 400).toNat : Nat) else (m / 2 ^ (-(e + 400)).toNat : Nat)
      let x := if s then -x else x
      let n := x / (2 : Int) ^ 400
      let f := (x % (2 : Int) ^ 400).toNat
      if f = 0 then .fin false 1 n
      else
        let y := f * (ln2Bits / 2 ^ 200) / 2 ^ 400
        let v := expTaylor y 90 0 (2 ^ 400) 0
        .fin false (2 * (v / 2 ^ 16) + 1) (n - 385)

/-- Sum of y^(2k+1)/(2k+1) at 400 bits. -/
def atanhSum (y2 : Nat) : Nat → Nat → Nat → Nat → Nat
  | 0, _, _, acc => acc
  | fuel + 1, k, t, acc => atanhSum y2 fuel (k + 1) (t * y2 / 2 ^ 400) (acc + t / (2 * k + 1))

/-- log2 x (IEEE log2). (DEDUCED, log entry 10) -/
def log2Num : Num → Num
  | .nan => .nan
  | .inf s => if s then .nan else .inf false
  | .fin s m e =>
    if m = 0 then .inf true
    else if s then .nan
    else
      let p := m.log2
      let n : Int := e + p
      if m = 2 ^ p then Num.ofInt n
      else
        let y := (m - 2 ^ p) * 2 ^ 400 / (m + 2 ^ p)
        let l := 2 * atanhSum (y * y / 2 ^ 400) 140 0 y 0
        let g := l * 2 ^ 400 / (ln2Bits / 2 ^ 200)
        let t : Int := n * (2 : Int) ^ 384 + (g / 2 ^ 16 : Nat)
        if 0 ≤ t then .fin false (2 * t.toNat + 1) (-385)
        else .fin true (2 * (t.natAbs - 1) + 1) (-385)

/-- 1/x. (DEDUCED, log entry 10) -/
def rcpNum (x : Num) : Num := (Num.ofNat 1).div x

/-! ### Minimum, maximum, comparisons of binary32 codes (R111, R115) -/

/-- The code is a NaN. -/
def isNan32 (x : BitVec 32) : Bool := 0x7F800000 < x.toNat % 2 ^ 31
/-- A key that orders binary32 codes that are not NaN, −0 below +0. -/
def orderKey (x : BitVec 32) : Int := if x.getLsbD 31 then -((x.toNat % 2 ^ 31 : Nat) : Int) - 1 else (x.toNat : Int)
/-- Which operand FMIN (max = false) or FMAX returns: none when both are NaN; true for the first source. -/
def pickMinMax (max : Bool) (x y : BitVec 32) : Option Bool :=
  if isNan32 x then (if isNan32 y then none else some false)
  else if isNan32 y then some true
  else if x = y then some true
  else some (if max then orderKey y < orderKey x else orderKey x < orderKey y)
/-- FMIN and FMAX (R111). -/
def minMax (max : Bool) (x y : BitVec 32) : BitVec 32 :=
  match pickMinMax max x y with | none => 0x7FC00000 | some true => x | some false => y
/-- FMAX (R111). -/
def fmax32 (x y : BitVec 32) : BitVec 32 := minMax true x y
/-- FEXP2 rounded by RNE, as XMERGE and the Reed units use it (R318, R328). -/
def fexp2Rne (x : BitVec 32) : BitVec 32 := round32 .rne 0 (exp2Num (val32 x))

end Sys2Proof.Machine
end

