-- ==== Sys2Proof/Machine/FloatInstr.lean ====
section
/-! DEFINITION. Floating-point, conversion, format-register and tangent instructions (R108 to R132, and the 16-bit ops 12
to 15, R26). -/

namespace Sys2Proof.Machine

/-! ### fmt (R108, R109) -/

/-- fmt.SEED. -/
def fmtSeed (f : BitVec 64) : BitVec 32 := f.extractLsb' 32 32
/-- fmt.RM as a mode. -/
def fmtRM (f : BitVec 64) : RM := RM.ofCode (f.extractLsb' 18 3)
/-- fmt.SAT. -/
def fmtSAT (f : BitVec 64) : Bool := f.getLsbD 21
/-- fmt.OF. -/
def fmtOF (f : BitVec 64) : BitVec 6 := f.extractLsb' 12 6
/-- fmt.BF. -/
def fmtBF (f : BitVec 64) : BitVec 6 := f.extractLsb' 6 6
/-- fmt.AF. -/
def fmtAF (f : BitVec 64) : BitVec 6 := f.extractLsb' 0 6
/-- The format that fmt.PH names. -/
def fmtPH (f : BitVec 64) : FFmt := if f.getLsbD 22 then bf16 else f16
/-- fmt with another seed. -/
def fmtWithSeed (f : BitVec 64) (seed : BitVec 32) : BitVec 64 := seed ++ f.setWidth 32
/-- SR read as RNE (R72). -/
def RM.noDraw (r : RM) : RM := if r = .sr then .rne else r

/-! ### Lanes in order, each with its draws (R68) -/

/-- What one lane makes of the seed: the new seed and the components of its result, primal first. -/
abbrev LaneFn := BitVec 32 → BitVec 32 × List (BitVec 32)

/-- The lanes of a list, ascending: the final seed and each lane's components. -/
def runLanes (f : Nat → LaneFn) : List Nat → BitVec 32 → BitVec 32 × List (Nat × List (BitVec 32))
  | [], seed => (seed, [])
  | l :: t, seed =>
    let r := f l seed
    let q := runLanes f t r.1
    (q.1, (l, r.2) :: q.2)

/-- The components of lane results as vectors. -/
def gather (n : Nat) (rs : List (Nat × List (BitVec 32))) : VReg :=
  (List.range n).map fun j => Vector.ofFn fun l =>
    match rs.find? (·.1 == l.val) with | some r => r.2.getD j 0 | none => 0

/-- The components of lane `l` of a value source. -/
def laneComps (r : VReg) (l : Nat) : List (BitVec 32) := r.map fun c => c.get l

/-- How many tangents a result has here: one under DL 0 with K = 0, else K (R124, R130). -/
def State.tangents (s : State) : Nat := if s.dlDual then 1 else s.grp.kt

/-- The shape of a float instruction: value sources, other vector sources, frees, destination, latency and the lanes'
function (R110, R130). Under DL 0 with K = 0 it writes the tangent into the next name, and v31 as a value operand raises
tangent capacity. -/
def floatOp (g : PReg) (vals others frees : List Reg) (d : Reg) (lat : Nat) (f : Nat → LaneFn) (s : State) : Eff :=
  if s.dlDual ∧ (d :: vals).contains 31 then .trap (exc 12)
  else
    let more := if s.dlDual then vals.map (· + 1) else []
    let dsts := if s.dlDual then [d, d + 1] else [d]
    lanewise s g (vals ++ more ++ others) frees dsts fun act t =>
      let r := runLanes f (lanesOf act) (fmtSeed s.frag.fmt)
      let c := gather (s.tangents + 1) r.2
      let t := { t with frag := { t.frag with fmt := fmtWithSeed t.frag.fmt r.1 } }
      if s.dlDual then (t.writeV d act (c.take 1) lat).writeV (d + 1) act (c.drop 1) lat
      else t.writeV d act c lat

/-- A primal, then its tangents in order (R68); under DL 1 the tangents are +0, copied, without a draw (R129). -/
def tangentsFrom (tan : Nat → LaneFn) : List Nat → LaneFn
  | [], seed => (seed, [])
  | j :: t, seed =>
    let r := tan j seed
    let q := tangentsFrom tan t r.1
    (q.1, r.2 ++ q.2)

/-- The whole result of a lane: `prim` and `tan j` each give one component. -/
def dualLane (s : State) (prim : LaneFn) (tan : BitVec 32 → Nat → LaneFn) : LaneFn := fun seed =>
  let r := prim seed
  let x := r.2.headD 0
  if s.dlConst then (r.1, x :: List.replicate s.tangents 0)
  else
    let q := tangentsFrom (tan x) ((List.range s.tangents).map (· + 1)) r.1
    (q.1, x :: q.2)

/-- One component rounded to binary32 by a mode, with its draw (R67, R68). -/
def rounded (rm : RM) (x : Num) : LaneFn := fun seed =>
  let d := draw rm seed
  (d.1, [round32 rm d.2 x])
/-- One component copied, without a draw. -/
def copied (x : BitVec 32) : LaneFn := fun seed => (seed, [x])

/-! ### Tangent terms (R125) -/

/-- A term t × y: exactly zero when the tangent factor is ±0. -/
def tterm (t y : Num) : Num := if t.isZero then Num.zero false else t.mul y
/-- A term t / y. -/
def tquot (t y : Num) : Num := if t.isZero then Num.zero false else t.div y
/-- A sum of terms; an exact zero is +0. -/
def tsum (x y : Num) : Num :=
  let r := x.add false y
  if r.isZero then Num.zero false else r
/-- The exact zero of an expression is +0. -/
def tpos (x : Num) : Num := if x.isZero then Num.zero false else x
/-- ln 2, to 600 bits and a sticky bit. (DEDUCED, log entry 10) -/
def ln2Num : Num := .fin false (2 * ln2Bits + 1) (-601)

/-- Component `j` of a source in a lane, as a binary32 value. -/
def tval (x : List (BitVec 32)) (j : Nat) : Num := val32 (x.getD j 0)

/-! ### Binary32 arithmetic (R111 to R113) -/

/-- Is the mode toward −∞: the sign of an exact zero sum (R65). -/
def RM.down (r : RM) : Bool := r == .rdn

/-- FADD, or FSUB when `sub`, of two lanes. -/
def addLane (s : State) (sub : Bool) (x y : List (BitVec 32)) : LaneFn :=
  let rm := fmtRM s.frag.fmt
  let sg (n : Num) : Num := if sub then n.neg else n
  dualLane s (rounded rm ((tval x 0).add rm.down (sg (tval y 0))))
    fun _ j => rounded rm (tsum (tval x j) (sg (tval y j)))

/-- FMUL of two lanes. -/
def mulLane (s : State) (x y : List (BitVec 32)) : LaneFn :=
  let rm := fmtRM s.frag.fmt
  dualLane s (rounded rm ((tval x 0).mul (tval y 0)))
    fun _ j => rounded rm (tsum (tterm (tval x j) (tval y 0)) (tterm (tval y j) (tval x 0)))

/-- FMIN or FMAX of two lanes: the tangent of the operand returned (R124). -/
def minMaxLane (s : State) (max : Bool) (x y : List (BitVec 32)) : LaneFn :=
  let p := pickMinMax max (x.getD 0 0) (y.getD 0 0)
  let pick (j : Nat) : BitVec 32 := match p with
    | none => 0x7FC00000 | some true => x.getD j 0 | some false => y.getD j 0
  dualLane s (copied (pick 0)) fun _ j => copied (pick j)

/-- FABS of a lane. -/
def absLane (s : State) (x : List (BitVec 32)) : LaneFn :=
  let x0 := x.getD 0 0
  dualLane s (copied (if isNan32 x0 then 0x7FC00000 else x0 &&& 0x7FFFFFFF))
    fun _ j =>
      let t := x.getD j 0
      copied (if isNan32 x0 || isNan32 t then 0x7FC00000 else if x0.getLsbD 31 then t ^^^ 0x80000000 else t)

/-- FNEG of a lane. -/
def negLane (s : State) (x : List (BitVec 32)) : LaneFn :=
  let f (t : BitVec 32) : BitVec 32 := if isNan32 t then 0x7FC00000 else t ^^^ 0x80000000
  dualLane s (copied (f (x.getD 0 0))) fun _ j => copied (f (x.getD j 0))

/-- roundToIntegral of a binary32 code (R112). -/
def roundIntegral (rm : RM) (u : Nat) (x : BitVec 32) : BitVec 32 :=
  match val32 x with
  | .nan => 0x7FC00000
  | .inf _ => x
  | .fin n m e =>
    if m = 0 ∨ 0x4B000000 ≤ x.toNat % 2 ^ 31 then x
    else
      let i := roundInt rm u n m e
      if i = 0 then (if n then 0x80000000 else 0) else round32 .rne 0 (Num.ofInt i)

/-- FRND of a lane: one draw under SR, whatever the value; tangents +0. -/
def rndLane (s : State) (rm : RM) (x : List (BitVec 32)) : LaneFn :=
  dualLane s (fun seed => let d := draw rm seed; (d.1, [roundIntegral rm d.2 (x.getD 0 0)])) fun _ _ => copied 0

/-- FFMA of three lanes. -/
def fmaLane (s : State) (x y z : List (BitVec 32)) : LaneFn :=
  let rm := fmtRM s.frag.fmt
  dualLane s (rounded rm (((tval x 0).mul (tval y 0)).add rm.down (tval z 0)))
    fun _ j => rounded rm
      (tsum (tsum (tterm (tval x j) (tval y 0)) (tterm (tval y j) (tval x 0))) (tval z j))

/-! ### Packed halves (R113, R117) -/

/-- Element e of a packed value in a format. -/
def halfVal (p : FFmt) (x : BitVec 32) (e : Nat) : Num := p.val (x.extractLsb' (16 * e) 16).toNat

/-- Two elements rounded to a 16-bit format, element 0 first. -/
def packed (p : FFmt) (rm : RM) (v : Nat → Num) : LaneFn := fun seed =>
  let d0 := draw rm seed
  let d1 := draw rm d0.1
  (d1.1, [BitVec.ofNat 16 (p.roundf rm d1.2 (v 1)) ++ BitVec.ofNat 16 (p.roundf rm d0.2 (v 0))])

/-- HADD2 of two lanes. -/
def haddLane (s : State) (x y : List (BitVec 32)) : LaneFn :=
  let rm := fmtRM s.frag.fmt
  let p := fmtPH s.frag.fmt
  let v (a : List (BitVec 32)) (j e : Nat) : Num := halfVal p (a.getD j 0) e
  dualLane s (packed p rm fun e => (v x 0 e).add rm.down (v y 0 e)) fun _ j => packed p rm fun e => tsum (v x j e) (v y j e)

/-- HMUL2 of two lanes. -/
def hmulLane (s : State) (x y : List (BitVec 32)) : LaneFn :=
  let rm := fmtRM s.frag.fmt
  let p := fmtPH s.frag.fmt
  let v (a : List (BitVec 32)) (j e : Nat) : Num := halfVal p (a.getD j 0) e
  dualLane s (packed p rm fun e => (v x 0 e).mul (v y 0 e))
    fun _ j => packed p rm fun e => tsum (tterm (v x j e) (v y 0 e)) (tterm (v y j e) (v x 0 e))

/-- HFMA2 of three lanes. -/
def hfmaLane (s : State) (x y z : List (BitVec 32)) : LaneFn :=
  let rm := fmtRM s.frag.fmt
  let p := fmtPH s.frag.fmt
  let v (a : List (BitVec 32)) (j e : Nat) : Num := halfVal p (a.getD j 0) e
  dualLane s (packed p rm fun e => ((v x 0 e).mul (v y 0 e)).add rm.down (v z 0 e))
    fun _ j => packed p rm fun e =>
      tsum (tsum (tterm (v x j e) (v y 0 e)) (tterm (v y j e) (v x 0 e))) (v z j e)

/-! ### FDOT4, FLDEXP, functions (R114, R116, R117) -/

/-- Formats that FDOT4 can use: S8, N8, 6-bit and binary8 (R114). -/
def dotUsable (c : BitVec 6) : Bool :=
  match intFmt c with
  | some (w, _) => w == 8
  | none => match floatFmt c with
    | some f => f.bits == 6 || decide (0x20 ≤ c.toNat ∧ c.toNat ≤ 0x3B)
    | none => false

/-- The value of a code in any format (R54 to R59). -/
def codeVal (c : BitVec 6) (x : Nat) : Num :=
  match intFmt c with
  | some (w, sg) => intVal w sg x
  | none => match floatFmt c with | some f => f.val x | none => Num.zero false

/-- FDOT4 of three lanes (R75, R114). The sign of a total that is exactly zero is that of the IEEE sums of z and the products in
turn, a zero product having the exclusive or of its factors' signs. (DESIGN CHOICE, log entry 60) -/
def dotLane (s : State) (x y : BitVec 32) (z : List (BitVec 32)) : LaneFn :=
  let rm := fmtRM s.frag.fmt
  let af := fmtAF s.frag.fmt
  let bf := fmtBF s.frag.fmt
  if dotUsable af && dotUsable bf then
    let p (i : Nat) : Num := (codeVal af (x.extractLsb' (8 * i) 8).toNat).mul (codeVal bf (y.extractLsb' (8 * i) 8).toNat)
    let t := (List.range 4).foldl (fun acc i => acc.add rm.down (p i)) (tval z 0)
    dualLane s (rounded rm t) fun _ j => rounded rm (tpos (tval z j))
  else dualLane s (copied 0x7FC00000) fun _ _ => copied 0x7FC00000

/-- An exponent clamped to where binary32 results no longer change. (DEDUCED, log entry 11) -/
def clampExp (n : BitVec 32) : Int := max (-4000) (min 4000 n.toInt)

/-- FLDEXP of a lane. (DEDUCED, log entry 11) -/
def ldexpLane (s : State) (x : List (BitVec 32)) (n : BitVec 32) : LaneFn :=
  let rm := fmtRM s.frag.fmt
  dualLane s (rounded rm ((tval x 0).scale (clampExp n))) fun _ j => rounded rm (tpos ((tval x j).scale (clampExp n)))

/-- A correctly rounded function and its tangent expression of the tangent, the argument and the result (R72, R124). -/
def fnLane (s : State) (f : Num → Num) (tan : Num → Num → Num → Num) (x : List (BitVec 32)) : LaneFn :=
  let rm := (fmtRM s.frag.fmt).noDraw
  dualLane s (rounded rm (f (tval x 0))) fun r j => rounded rm (tpos (tan (tval x j) (tval x 0) (val32 r)))

/-- A function of the reference algorithm; its tangent is rounded by RNE (R73, R124). -/
def refLane (s : State) (f : BitVec 32 → BitVec 32) (tan : Num → BitVec 32 → Num → Num) (x : List (BitVec 32)) : LaneFn :=
  dualLane s (copied (f (x.getD 0 0))) fun r j => rounded .rne (tpos (tan (tval x j) (x.getD 0 0) (val32 r)))

/-! ### Conversions and packing (R118, R119, R121) -/

/-- E of R118: the width a format takes in a packed lane; 0 if it cannot be packed. -/
def packWidth (c : BitVec 6) : Nat :=
  match intFmt c with
  | some (w, _) => if w ≤ 16 then w else 0
  | none => match floatFmt c with
    | some f => if f.bits = 6 then 8 else if f.bits = 32 then 0 else f.bits
    | none => 0

/-- A value as a code of any format, by narrow or toint, with its draw (R69, R71). -/
def toCode (c : BitVec 6) (sat : Bool) (rm : RM) (x : Num) (seed : BitVec 32) : BitVec 32 × Nat :=
  let d := draw rm seed
  (d.1, match intFmt c with
    | some (w, sg) => toInt w sg rm d.2 x
    | none => match floatFmt c with | some f => f.narrow sat rm d.2 x | none => 0)

/-- PACK of a lane (R118). -/
def packLane (s : State) (old x y : BitVec 32) : LaneFn := fun seed =>
  let f := fmtOF s.frag.fmt
  let e := packWidth f
  if e = 0 then (seed, [0])
  else
    let c0 := toCode f (fmtSAT s.frag.fmt) (fmtRM s.frag.fmt) (val32 x) seed
    let c1 := toCode f (fmtSAT s.frag.fmt) (fmtRM s.frag.fmt) (val32 y) c0.1
    (c1.1, [(old <<< (2 * e)) ||| BitVec.ofNat 32 (c1.2 * 2 ^ e) ||| BitVec.ofNat 32 c0.2])

/-- UNPK of a lane (R119). -/
def unpkLane (s : State) (i : Nat) (x : BitVec 32) : BitVec 32 :=
  let f := fmtAF s.frag.fmt
  let e := packWidth f
  if e = 0 then 0 else round32 .rne 0 (codeVal f (x.toNat / 2 ^ (e * (i % (32 / e))) % 2 ^ e))

/-- The source code of a conversion: the low bits of the lane, or the pair (R121). -/
def convSrc (src : BitVec 6) (lo hi : BitVec 32) : Nat := if fmt64 src then (hi ++ lo).toNat else lo.toNat

/-- A code as it is written: signed integers are extended, others stand in the low bits (R121). -/
def convDst (dst : BitVec 6) (c : Nat) : BitVec 64 :=
  match intFmt dst with
  | some (w, true) => BitVec.ofInt 64 (if 2 ^ (w - 1) ≤ c % 2 ^ w then ((c % 2 ^ w : Nat) : Int) - (2 : Int) ^ w else (c % 2 ^ w : Nat))
  | _ => BitVec.ofNat 64 c

/-- A value converted, with its draw (R121). -/
def convertTo (s : State) (dst : BitVec 6) (v : Num) (seed : BitVec 32) : BitVec 32 × BitVec 64 :=
  let r := toCode dst (fmtSAT s.frag.fmt) (fmtRM s.frag.fmt) v seed
  (r.1, convDst dst r.2)

/-- A conversion of one code (R121). -/
def convert (s : State) (dst src : BitVec 6) (c : Nat) (seed : BitVec 32) : BitVec 32 × BitVec 64 :=
  convertTo s dst (codeVal src c) seed

/-- FCVT of a lane: its tangents are converted alike, and one that is exactly zero is +0 (R124, R125). -/
def fcvtLane (s : State) (dst src : BitVec 6) (x : List (BitVec 32)) : LaneFn :=
  let one (f : Num → Num) (j : Nat) : LaneFn := fun seed =>
    let r := convertTo s dst (f (codeVal src (x.getD j 0).toNat)) seed
    (r.1, [r.2.setWidth 32])
  dualLane s (one id 0) fun _ j => one tpos j

/-! ### Shapes -/

/-- One value source. -/
def flt1 (g : PReg) (m : Marks1) (d a : Reg) (lat : Nat) (f : State → List (BitVec 32) → LaneFn) (s : State) : Eff :=
  let x := s.readDual a
  floatOp g [a] [] (freed1 m a) d lat (fun l => f s (laneComps x l)) s

/-- Two value sources. -/
def flt2 (g : PReg) (m : Marks2) (d a b : Reg) (f : State → List (BitVec 32) → List (BitVec 32) → LaneFn) (s : State) :
    Eff :=
  let x := s.readDual a
  let y := s.readDual b
  floatOp g [a, b] [] (freed2 m a b) d 4 (fun l => f s (laneComps x l) (laneComps y l)) s

/-- Three value sources, without marks. -/
def flt3 (g : PReg) (d a b c : Reg)
    (f : State → List (BitVec 32) → List (BitVec 32) → List (BitVec 32) → LaneFn) (s : State) : Eff :=
  let x := s.readDual a
  let y := s.readDual b
  let z := s.readDual c
  floatOp g [a, b, c] [] [] d 4 (fun l => f s (laneComps x l) (laneComps y l) (laneComps z l)) s

/-- A 16-bit form (R26). -/
def fshort (d b : Reg) (f : State → List (BitVec 32) → List (BitVec 32) → LaneFn) (s : State) : Eff :=
  flt2 0 { ub := false, ua := false, lb := false, la := false } d d b f s

/-- The set of results that a float instruction without tangents writes: lanes' results in order, tangents 0. -/
def plainFloat (s : State) (g : PReg) (srcs frees : List Reg) (d : Reg) (f : Nat → LaneFn) : Eff :=
  lanewise s g srcs frees [d] fun act t =>
    let r := runLanes f (lanesOf act) (fmtSeed s.frag.fmt)
    let t := { t with frag := { t.frag with fmt := fmtWithSeed t.frag.fmt r.1 } }
    t.writeV d act (plain s (compAt (gather 1 r.2) 0)) 4

/-- A condition on binary32 values (R115). -/
def fcond (c : FCond) (x y : Num) : Bool :=
  let un := (match x with | .nan => true | _ => false) || (match y with | .nan => true | _ => false)
  match c with
  | .eq => x.eqv y
  | .ne => !x.eqv y
  | .lt => x.lt y
  | .le => x.lt y || x.eqv y
  | .gt => y.lt x
  | .ge => y.lt x || x.eqv y
  | .un => un
  | .ord => !un

/-! ### Instructions -/

/-- FADD (R111). -/
def execFadd (g : PReg) (m : Marks2) (d a b : Reg) (s : State) : Host.Outcome State Fault Refusal :=
  issueDual s (flt2 g m d a b fun s => addLane s false)

/-- FSUB (R111). -/
def execFsub (g : PReg) (m : Marks2) (d a b : Reg) (s : State) : Host.Outcome State Fault Refusal :=
  issueDual s (flt2 g m d a b fun s => addLane s true)

/-- FMUL (R111). -/
def execFmul (g : PReg) (m : Marks2) (d a b : Reg) (s : State) : Host.Outcome State Fault Refusal :=
  issueDual s (flt2 g m d a b mulLane)

/-- FMIN (R111). -/
def execFmin (g : PReg) (m : Marks2) (d a b : Reg) (s : State) : Host.Outcome State Fault Refusal :=
  issueDual s (flt2 g m d a b fun s => minMaxLane s false)

/-- FMAX (R111). -/
def execFmax (g : PReg) (m : Marks2) (d a b : Reg) (s : State) : Host.Outcome State Fault Refusal :=
  issueDual s (flt2 g m d a b fun s => minMaxLane s true)

/-- FABS (R111). -/
def execFabs (g : PReg) (m : Marks1) (d a : Reg) (s : State) : Host.Outcome State Fault Refusal :=
  issueDual s (flt1 g m d a 4 absLane)

/-- FNEG (R111). -/
def execFneg (g : PReg) (m : Marks1) (d a : Reg) (s : State) : Host.Outcome State Fault Refusal :=
  issueDual s (flt1 g m d a 4 negLane)

/-- FRND (R112): mode bit 3 selects fmt.RM. -/
def execFrnd (g : PReg) (m : Marks1) (mode : BitVec 4) (d a : Reg) (s : State) : Host.Outcome State Fault Refusal :=
  issueDual s (flt1 g m d a 4 fun s =>
    rndLane s (if mode.getLsbD 3 then fmtRM s.frag.fmt else RM.ofCode (mode.setWidth 3)))

/-- FFMA (R113). -/
def execFfma (g : PReg) (d a b c : Reg) (s : State) : Host.Outcome State Fault Refusal :=
  issueDual s (flt3 g d a b c fmaLane)

/-- HFMA2 (R113). -/
def execHfma2 (g : PReg) (d a b c : Reg) (s : State) : Host.Outcome State Fault Refusal :=
  issueDual s (flt3 g d a b c hfmaLane)

/-- FDOT4 (R114): a and b are packed codes and no value operands (R130). -/
def execFdot4 (g : PReg) (d a b c : Reg) (s : State) : Host.Outcome State Fault Refusal :=
  issueDual s fun s =>
    let x := s.readV a
    let y := s.readV b
    let z := s.readDual c
    floatOp g [c] [a, b] [] d 4 (fun l => dotLane s (x.get l) (y.get l) (laneComps z l)) s

/-- FCMP (R115). -/
def execFcmp (g : PReg) (m : Marks2) (cc : FCond) (d : PReg) (a b : Reg) (s : State) : Host.Outcome State Fault Refusal :=
  issue s fun s =>
    let t := (s.touch [a, b]).freeNames (freed2 m a b)
    .done (t.writeK d (s.active g) (laneMask fun l => fcond cc (val32 ((s.readV a).get l)) (val32 ((s.readV b).get l))) 4)

/-- FRCP (R116). -/
def execFrcp (g : PReg) (m : Marks1) (d a : Reg) (s : State) : Host.Outcome State Fault Refusal :=
  issueDual s (flt1 g m d a 12 fun s => fnLane s rcpNum fun t _ r => tterm t.neg (r.mul r))

/-- FRSQ (R116). -/
def execFrsq (g : PReg) (m : Marks1) (d a : Reg) (s : State) : Host.Outcome State Fault Refusal :=
  issueDual s (flt1 g m d a 12 fun s =>
    fnLane s rsqrtNum fun t _ r => (tterm t.neg ((r.mul r).mul r)).scale (-1))

/-- FSQRT (R116). -/
def execFsqrt (g : PReg) (m : Marks1) (d a : Reg) (s : State) : Host.Outcome State Fault Refusal :=
  issueDual s (flt1 g m d a 12 fun s => fnLane s sqrtNum fun t _ r => tquot t (r.scale 1))

/-- FEXP2 (R116). -/
def execFexp2 (g : PReg) (m : Marks1) (d a : Reg) (s : State) : Host.Outcome State Fault Refusal :=
  issueDual s (flt1 g m d a 12 fun s => fnLane s exp2Num fun t _ r => tterm t (r.mul ln2Num))

/-- FLOG2 (R116). -/
def execFlog2 (g : PReg) (m : Marks1) (d a : Reg) (s : State) : Host.Outcome State Fault Refusal :=
  issueDual s (flt1 g m d a 12 fun s => fnLane s log2Num fun t x _ => tquot t (x.mul ln2Num))

/-- FSIN (R116). -/
def execFsin (g : PReg) (m : Marks1) (d a : Reg) (s : State) : Host.Outcome State Fault Refusal :=
  issueDual s (flt1 g m d a 12 fun s =>
    refLane s (refSinCos true) fun t x _ => tterm t (val32 (refSinCos false x)))

/-- FCOS (R116). -/
def execFcos (g : PReg) (m : Marks1) (d a : Reg) (s : State) : Host.Outcome State Fault Refusal :=
  issueDual s (flt1 g m d a 12 fun s =>
    refLane s (refSinCos false) fun t x _ => tterm t.neg (val32 (refSinCos true x)))

/-- FTANH (R116). -/
def execFtanh (g : PReg) (m : Marks1) (d a : Reg) (s : State) : Host.Outcome State Fault Refusal :=
  issueDual s (flt1 g m d a 12 fun s =>
    refLane s refTanh fun t _ r => tterm t ((Num.ofNat 1).add false (r.mul r).neg))

/-- HADD2 (R117). -/
def execHadd2 (g : PReg) (m : Marks2) (d a b : Reg) (s : State) : Host.Outcome State Fault Refusal :=
  issueDual s (flt2 g m d a b haddLane)

/-- HMUL2 (R117). -/
def execHmul2 (g : PReg) (m : Marks2) (d a b : Reg) (s : State) : Host.Outcome State Fault Refusal :=
  issueDual s (flt2 g m d a b hmulLane)

/-- FLDEXP (R117): b is an exponent and no value operand (R130). -/
def execFldexp (g : PReg) (m : Marks2) (d a b : Reg) (s : State) : Host.Outcome State Fault Refusal :=
  issueDual s fun s =>
    let x := s.readDual a
    let n := s.readV b
    floatOp g [a] [b] (freed2 m a b) d 4 (fun l => ldexpLane s (laneComps x l) (n.get l)) s

/-- PACK (R118): the destination is also a source. -/
def execPack (g : PReg) (m : Marks2) (d a b : Reg) (s : State) : Host.Outcome State Fault Refusal :=
  issue s fun s =>
    plainFloat s g [d, a, b] (freed2 m a b) d fun l =>
      packLane s ((s.readV d).get l) ((s.readV a).get l) ((s.readV b).get l)

/-- UNPK (R119). -/
def execUnpk (g : PReg) (m : Marks1) (d a : Reg) (i : BitVec 5) (s : State) : Host.Outcome State Fault Refusal :=
  issue s fun s =>
    lanewise s g [a] (freed1 m a) [d] fun act t => t.writeV d act (plain s (map1 (unpkLane s i.toNat) (s.readV a))) 4

/-- FMTSET (R120). -/
def execFmtset (a b : Reg) (s : State) : Host.Outcome State Fault Refusal :=
  issue s fun s =>
    let m := s.readS b &&& ~~~0xFF800000#64
    .done { s with frag := { s.frag with fmt := (s.frag.fmt &&& ~~~m) ||| (s.readS a &&& m) } }

/-- FMTGET (R120). -/
def execFmtget (d : Reg) (s : State) : Host.Outcome State Fault Refusal :=
  issue s fun s => .done (s.writeS d (s.frag.fmt &&& ~~~0xFF800000#64) 4)

/-- FCVT (R121). -/
def execFcvt (g : PReg) (dst src : BitVec 6) (d a : Reg) (s : State) : Host.Outcome State Fault Refusal :=
  issueDual s (flt1 g { ua := false, la := false } d a 4 fun s => fcvtLane s dst src)

/-- ICVT (R121): tangents +0 (R124). -/
def execIcvt (g : PReg) (dst src : BitVec 6) (d a : Reg) (s : State) : Host.Outcome State Fault Refusal :=
  issue s fun s =>
    plainFloat s g (if fmt64 src then [a, a + 1] else [a]) [] d fun l seed =>
      let r := convert s dst src (convSrc src ((s.readV a).get l) ((s.readV (a + 1)).get l)) seed
      (r.1, [r.2.setWidth 32])

/-- FTOI (R121): a 64-bit result takes two names. -/
def execFtoi (g : PReg) (dst src : BitVec 6) (d a : Reg) (s : State) : Host.Outcome State Fault Refusal :=
  issue s fun s =>
    let wide := fmt64 dst
    lanewise s g [a] [] (if wide then [d, d + 1] else [d]) fun act t =>
      let r := runLanes (fun l seed =>
        let c := convert s dst src ((s.readV a).get l).toNat seed
        (c.1, [c.2.setWidth 32, c.2.extractLsb' 32 32])) (lanesOf act) (fmtSeed s.frag.fmt)
      let c := gather 2 r.2
      let t := { t with frag := { t.frag with fmt := fmtWithSeed t.frag.fmt r.1 } }
      let t := t.writeV d act (plain s (compAt c 0)) 4
      if wide then t.writeV (d + 1) act (plain s (compAt c 1)) 4 else t

/-! ### Tangent access (R131, R132) -/

/-- The tangent access instructions raise tangent capacity for a component beyond K (R131). -/
def tangentAccess (s : State) (j : BitVec 5) (e : Eff) : Eff := if s.grp.kt < j.toNat then .trap (exc 12) else e

/-- TSEED (R131). -/
def execTseed (g : PReg) (j : BitVec 5) (d a b : Reg) (s : State) : Host.Outcome State Fault Refusal :=
  issue s fun s => tangentAccess s j (lanewise s g [a, b] [] [d] fun act t =>
    t.writeV d act ((List.range (s.grp.kt + 1)).map fun i =>
      if i = 0 then s.readV a else if i = j.toNat then s.readV b else Lanes.splat 0) 4)

/-- TGET (R131). -/
def execTget (g : PReg) (j : BitVec 5) (d a : Reg) (s : State) : Host.Outcome State Fault Refusal :=
  issue s fun s => tangentAccess s j (lanewise s g [a] [] [d] fun act t =>
    t.writeV d act (plain s (compAt (s.readVAll a) j.toNat)) 4)

/-- TSET (R131): the destination is also a source. -/
def execTset (g : PReg) (j : BitVec 5) (d b : Reg) (s : State) : Host.Outcome State Fault Refusal :=
  issue s fun s => tangentAccess s j (lanewise s g [d, b] [] [d] fun act t =>
    t.writeV d act ((s.readVAll d).set j.toNat (s.readV b)) 4)

/-- TZERO (R131). -/
def execTzero (g : PReg) (j : BitVec 5) (d : Reg) (s : State) : Host.Outcome State Fault Refusal :=
  issue s fun s => tangentAccess s j (lanewise s g [d] [] [d] fun act t =>
    t.writeV d act ((s.readVAll d).set j.toNat (Lanes.splat 0)) 4)

/-- TCNT (R132). -/
def execTcnt (d : Reg) (s : State) : Host.Outcome State Fault Refusal :=
  issue s fun s => .done (s.writeS d (BitVec.ofNat 64 s.grp.kt) 4)

/-! ### 16-bit forms (R26) -/

/-- FADD_16BIT (R26). -/
def execFadd16bit (d b : Reg) (s : State) : Host.Outcome State Fault Refusal :=
  issueDual s (fshort d b fun s => addLane s false)

/-- FSUB_16BIT (R26). -/
def execFsub16bit (d b : Reg) (s : State) : Host.Outcome State Fault Refusal :=
  issueDual s (fshort d b fun s => addLane s true)

/-- FMUL_16BIT (R26). -/
def execFmul16bit (d b : Reg) (s : State) : Host.Outcome State Fault Refusal :=
  issueDual s (fshort d b mulLane)

/-- FMAX_16BIT (R26). -/
def execFmax16bit (d b : Reg) (s : State) : Host.Outcome State Fault Refusal :=
  issueDual s (fshort d b fun s => minMaxLane s true)

end Sys2Proof.Machine
end

