-- ==== Sys2Proof/Machine/Mem.lean ====
section
/-! DEFINITION. Loads, stores, constants, atomic accesses, FENCE and remote queues (R102 to R107, R233 to R247), and the
completion of their operations (R96, R353). -/

namespace Sys2Proof.Machine

/-! ### Issue of counted operations -/

/-- Bytes of a width (R36). -/
def Width.bytes : Width → Nat | .w8 => 1 | .w16 => 2 | .w32 => 4 | .w64 => 8
/-- The names that a lane value of this width takes (R234). -/
def Width.names (w : Width) (d : Reg) : List Reg := if w = .w64 then [d, d + 1] else [d]

/-- Issue an operation that returns lanes `act` of vector names: quota (R12, R16), counter (R11), and names undefined
until a WAIT (R22, R105). `frees` are its last-read frees; `s0` is the state that a stall keeps. -/
def loadLikeAt (s0 s : State) (act : Mask) (dsts frees : List Reg) (k : State → Op) : Eff :=
  let t := s.freeNames frees
  match if act = 0 then Room.ok else t.grp.room dsts with
  | .quota => .trap (exc 5)
  | .stall => .stall s0
  | .ok =>
    if s.counterFull (some .ld) then .stall s0
    else
      let op := { k t with act := act }
      let t := t.enqueue op
      .done (if act = 0 then t else t.pendV op.id act dsts)

/-- Issue an operation from the state itself. -/
def loadLike (s : State) (act : Mask) (dsts frees : List Reg) (k : State → Op) : Eff := loadLikeAt s s act dsts frees k

/-- The low bytes of a lane of a data name or pair. -/
def State.dataBytes (s : State) (wd : Width) (d : Reg) (l : Nat) : List Byte :=
  if wd = .w64 then leBytes 8 (s.readPair d l).toNat else leBytes (Width.bytes wd) ((s.readV d).get l).toNat

/-! ### Stores inside a transaction (R227, R229, R255) -/

/-- Held bytes with later ones laid over them. -/
def overlay (cells : List Host.Cell) (ps : List Loc) (vs : List Byte) : List Host.Cell :=
  (ps.zip vs).foldl (fun m p => match p.1 with
    | .dev a => (m.filter fun c => c.1 != a) ++ [(a, p.2)]
    | _ => m) cells

/-- The group's transaction holds back these bytes; a 33rd line aborts it with cause 2; a doomed one takes nothing. -/
def State.txHold (s : State) (ps : List Loc) (vs : List Byte) : State :=
  s.setGrp fun g =>
    match g.tx with
    | none => g
    | some t =>
      if t.cause ≠ 0 then g
      else
        let lines := (t.lines ++ linesOf ps).eraseDups
        if 32 < lines.length then g.doom 2
        else
          { g with tx := some { t with stores := overlay t.stores ps vs, rows := overlay t.rows ps vs, lines := lines } }

/-- A byte as the group's own loads see it: held back by its transaction, else as memory has it (R229). -/
def Tx.overlay (t : Option Tx) (p : Loc) (v : Byte) : Byte :=
  match t, p with
  | some t, .dev a => match t.stores.find? fun c => c.1 == a with | some c => c.2 | none => v
  | _, _ => v

/-! ### LD, ST (R103 to R107) -/

/-- LD (R105, R107). -/
def execLd (g : PReg) (wd : Width) (sc : Scope) (ord : Bool) (d a b : Reg) (s : State) : Host.Outcome State Fault Refusal :=
  issue s fun s =>
    if s.inTx && ord then .trap excTx
    else
      let act := s.active g
      let x := s.readS b
      match s.checkAccess .rd (segOf x) (baseHigh x) [0, 3, 4, 6] 1 (Width.bytes wd) (laneOffs x (s.readV a) act) false with
      | .stop e => e
      | .ok accs =>
        loadLikeAt s (s.touch [a]) act (Width.names wd d) [] fun t =>
          { t.newOp (some .ld) (.load (.vec d.toNat (wd == .w64)) accs (if ord then some sc else none) (segOf x == 4)) with
            base := s.grp.segBase (segOf x) }

/-- Store lanes: as an operation on st, or held back by the transaction (R106, R107, R229, R364); a release waits for the group's stores
that the injector holds (R365). `s0` is the state that a stall keeps. -/
def storeLanes (s0 s : State) (seg : Nat) (n : Nat) (xs : List LaneOff) (accs : List Acc) (rel : Option Scope) : Eff :=
  let ps := accs.flatMap Acc.locs
  if s.counterFull (some .st) || (rel.isSome && s.holding) then .stall s0
  else if s.inTx then
    if s.busyLocs ps then .stall s0
    else .done ((s.txHold ps (accs.flatMap Acc.data)).enqueue (s.newOp (some .st) .results))
  else
    let op := { s.newOp (some .st) (.store accs rel) with base := s.grp.segBase seg }
    match if rel.isSome || seg == 1 || seg == 6 then some op else s.holdStore op seg n xs with
    | none => .stall s0
    | some op => .done (s.enqueue op)

/-- ST (R106, R107). -/
def execSt (g : PReg) (wd : Width) (sc : Scope) (ord : Bool) (d a b : Reg) (s : State) : Host.Outcome State Fault Refusal :=
  issue s fun s =>
    let x := s.readS b
    if s.inTx && (ord || segOf x != 0) then .trap excTx
    else
      let act := s.active g
      let xs := laneOffs x (s.readV a) act
      match s.checkAccess .wr (segOf x) (baseHigh x) [0, 3, 6] 1 (Width.bytes wd) xs false with
      | .stop e => e
      | .ok accs =>
        storeLanes s (s.touch (a :: Width.names wd d)) (segOf x) (Width.bytes wd) xs
          (accs.map fun c => { c with data := s.dataBytes wd d c.lane }) (if ord then some sc else none)

/-! ### Scratchpad and constants (R237, R238) -/

/-- LDS (R237). -/
def execLds (g : PReg) (wd : Width) (d a b : Reg) (s : State) : Host.Outcome State Fault Refusal :=
  issue s fun s =>
    let act := s.active g
    match s.checkAccess .rd 1 false [1] 1 (Width.bytes wd) (laneOffsScratch (s.readS b) (s.readV a) act) false with
    | .stop e => e
    | .ok accs =>
      loadLikeAt s (s.touch [a]) act (Width.names wd d) [] fun t =>
        t.newOp (some .ld) (.load (.vec d.toNat (wd == .w64)) accs none false)

/-- STS (R237). -/
def execSts (g : PReg) (wd : Width) (d a b : Reg) (s : State) : Host.Outcome State Fault Refusal :=
  issue s fun s =>
    if s.inTx then .trap excTx
    else
      let xs := laneOffsScratch (s.readS b) (s.readV a) (s.active g)
      match s.checkAccess .wr 1 false [1] 1 (Width.bytes wd) xs false with
      | .stop e => e
      | .ok accs =>
        storeLanes s (s.touch (a :: Width.names wd d)) 1 (Width.bytes wd) xs
          (accs.map fun c => { c with data := s.dataBytes wd d c.lane }) none

/-- LDC (R238). -/
def execLdc (wd : Width) (disp : BitVec 5) (d b : Reg) (s : State) : Host.Outcome State Fault Refusal :=
  issue s fun s =>
    let n := Width.bytes wd
    let o := (s.readS b).toNat + disp.toNat * n
    match s.checkAccess .rd 4 false [4] 1 n [{ lane := 0, off := o }] true with
    | .stop e => e
    | .ok accs =>
      if s.counterFull (some .ld) then .stall s
      else
        let op := { s.newOp (some .ld) (.load (.scalar d.toNat) accs none true) with base := s.grp.segBase 4 }
        .done ((s.enqueue op).pendS op.id d)

/-! ### Atomic accesses (R236 to R243) -/

/-- The new word of an ATOM (R239), of `w` bits. -/
def atomNew (op : AtomOp) (w : Nat) (old x : BitVec 64) : BitVec 64 :=
  let m : BitVec 64 := BitVec.ofNat 64 (2 ^ w - 1)
  let sx (y : BitVec 64) : Int := if w = 64 then y.toInt else (y.setWidth 32).toInt
  match op with
  | .add => (old + x) &&& m
  | .min => if sx old ≤ sx x then old else x
  | .max => if sx x ≤ sx old then old else x
  | .and => old &&& x
  | .or => old ||| x
  | .xor => old ^^^ x
  | .xchg => x
  | .f32 => (round32 .rne 0 ((val32 (old.setWidth 32)).add false (val32 (x.setWidth 32)))).setWidth 64

/-- ARW on a lock word: the new word and the result (R243). -/
def arwNew (k : AtomKind) (old x : BitVec 64) : BitVec 64 × BitVec 32 :=
  let held := old.getLsbD 63
  let wait := old.toNat / 2 ^ 32 % 2 ^ 31
  let readers := old.toNat % 2 ^ 32
  let word (h : Bool) (wt rd : Nat) : BitVec 64 := BitVec.ofNat 64 ((if h then 2 ^ 63 else 0) + wt * 2 ^ 32 + rd)
  match k with
  | .rd => if !held ∧ wait = 0 ∧ readers < 2 ^ 32 - 1 then (word held wait (readers + 1), 1) else (old, 0)
  | .rdx => if 0 < readers then (word held wait (readers - 1), 1) else (old, 0)
  | .wr =>
    let again := x.setWidth 32 == 1#32
    if !held ∧ readers = 0 then (word true (if again then wait - 1 else wait) readers, 2)
    else if again then (old, 1)
    else if wait < 2 ^ 31 - 1 then (word held (wait + 1) readers, 1)
    else (old, 0)
  | .wrx => if held then (word false wait readers, 1) else (old, 0)
  | _ => (old, 0)

/-- What one lane of an atomic access makes of its word: the new word, if it writes one, and its result (R239 to R243). -/
def atomLane (k : AtomKind) (w : Nat) (old x cmp : BitVec 64) : Option (BitVec 64) × BitVec 64 :=
  match k with
  | .atom op => (some (atomNew op w old x), old)
  | .cas => (if old = cmp then some x else none, old)
  | k =>
    let r := arwNew k old x
    (if r.1 = old then none else some r.1, r.2.setWidth 64)

/-- Check an atomic access: transaction, segment, range, alignment, translation, watchpoints (R228, R236). -/
def State.checkAtomic (s : State) (k : AccKind) (g : PReg) (n : Nat) (a b : Reg) : Checked :=
  let x := s.readS b
  s.checkAccess k (segOf x) (baseHigh x) [0, 1] n n (laneOffs x (s.readV a) (s.active g)) false

/-- The lanes of an atomic access with their operands. -/
def atomLanes (accs : List Acc) (x cmp : Nat → BitVec 64) : List AtomLane :=
  accs.map fun c => { lane := c.lane, off := c.off, locs := c.locs, x := x c.lane, cmp := cmp c.lane }

/-- A lane of a name or pair as a 64-bit number. -/
def State.laneWord (s : State) (w64 : Bool) (d : Reg) (l : Nat) : BitVec 64 :=
  if w64 then s.readPair d l else ((s.readV d).get l).setWidth 64

/-- An access of ARW that gives a lock up, which acts as a release (R243). -/
def AtomKind.gives : AtomKind → Bool | .rdx | .wrx => true | _ => false

/-- An atomic access other than a buffered one; one that gives a lock up waits for the group's stores that the injector holds
(R365). -/
def atomicOp (s : State) (g : PReg) (k : AtomKind) (sc : Scope) (w64 wide : Bool) (d a b : Reg) (reads frees : List Reg)
    (x cmp : Nat → BitVec 64) : Eff :=
  if s.inTx then .trap excTx
  else
    match s.checkAtomic .both g (if wide then 8 else 4) a b with
    | .stop e => e
    | .ok accs =>
      if AtomKind.gives k && s.holding then .stall s
      else
        loadLikeAt s (s.touch (a :: reads)) (s.active g) (if w64 then [d, d + 1] else [d]) frees fun t =>
          { t.newOp (some .ld) (.atomic k sc wide d.toNat (atomLanes accs x cmp)) with
            bytes := s.grp.issued, base := s.grp.segBase (segOf (s.readS b)) }

/-- ATOM of either width (R239). -/
def atom (g : PReg) (m : Marks1) (op : AtomOp) (w64 : Bool) (d a b : Reg) (s : State) : Eff :=
  atomicOp s g (.atom op) .lane w64 w64 d a b (if w64 then [d, d + 1] else [d]) (freed1 m a) (s.laneWord w64 d) fun _ => 0

/-- Bytes of determinism-buffer entries (R295). -/
def DetEntry.bytes : DetEntry → Nat
  | .lane .. => 16
  | .tile .. => 16448

/-- An entry as the buffer holds it, 16 or 16,448 bytes (R295): the address and addend of a lane, or the 4,096 addends of a tile
after a header; each with group and kind. (DESIGN CHOICE, log entry 26) -/
def DetEntry.encode : DetEntry → List Byte
  | .lane g pas x => leBytes 8 (pas.headD 0) ++ leBytes 4 x.toNat ++ leBytes 2 g ++ leBytes 2 1
  | .tile g _ _ vals _ => leBytes 12 0 ++ leBytes 2 g ++ leBytes 2 2 ++ leBytes 48 0
      ++ (vals ++ List.replicate (4096 - vals.length) 0).flatMap fun (w : BitVec 32) => leBytes 4 w.toNat

/-- The device writes an entry of a block's determinism buffer at byte `off` of its place in the context area (R295, R347). -/
def State.putDet (s : State) (b : Block) (off : Nat) (e : DetEntry) : State :=
  match s.launch? b.l with
  | some x => s.areaWrite x.lrec.jobId (e.bytes / 16) (x.lrec.detAt b.area + off) e.encode
  | none => s

/-- Where a block's entries start in the buffer of its place in the context area: after those of completed blocks that had the
place before it (R240, R295, R347). (DESIGN CHOICE, log entry 26) -/
def State.detBase (s : State) (b : Block) : Nat :=
  (((s.blocks.takeWhile fun x => !(x.l == b.l && x.idx == b.idx)).filter fun x => x.l == b.l && x.area == b.area).flatMap fun x =>
    x.detBuf.map DetEntry.bytes).sum

/-- Where the next entry of a block goes. -/
def State.detEnd (s : State) (b : Block) : Nat := s.detBase b + (b.detBuf.map DetEntry.bytes).sum

/-- Entries join a block's determinism buffer (R295). -/
def State.bufferDet (s : State) (l blk : Nat) (new : List DetEntry) : State :=
  new.foldl (fun s e =>
    match s.block? l blk with
    | some b => (s.updBlock l blk fun b => { b with detBuf := b.detBuf ++ [e] }).putDet b (s.detEnd b) e
    | none => s) s

/-- Entries fit in the buffer of a block, which holds 4 MiB (R295). -/
def State.detFits (s : State) (b : Block) (n : Nat) : Bool := decide (s.detEnd b + n ≤ 2 ^ 22)

/-- ATOM.F32 to sg0 in deterministic mode: +0 in every active lane, and the additions buffered (R240, R295). -/
def atomBuffered (s : State) (g : PReg) (m : Marks1) (d a b : Reg) : Eff :=
  if s.inTx then .trap excTx
  else
    match s.checkAtomic .buffered g 4 a b with
    | .stop e => e
    | .ok accs =>
      let i := s.grp.id
      let fits := match s.block? i.l i.blk with | some x => s.detFits x (16 * accs.length) | none => false
      if !fits then .trap (exc 21)
      else
        let act := s.active g
        let new := accs.map fun c =>
          DetEntry.lane i.g (c.locs.filterMap fun p => match p with | .dev q => some q | _ => none) ((s.readV d).get c.lane)
        let t := s.touch [a, d]
        match loadLikeAt s t act [d] (freed1 m a) fun t =>
            { t.newOp (some .ld) .results with act := act, results := if act = 0 then [] else
                [{ cls := .vec, name := d.toNat, mask := act, comps := [Lanes.splat 0], word := 0 }] } with
        | .done t => .done (t.bufferDet i.l i.blk new)
        | e => e

/-- ATOM_ADD_W32 (R239). -/
def execAtomAddW32 (g : PReg) (m : Marks1) (d a b : Reg) (s : State) : Host.Outcome State Fault Refusal :=
  issue s (atom g m .add false d a b)

/-- ATOM_MIN_W32 (R239). -/
def execAtomMinW32 (g : PReg) (m : Marks1) (d a b : Reg) (s : State) : Host.Outcome State Fault Refusal :=
  issue s (atom g m .min false d a b)

/-- ATOM_MAX_W32 (R239). -/
def execAtomMaxW32 (g : PReg) (m : Marks1) (d a b : Reg) (s : State) : Host.Outcome State Fault Refusal :=
  issue s (atom g m .max false d a b)

/-- ATOM_AND_W32 (R239). -/
def execAtomAndW32 (g : PReg) (m : Marks1) (d a b : Reg) (s : State) : Host.Outcome State Fault Refusal :=
  issue s (atom g m .and false d a b)

/-- ATOM_OR_W32 (R239). -/
def execAtomOrW32 (g : PReg) (m : Marks1) (d a b : Reg) (s : State) : Host.Outcome State Fault Refusal :=
  issue s (atom g m .or false d a b)

/-- ATOM_XOR_W32 (R239). -/
def execAtomXorW32 (g : PReg) (m : Marks1) (d a b : Reg) (s : State) : Host.Outcome State Fault Refusal :=
  issue s (atom g m .xor false d a b)

/-- ATOM_XCHG_W32 (R239). -/
def execAtomXchgW32 (g : PReg) (m : Marks1) (d a b : Reg) (s : State) : Host.Outcome State Fault Refusal :=
  issue s (atom g m .xchg false d a b)

/-- ATOM_ADD_W64 (R239). -/
def execAtomAddW64 (g : PReg) (m : Marks1) (d a b : Reg) (s : State) : Host.Outcome State Fault Refusal :=
  issue s (atom g m .add true d a b)

/-- ATOM_MIN_W64 (R239). -/
def execAtomMinW64 (g : PReg) (m : Marks1) (d a b : Reg) (s : State) : Host.Outcome State Fault Refusal :=
  issue s (atom g m .min true d a b)

/-- ATOM_MAX_W64 (R239). -/
def execAtomMaxW64 (g : PReg) (m : Marks1) (d a b : Reg) (s : State) : Host.Outcome State Fault Refusal :=
  issue s (atom g m .max true d a b)

/-- ATOM_AND_W64 (R239). -/
def execAtomAndW64 (g : PReg) (m : Marks1) (d a b : Reg) (s : State) : Host.Outcome State Fault Refusal :=
  issue s (atom g m .and true d a b)

/-- ATOM_OR_W64 (R239). -/
def execAtomOrW64 (g : PReg) (m : Marks1) (d a b : Reg) (s : State) : Host.Outcome State Fault Refusal :=
  issue s (atom g m .or true d a b)

/-- ATOM_XOR_W64 (R239). -/
def execAtomXorW64 (g : PReg) (m : Marks1) (d a b : Reg) (s : State) : Host.Outcome State Fault Refusal :=
  issue s (atom g m .xor true d a b)

/-- ATOM_XCHG_W64 (R239). -/
def execAtomXchgW64 (g : PReg) (m : Marks1) (d a b : Reg) (s : State) : Host.Outcome State Fault Refusal :=
  issue s (atom g m .xchg true d a b)

/-- ATOM_F32 (R239), buffered in deterministic mode when it addresses sg0 (R240). -/
def execAtomF32 (g : PReg) (m : Marks1) (d a b : Reg) (s : State) : Host.Outcome State Fault Refusal :=
  issue s fun s =>
    if s.grp.det && segOf (s.readS b) == 0 then atomBuffered s g m d a b else atom g m .f32 false d a b s

/-- ARW_RD (R243). -/
def execArwRd (g : PReg) (sc : Scope) (d a b : Reg) (s : State) : Host.Outcome State Fault Refusal :=
  issue s fun s => atomicOp s g .rd sc false true d a b [] [] (s.laneWord false d) fun _ => 0

/-- ARW_RDX (R243). -/
def execArwRdx (g : PReg) (sc : Scope) (d a b : Reg) (s : State) : Host.Outcome State Fault Refusal :=
  issue s fun s => atomicOp s g .rdx sc false true d a b [] [] (s.laneWord false d) fun _ => 0

/-- ARW_WR (R243). -/
def execArwWr (g : PReg) (sc : Scope) (d a b : Reg) (s : State) : Host.Outcome State Fault Refusal :=
  issue s fun s => atomicOp s g .wr sc false true d a b [d] [] (s.laneWord false d) fun _ => 0

/-- ARW_WRX (R243). -/
def execArwWrx (g : PReg) (sc : Scope) (d a b : Reg) (s : State) : Host.Outcome State Fault Refusal :=
  issue s fun s => atomicOp s g .wrx sc false true d a b [] [] (s.laneWord false d) fun _ => 0

/-- ACAS_W32 (R241). -/
def execAcasW32 (g : PReg) (d a b c : Reg) (s : State) : Host.Outcome State Fault Refusal :=
  issue s fun s =>
    atomicOp s g .cas .lane false false d a b [d, c] [] (s.laneWord false d) (s.laneWord false c)

/-- ACAS_W64 (R241). -/
def execAcasW64 (g : PReg) (d a b c : Reg) (s : State) : Host.Outcome State Fault Refusal :=
  issue s fun s =>
    atomicOp s g .cas .lane true true d a b [d, d + 1, c, c + 1] [] (s.laneWord true d) (s.laneWord true c)

/-! ### FENCE (R244) -/

/-- A narrow FENCE stands between the issuing group's earlier and later operations; marks before which nothing is left to be performed
go. (DEDUCED, log entry 16) -/
def State.markFence (s : State) (sc : Scope) : State :=
  { s with fences := (s.fences.filter fun f => s.ops.any fun p => p.gid == f.gid && decide (p.id < f.before) && !p.performed && !p.kind.async) ++
      [{ gid := s.grp.id, cu := s.grp.place.part.cu, scope := sc, before := s.nextId }] }

/-- FENCE (R244, R257, R394): a wide one issues once the earlier accesses that it orders have been performed; a narrower one leaves a
mark, and holds toward the parties that share its scope. It acts as a release and an acquire, and waits for the group's stores
that the injector holds (R365). At .MEM and wider it writes L2 back to the stacks (R271). (DEDUCED, log entry 16) -/
def execFence (sc : Scope) (s : State) : Host.Outcome State Fault Refusal :=
  issue s fun s =>
    if s.inTx then .trap excTx
    else if s.holding || (Scope.wide sc && !s.quiet) || (Scope.far sc && s.linksBusy) then .stall s
    else if !Scope.orders sc then .done s
    else
      let t := (if Scope.wide sc || s.quiet then s else s.markFence sc).releaseL2 s.grp.id (Scope.mem sc)
      .done (t.acquireAt s.grp.id s.grp.place.part.cu sc)

/-! ### Remote queues (R196, R197, R245 to R247) -/

/-- The configuration entry of queue q of the issuing launch. -/
def State.queueConfig (s : State) (q : Nat) : BitVec 64 :=
  match s.launch? s.grp.id.l with | some l => l.qcfg.getD q 0 | none => 0
/-- Vector names that an entry takes. -/
def queueNames (c : BitVec 64) (d : Reg) : List Reg :=
  (List.range ((queueEntrySize c + 127) / 128)).map fun i => d + BitVec.ofNat 5 i

/-- Blocks of the issuing block's cluster launch (R171: a short one holds fewer than CLB); 0 without one. -/
def State.clusterSize (s : State) : Nat :=
  if s.grp.clb = 0 then 0
  else match s.clusterLaunches.find? fun x => x.l == s.grp.id.l && x.c == s.grp.id.blk / s.grp.clb with
    | some x => x.blocks
    | none => 0

/-- The segment-limit conditions of R245: `target` is a block's index in the cluster launch. -/
def queueBad (s : State) (q target : Nat) : Bool := decide (s.grp.limit 5 ≤ q) || decide (s.clusterSize ≤ target)

/-- The issuing block's index in its cluster launch. -/
def State.clusterIndex (s : State) : Nat := if s.grp.clb = 0 then 0 else s.grp.id.blk % s.grp.clb

/-- The linear index of a block of the issuing cluster launch. -/
def State.clusterBlock (s : State) (i : Nat) : Nat := s.grp.id.blk - s.clusterIndex + i

/-- Credits that block `src` holds for a queue (R197). -/
def RemoteQueue.credit (r : RemoteQueue) (src : Nat) : Nat := ((r.credits.find? (·.1 == src)).map Prod.snd).getD 0
/-- Change the credits of a block. -/
def RemoteQueue.addCredit (r : RemoteQueue) (src : Nat) (f : Nat → Nat) : RemoteQueue :=
  { r with credits := r.credits.map fun c => if c.1 == src then (c.1, f c.2) else c }

/-- Change queue `q` of a block. -/
def Block.updQueue (b : Block) (q : Nat) (f : RemoteQueue → RemoteQueue) : Block :=
  { b with queues := b.queues.zipIdx.map fun p => if p.2 == q then f p.1 else p.1 }

/-- QAPP (R245), a release, which waits for the group's stores that the injector holds (R365). -/
def execQapp (q : BitVec 3) (d b : Reg) (s : State) : Host.Outcome State Fault Refusal :=
  issue s fun s =>
    let target := (s.readS b).toNat % 8
    let c := s.queueConfig q.toNat
    let n := queueEntrySize c
    let names := queueNames c d
    if s.inTx then .trap excTx
    else if queueBad s q.toNat target || decide (31 < d.toNat + names.length - 1) then .trap s.excLimit
    else
      let src := s.clusterIndex
      let blk := s.clusterBlock target
      match (s.block? s.grp.id.l blk).bind fun x => x.queues[q.toNat]? with
      | none => .stall s
      | some r =>
        if r.credit src = 0 ∨ s.counterFull (some .st) ∨ s.holding then .stall s
        else
          let data := (names.flatMap fun r => lanesBytes (s.readV r)).take n
          let t := (s.touch names).updBlock s.grp.id.l blk fun x => x.updQueue q.toNat fun r => r.addCredit src (· - 1)
          .done (t.enqueue (t.newOp (some .st) (.qapp s.grp.id.l blk q.toNat src 0 data)))

/-- Mark the oldest entry that is not popped. -/
def popEntry : List QEntry → List QEntry
  | [] => []
  | e :: t => if e.popped then e :: popEntry t else { e with popped := true } :: t

/-- The bytes of a queue entry that each lane reads, one access for each name's word (R245, R246). -/
def entryLanes (i : GroupId) (off n : Nat) : List Acc :=
  (List.range 32).flatMap fun l => (List.range ((n + 127) / 128)).filterMap fun j =>
    let o := 128 * j + 4 * l
    if o < n then some { lane := l, off := off + o, data := [], locs := (List.range 4).map fun k => Loc.scr i.l i.blk (off + o + k) }
    else none

/-- QPOP (R246): it waits for the group's earlier accesses to the entry's bytes (R235). -/
def execQpop (q : BitVec 3) (d a : Reg) (s : State) : Host.Outcome State Fault Refusal :=
  issue s fun s =>
    let c := s.queueConfig q.toNat
    let n := queueEntrySize c
    let names := queueNames c d
    let i := s.grp.id
    if s.inTx then .trap excTx
    else if queueBad s q.toNat 0 || decide (31 < d.toNat + names.length - 1) then .trap s.excLimit
    else
      match ((s.block? i.l i.blk).bind fun x => x.queues[q.toNat]?).bind fun r => r.entries.find? fun e => !e.popped with
      | none => .done (s.writeS a (BitVec.ofNat 64 (2 ^ 63)) 2)
      | some e =>
        let ps := (List.range n).map fun j => Loc.scr i.l i.blk (e.off + j)
        if s.busyLocs ps then .stall s
        else
        match s.poisonCheck (entryLanes i e.off n) with
        | some x => .trap x
        | none =>
        let bs := s.laneBytes 0 ps
        let ws := names.zipIdx.map fun p =>
          ({ cls := .vec, name := p.1.toNat, mask := BitVec.allOnes 32,
             comps := [lanesOfBytes ((bs.drop (128 * p.2)).take 128)], word := 0 } : RegWrite)
        match loadLike s (BitVec.allOnes 32) names [] fun t => { t.newOp (some .ld) .results with results := ws } with
        | .done t =>
          let t := t.updBlock i.l i.blk fun x => x.updQueue q.toNat fun r => { r with entries := popEntry r.entries }
          .done ((t.writeS a (BitVec.ofNat 64 (e.off * 2 ^ 8 + e.src)) 2).acquire i s.grp.place.part.cu true)
        | e => e

/-- Return the oldest `n` entries, each credit to the block that appended it (R197, R247). -/
def RemoteQueue.free (r : RemoteQueue) : Nat → RemoteQueue
  | 0 => r
  | n + 1 =>
    match r.entries with
    | [] => r
    | e :: t => if e.popped then RemoteQueue.free ({ r with entries := t }.addCredit e.src (· + 1)) n else r

/-- QFREE (R247). -/
def execQfree (q : BitVec 3) (b : Reg) (s : State) : Host.Outcome State Fault Refusal :=
  issue s fun s =>
    if s.inTx then .trap excTx
    else if queueBad s q.toNat 0 then .trap s.excLimit
    else
      let i := s.grp.id
      let used := match (s.block? i.l i.blk).bind fun x => x.queues[q.toNat]? with
        | some r => (r.entries.filter QEntry.popped).length
        | none => 0
      let t := s.updBlock i.l i.blk fun x => x.updQueue q.toNat fun r => r.free (min (s.readS b).toNat used)
      .done (t.mapGroups Group.wake)

/-! ### Completions (R96, R353) -/

/-- The operation of an id. -/
def State.op? (s : State) (i : Nat) : Option Op := s.ops.find? (·.id == i)

/-- The launch whose sg4 a load reads, if it reads sg4 (R199). -/
def Op.constOf (o : Op) (const : Bool) : Option Nat := if const then some o.gid.l else none

/-- The L1 line from which a load takes a device byte: present in its CU, for the same kind of segment, and, but for sg4, filled
no earlier than the last read or acquire that the load is ordered after (R199, R265, R266). (DEDUCED, log entry 18) -/
def State.lineFor (s : State) (o : Op) (const : Option Nat) (a : Nat) : Option L1Line :=
  let seen := match s.group? o.gid with | some g => g.seen | none => 0
  s.l1.find? fun x => x.cu == o.cu && x.line == a / 128 && x.const == const && (const.isSome || decide (seen ≤ x.filled))

/-- The byte that a load of a CU returns: from the CU's L1 if the line is there, under the transaction's own stores
(R199, R229); undefined while an engine is writing it (R268), and after a completion timeout (R372). (DEDUCED, log
entry 18) -/
def State.loadByte (s : State) (o : Op) (const : Option Nat) (tx : Option Tx) (i : Nat) (p : Loc) : Byte :=
  if o.clobbered || s.ops.any fun q => q.writesTo p then Config.freeByte s.fresh i
  else
  let v := match p with
    | .dev a => match s.lineFor o const a with
      | some x => x.data.getD (a % 128) 0
      | none => s.readLoc p
    | _ => s.readLoc p
  Tx.overlay tx p v

/-- The instant of a load's reads: now, or that of the L1 lines that hold all its bytes (R265). (DEDUCED, log entry 18) -/
def State.loadInstant (s : State) (o : Op) (const : Option Nat) (ps : List Loc) : Nat :=
  let xs := (devAddrs ps).map (s.lineFor o const)
  if xs.isEmpty || xs.any Option.isNone then s.fresh else (xs.filterMap fun x => x.map L1Line.filled).foldl max 0

/-- Lines that an L1 of 128 KiB holds (R1). -/
def l1Lines : Nat := 1024

/-- The lines that a load brings into its CU's L1, the oldest going when it is full, or that it drops (R1, R199). (DEDUCED,
log entry 18) -/
def State.fillL1 (s : State) (o : Op) (const : Option Nat) (ps : List Loc) (keep : Bool) : State :=
  let lines := linesOf ps
  let mine (x : L1Line) : Bool := x.cu == o.cu && x.const == const
  if keep then
    let new := lines.filter fun n => (s.lineFor o const (n * 128)).isNone
    let ls := (s.l1.filter fun x => !(mine x && new.contains x.line)) ++ new.map fun n =>
      ({ cu := o.cu, line := n, const := const, filled := s.fresh, data := readBytes s.mem (n * 128) 128 } : L1Line)
    let here := ls.filter fun x => x.cu == o.cu
    { s with l1 := (ls.filter fun x => x.cu != o.cu) ++ here.drop (here.length - l1Lines) }
  else { s with l1 := s.l1.filter fun x => !(mine x && lines.contains x.line) }

/-- Lanes of a load as register results: zero-extended, a pair for 64 bits (R105). -/
def loadResults (dst : LoadDst) (vals : List (Nat × List Byte)) : List RegWrite :=
  let m := maskOf (vals.map Prod.fst)
  let part (k : Nat) : Lanes := Vector.ofFn fun l =>
    match vals.find? (·.1 == l.val) with | some v => BitVec.ofNat 32 (leNat (v.2.drop (4 * k))) | none => 0
  match dst with
  | .vec d pair =>
    if vals.isEmpty then []
    else { cls := .vec, name := d, mask := m, comps := [part 0], word := 0 } ::
      (if pair then [{ cls := .vec, name := d + 1, mask := m, comps := [part 1], word := 0 }] else [])
  | .scalar d => [{ cls := .scalar, name := d, mask := 0, comps := [],
                    word := BitVec.ofNat 64 (leNat ((vals.headD (0, [])).2)) }]

/-- The 16-byte part of its storage that a byte lies in (R258). -/
def Loc.part : Loc → Nat
  | .dev a => a / 16
  | .host _ a => a / 16
  | .scr _ _ o => o / 16

/-- Put a byte in front of the pieces of the bytes after it. -/
def consPiece (p : Loc) (v : Byte) : List (List Loc × List Byte) → List (List Loc × List Byte)
  | ([], _) :: t => ([p], [v]) :: t
  | (q :: ps, vs) :: t => if q.part = p.part then (p :: q :: ps, v :: vs) :: t else ([p], [v]) :: (q :: ps, vs) :: t
  | [] => [([p], [v])]

/-- The indivisible pieces of a lane's access: it divides at every 16-byte boundary (R258). -/
def Acc.pieces (c : Acc) : List Acc :=
  (((c.locs.zipIdx.map fun p => (p.1, c.data.getD p.2 0)).foldr (fun x t => consPiece x.1 x.2 t) []).map fun x =>
    { c with locs := x.1, data := if c.data.isEmpty then [] else x.2 })

/-- The pieces of an access that one event performs: all that are left, or one of those that may be next; which is open (R258).
(DEDUCED, log entry 16) -/
def State.nextPieces (s : State) (left open_ : List Nat) : List Nat :=
  if left.length ≤ 1 then left
  else match open_[Config.freeChoice s.fresh 4 % (open_.length + 1)]? with
    | some i => [i]
    | none => left

/-- The pieces of an access that may be performed next: those that share no byte with one before them, since program order within an
instruction is lane order (R106, R258, R261). -/
def openPieces (all : List Acc) (left : List Nat) : List Nat :=
  left.filter fun i => match all[i]? with
    | none => true
    | some c => !(left.any fun j => decide (j < i) && match all[j]? with | some x => x.locs.any c.locs.contains | none => false)

/-- The pieces still to be performed, of `n`. -/
def Op.left (o : Op) (n : Nat) : List Nat := (List.range n).filter fun i => !o.parts.contains i

/-- The bytes that an operation has read for piece `i`. -/
def Op.got (o : Op) (i : Nat) : List Byte := match o.buf.find? (·.i == i) with | some d => d.bytes | none => []

/-- Pieces of a load are performed: their bytes are read (R258, R265). -/
def State.readPieces (s : State) (o : Op) (const : Option Nat) (all : List Acc) (now : List Nat) : Op :=
  let tx := (s.group? o.gid).bind Group.tx
  let ps := now.flatMap fun i => match all[i]? with | some c => c.locs | none => []
  let t := s.loadInstant o const ps
  { o with
    parts := o.parts ++ now, instant := if o.parts.isEmpty then t else max o.instant t,
    buf := o.buf ++ now.map fun i => match all[i]? with
      | some c => { i := i, fate := .ok, bytes := c.locs.zipIdx.map fun p => s.loadByte o const tx (256 * i + p.2) p.1 }
      | none => { i := i, fate := .ok, bytes := [] } }

/-- The bytes of each lane, its pieces together. -/
def Op.laneValues (o : Op) (accs : List Acc) (all : List Acc) : List (Nat × List Byte) :=
  accs.map fun a => (a.lane, all.zipIdx.flatMap fun p => if p.1.lane == a.lane then o.got p.2 else [])

/-- The scopes of narrow FENCEs that stand after an operation: reading before one is as an acquire (R244, R257). -/
def State.fencesAfter (s : State) (o : Op) : List Scope :=
  (s.fences.filter fun f => f.gid == o.gid && decide (o.id < f.before)).map FenceMark.scope

/-- A load: some or all of the pieces that are left are performed, lanes that read a common byte in order; with the last it is, and an
acquire wider than .CU discards the L1 (R105, R199, R258, R261, R265). -/
def State.performLoad (s : State) (o : Op) (dst : LoadDst) (accs : List Acc) (acq : Option Scope) (const keep : Bool) :
    State :=
  let s := s.opening o
  let c := o.constOf const
  let all := accs.flatMap Acc.pieces
  let left := o.left all.length
  let now := s.nextPieces left (openPieces all left)
  let o' := s.readPieces o c all now
  let t := s.fillL1 o c (now.flatMap fun i => match all[i]? with | some x => x.locs | none => []) keep
  if now.length < left.length then t.setOp o'
  else
    let t := t.readL2 o.gid (accs.flatMap Acc.locs)
    let t := (acq.toList ++ t.fencesAfter o).foldl (fun (t : State) x => t.acquireAt o.gid o.cu x) t
    t.completeOp { o' with performed := true, results := loadResults dst (o'.laneValues accs all) }

/-- The bytes of a lane of LDR.Q or STR.Q: those found at issue, or of a lane that was stale then those of its row (R248); none
if they cannot be reached (R205). -/
def State.rowBytesOf (s : State) (o : Op) (t : Table) (x : RowLane) (slot : Nat) : RowReach :=
  if x.locs.isEmpty then s.rowLocs o.gid.l t slot x.off x.len else .ok x.locs

/-- One lane of LDR.Q or STR.Q at the row's home slice: the generation check and the access together (R216, R248); none is a
lease violation. -/
def State.rowLane (s : State) (o : Op) (wr : Bool) (x : RowLane) : Option (State × Bool × List Byte) :=
  match (s.tableOf o.job (refTable x.ref) o.gid.l).bind fun t => (t.slotOfRef x.ref).map fun slot => (t, slot) with
  | none => some (s, false, [])
  | some (t, slot) =>
    match s.rowBytesOf o t x slot with
    | .ok ps =>
      if wr then some ((s.storeBy (some o.gid) o.cu ps x.data).seeL2 o.gid ps, true, [])
      else some (s.seeL2 o.gid ps, true, s.laneBytes (8 * x.lane) ps)
    | _ => none

/-- The page of a lane's row whose walk the host has still to make, and the die whose engine needs it (R406). -/
def State.rowWaits (s : State) (o : Op) (x : RowLane) : Option (BitVec 2 × Nat) :=
  ((s.tableOf o.job (refTable x.ref) o.gid.l).bind fun t => (t.slotOfRef x.ref).map fun slot => (t, slot)).bind fun y =>
    ((s.rowBytesOf o y.1 x y.2).waits).map fun va => (y.1.hdie, va)

/-- The lanes of an event in turn: what each has read, `.range` of a stale one. -/
def State.rowLanes (s : State) (o : Op) (wr : Bool) (lanes : List RowLane) : List Nat → Option (State × List PartData)
  | [] => some (s, [])
  | i :: t =>
    match lanes[i]? with
    | none => State.rowLanes s o wr lanes t
    | some x =>
      match s.rowLane o wr x with
      | none => none
      | some r => (State.rowLanes r.1 o wr lanes t).map fun q =>
          (q.1, { i := i, bytes := r.2.2, fate := if r.2.1 then .ok else .range } :: q.2)

/-- A predicate result: bits of lanes (R248, R250, R252). -/
def predResult (q : Nat) (rs : List (Nat × Bool)) : List RegWrite :=
  if q = 0 ∨ rs.isEmpty then []
  else [{ cls := .pred, name := q, mask := maskOf (rs.map Prod.fst), comps := [],
          word := (maskOf ((rs.filter Prod.snd).map Prod.fst)).setWidth 64 }]

/-- The lanes of LDR.Q and STR.Q that may be performed next: those before which no lane names the same row (R106, R258, R261). -/
def openRows (lanes : List RowLane) (left : List Nat) : List Nat :=
  let ref (i : Nat) : BitVec 64 := match lanes[i]? with | some x => x.ref | none => 0
  left.filter fun i => !left.any fun j => decide (j < i) && ref j == ref i

/-- The bytes of rows that STR.Q has written. -/
def State.rowsWritten (s : State) (o : Op) (lanes : List RowLane) : List Loc :=
  lanes.zipIdx.flatMap fun x =>
    if o.buf.any fun d => d.i == x.2 && d.fate == .ok then
      match (s.tableOf o.job (refTable x.1.ref) o.gid.l).bind fun t => (t.slotOfRef x.1.ref).map fun slot => (t, slot) with
      | some (t, slot) => (match s.rowBytesOf o t x.1 slot with | .ok ps => ps | _ => [])
      | none => []
    else []

/-- LDR.Q or STR.Q: some or all of the lanes that are left are performed, each with its generation check (R248, R258). -/
def State.performRow (s : State) (o : Op) (wr wide : Bool) (d q : Nat) (lanes : List RowLane) : State :=
  let s := s.opening o
  let left := o.left lanes.length
  let now := s.nextPieces left (openRows lanes left)
  match now.findSome? fun i => lanes[i]?.bind (s.rowWaits o) with
  | some x => s.askWalk x.1 none o.job x.2
  | none =>
  match s.rowLanes o wr lanes now with
  | none => s.violate o
  | some r =>
    let o' := { o with parts := o.parts ++ now, buf := o.buf ++ r.2, instant := s.fresh }
    if now.length < left.length then r.1.setOp o'
    else
      let hit (i : Nat) : Bool := match o'.buf.find? (·.i == i) with | some x => x.fate == .ok | none => false
      let data := if wr then [] else loadResults (.vec d wide) (lanes.zipIdx.map fun x => (x.1.lane, o'.got x.2))
      (if wr then r.1.clearPoison (r.1.rowsWritten o' lanes) else r.1).completeOp { o' with
        performed := true, results := data ++ predResult q (lanes.zipIdx.map fun x => (x.1.lane, hit x.2)) }

/-- LOAD_COMPLETE (R96): pieces of a load are performed, and with the last it completes; an operation whose results are decided
completes. (DEDUCED, log entry 16) -/
def execLoadComplete (op : Nat) (lineKept : Bool) (s : State) : Host.Outcome State Fault Refusal :=
  event s fun s =>
    match s.op? op with
    | none => s
    | some o =>
      if s.dbg.any (fun d => d.pendings.contains op) || s.streams.any (fun x => x.flight.any (·.1 == op)) then s
      else
        if o.performed then s.completeOp o else
        match o.kind with
        | .load dst accs acq const => if s.mayPerform o then s.performLoad o dst accs acq const lineKept else s
        | .row false wide d q lanes => if s.mayPerform o then s.performRow o false wide d q lanes else s
        | _ =>
          if o.ctr = some .ld ∧ o.kind = .results then s.completeOp { o with performed := true } else s

/-- The place after an entry of a queue: of its capacity only a multiple of the blocks that share it is used (R197). -/
def nextEntry (c : BitVec 64) (clb tail : Nat) : Nat := (tail + 1) % (queueCapacity c / clb * clb)

/-- A group's release has been performed: at .MEM or wider it has written back to the stacks what it orders (R271). -/
def State.releasedAt (s : State) (i : GroupId) (rel : Option Scope) : State :=
  match rel with | some c => if Scope.orders c then s.releaseL2 i (Scope.mem c) else s | none => s

/-- Pieces of a store write their bytes at their home. -/
def State.writePieces (s : State) (o : Op) (all : List Acc) (now : List Nat) : State :=
  now.foldl (fun s i => match all[i]? with
    | some c => s.writeBy (some o.gid) (some o.cu) c.locs c.data
    | none => s) s

/-- A store or KVAPP: some or all of the pieces that are left write their bytes; with the last it completes, having advanced the
version of each slot that it wrote to (R194, R258). -/
def State.performStore (s : State) (o : Op) (accs : List Acc) (rel : Option Scope) (append : Bool) : State :=
  let all := accs.flatMap Acc.pieces
  let left := o.left all.length
  let now := s.nextPieces left (openPieces all left)
  let s := (s.opening o).writePieces o all now
  if now.length < left.length then s.setOp { o with parts := o.parts ++ now }
  else
    let ps := accs.flatMap Acc.locs
    let s := (s.advanceSlots ps).clearPoison ps
    (if append then s.appended o.gid ps else s.releasedAt o.gid rel).finishOp o

/-- An append to a remote queue is under way: some but not all of its entry is written. -/
def State.appending (s : State) (l blk q : Nat) (but : Nat) : Bool :=
  s.ops.any fun p => p.id != but && !p.parts.isEmpty && match p.kind with
    | .qapp l' b' q' _ _ _ => l' == l && b' == blk && q' == q
    | _ => false

/-- QAPP at its queue, once no other append to it is under way: parts of 16 bytes of the entry are written, and with the last it is
appended (R245, R258). (DEDUCED, log entry 16) -/
def State.performAppend (s : State) (o : Op) (l blk q src : Nat) (data : List Byte) : State :=
  let c := match s.launch? l with | some x => x.qcfg.getD q 0 | none => 0
  match (s.block? l blk).bind fun x => x.queues[q]? with
  | none => s.finishOp o
  | some r =>
    if s.appending l blk q o.id then s
    else
      let off := queueBase c + r.tail * queueEntrySize c
      let left := o.left (data.length / 16)
      let now := s.nextPieces left left
      let at_ (n len : Nat) : List Loc := (List.range len).map fun i => .scr l blk (off + n + i)
      let s := now.foldl (fun (s : State) j =>
        s.writeBy (some o.gid) (some o.cu) (at_ (16 * j) 16) ((data.drop (16 * j)).take 16)) s
      if now.length < left.length then s.setOp { o with parts := o.parts ++ now }
      else
        let s := (s.advanceSlots (at_ 0 data.length)).clearPoison (at_ 0 data.length)
        let s := s.updBlock l blk fun x => x.updQueue q fun r =>
          { r with entries := r.entries ++ [{ off := off, src := src, popped := false }],
                   tail := nextEntry c (match s.launch? l with | some x => max 1 x.lrec.clb | none => 1) r.tail }
        (s.releasedAt o.gid (some .clu)).finishOp o

/-- STORE_COMPLETE (R96): pieces of a store are performed at their home, once a sealed job's tokens cover what it sends to the host (R375),
or a queue entry is appended (R245); one that has been performed, and whose results debug has held back, completes once they are held
no more (R353). (DEDUCED, log entry 16) -/
def execStoreComplete (op : Nat) (s : State) : Host.Outcome State Fault Refusal :=
  event s fun s =>
    match s.op? op with
    | none => s
    | some o =>
      if o.performed then (if o.ctr = some .st ∧ !s.dbg.any fun d => d.pendings.contains op then s.completeOp o else s)
      else if !s.mayPerform o then s
      else
        match o.kind with
        | .store accs rel =>
          match s.takeTokens o.job (if o.parts.isEmpty then o.kind.hostBytes else 0) with
          | none => s
          | some s => s.performStore o accs rel false
        | .kvapp accs => s.performStore o accs none true
        | .qapp l blk q src _ data => s.performAppend o l blk q src data
        | .row true wide d q lanes => s.performRow o true wide d q lanes
        | .results => if o.ctr = some .st then s.completeOp { o with performed := true } else s
        | _ => s

/-- One lane of an atomic access in memory: the word read, the word written, the lane's result. -/
def State.performLane (s : State) (o : Op) (k : AtomKind) (w64 : Bool) (x : AtomLane) : State × BitVec 64 :=
  let old := BitVec.ofNat 64 (leNat (s.laneBytes (8 * x.lane) x.locs))
  let r := atomLane k (if w64 then 64 else 32) old x.x x.cmp
  match r.1 with
  | none => (s, r.2)
  | some v => (s.writeBy (some o.gid) (some o.cu) x.locs (leBytes x.locs.length v.toNat), r.2)

/-- Lanes of an atomic access in turn: the result of each, by its number (R236). -/
def State.performLanes (s : State) (o : Op) (k : AtomKind) (w64 : Bool) (lanes : List AtomLane) : List Nat → State × List PartData
  | [] => (s, [])
  | i :: t =>
    match lanes[i]? with
    | none => State.performLanes s o k w64 lanes t
    | some x =>
      let r := s.performLane o k w64 x
      let q := State.performLanes r.1 o k w64 lanes t
      (q.1, { i := i, bytes := leBytes 8 r.2.toNat, fate := .ok } :: q.2)

/-- The lanes of an atomic access that are performed with lane `i`: those of its word, one after another (R236). -/
def wordLanes (lanes : List AtomLane) (i : Nat) : List Nat :=
  (List.range lanes.length).filter fun j => (lanes[j]?.map AtomLane.locs) == (lanes[i]?.map AtomLane.locs)

/-- The lanes that stand first of those of their words. -/
def firstLanes (lanes : List AtomLane) (left : List Nat) : List Nat := left.filter fun i => (wordLanes lanes i).head? == some i

/-- A lane's result of an atomic access says that it has written its word: the word it read, or ARW's (R239 to R243); a writer that is
refused writes only where it registers as waiting. -/
def AtomKind.wrote (k : AtomKind) (x : AtomLane) (res : BitVec 64) : Bool :=
  match k with
  | .atom _ => true
  | .cas => res == x.cmp
  | .wr => res == 2 || (res == 1 && x.x.setWidth 32 != 1#32)
  | .rd | .rdx | .wrx => res == 1

/-- The bytes of the lanes that have written. -/
def AtomKind.writtenBy (k : AtomKind) (lanes : List AtomLane) (rs : List (Nat × BitVec 64)) : List Loc :=
  (lanes.zip rs).flatMap fun x => if k.wrote x.1 x.2.2 then x.1.locs else []

/-- The lanes' outcomes make the access an acquire (R243). -/
def AtomKind.acquired (k : AtomKind) (rs : List (Nat × BitVec 64)) : Bool :=
  match k with
  | .rd => rs.any fun r => r.2 == 1
  | .wr => rs.any fun r => r.2 == 2
  | _ => false

/-- The lanes' outcomes make the access a release (R243). -/
def AtomKind.released (k : AtomKind) (rs : List (Nat × BitVec 64)) : Bool :=
  match k with
  | .rdx | .wrx => rs.any fun r => r.2 == 1
  | _ => false

/-- Results of lanes as a vector name or pair. -/
def laneResults (d : Nat) (pair : Bool) (rs : List (Nat × BitVec 64)) : List RegWrite :=
  let m := maskOf (rs.map Prod.fst)
  let part (k : Nat) : Lanes := Vector.ofFn fun l =>
    match rs.find? (·.1 == l.val) with | some v => v.2.extractLsb' (32 * k) 32 | none => 0
  if rs.isEmpty then []
  else { cls := .vec, name := d, mask := m, comps := [part 0], word := 0 } ::
    (if pair then [{ cls := .vec, name := d + 1, mask := m, comps := [part 1], word := 0 }] else [])

/-- The linear group index (R191). -/
def GroupId.linear (i : GroupId) (ngrp : Nat) : Nat := i.blk * ngrp + i.g

/-- How the replay log names a group: its launch and its linear group index (R362). -/
def State.replayName (s : State) (i : GroupId) : BitVec 32 × Nat :=
  match s.launch? i.l with | some x => (x.lrec.launchId, i.linear x.lrec.ngrp) | none => (0, i.g)

/-- The 128-byte lines of places as the replay log names them: those of device memory, and above them those of scratchpads (R362).
(DEDUCED, log entry 21) -/
def replayLines (ps : List Loc) : List Nat :=
  (ps.filterMap fun p => match p with
    | .dev a => some (a / 128)
    | .scr _ b o => some (2 ^ 45 + b * 2 ^ 11 + o / 128)
    | .host .. => none).eraseDups

/-- Lanes of an atomic access in deterministic mode, as the replay log names their lines (R240, R362). (DEDUCED, log entry 21) -/
def State.atomicRecords (s : State) (o : Op) (lanes : List AtomLane) : List ReplayRec :=
  let n := s.replayName o.gid
  (replayLines (lanes.flatMap AtomLane.locs)).map fun line => .atomic o.job line n.1 n.2 o.bytes

/-- An atomic access that a replay log names waits until it is the first of its line there (R363). (DEDUCED, log
entry 21) -/
def State.replayAllows (s : State) (rs : List ReplayRec) : Bool :=
  rs.all fun r => match r with
    | .atomic j n _ _ _ =>
      match s.follow.find? fun x => match x with | .atomic j' n' _ _ _ => j == j' && n == n' | _ => false with
      | none => true
      | some x => x == r
    | _ => true

/-- What an atomic access orders, by the outcomes of its lanes (R243, R260). -/
def State.atomicOrder (s : State) (o : Op) (k : AtomKind) (c : Scope) (rs : List (Nat × BitVec 64)) : State :=
  let s := if k.released rs then s.releasedAt o.gid (some c) else s
  if k.acquired rs then s.acquireAt o.gid o.cu c else s

/-- The results of an atomic access whose lanes have all been performed. -/
def Op.atomResults (o : Op) (lanes : List AtomLane) : List (Nat × BitVec 64) :=
  lanes.zipIdx.map fun x => (x.1.lane, BitVec.ofNat 64 (leNat (o.got x.2)))

/-- An atomic access: the lanes of all words that are left, or of one of them, are performed (R236, R258); in deterministic mode the
place of each line is recorded (R362), and a replay followed. With the last it is, having taken one step of each slot's version
that it wrote to (R194). (DEDUCED, log entry 16) -/
def State.performAtomic (s : State) (o : Op) (k : AtomKind) (c : Scope) (w64 : Bool) (d : Nat) (lanes : List AtomLane) : State :=
  let left := o.left lanes.length
  let words := firstLanes lanes left
  let now := (s.nextPieces words words).flatMap (wordLanes lanes)
  let det := match s.group? o.gid with | some g => g.det | none => false
  let rs := if det then (s.atomicRecords o (now.filterMap fun i => lanes[i]?)).filter fun r => !s.replay.contains r else []
  if !s.replayAllows rs then s
  else
    let p := (s.opening o).performLanes o k w64 lanes now
    let t := p.1.seeL2 o.gid (now.flatMap fun i => (lanes[i]?.map AtomLane.locs).getD [])
    let t := { t with replay := t.replay ++ rs, follow := t.follow.filter fun x => !rs.contains x }
    let o := { o with parts := o.parts ++ now, buf := o.buf ++ p.2, instant := s.fresh }
    if now.length < left.length then t.setOp o
    else
      let res := o.atomResults lanes
      let t := t.advanceSlots (k.writtenBy lanes res)
      let wide := match k with | .atom _ | .cas => w64 | _ => false
      (t.atomicOrder o k c res).setOp { o with performed := true, results := laneResults d wide res }

/-- ATOMIC_PERFORM (R236). -/
def execAtomicPerform (op : Nat) (s : State) : Host.Outcome State Fault Refusal :=
  event s fun s =>
    match s.op? op with
    | none => s
    | some o =>
      match o.kind with
      | .atomic k c w64 d lanes => if !o.performed && s.mayPerform o then s.performAtomic o k c w64 d lanes else s
      | _ => s

/-- RESERVED_REGISTER_RETURN (R16, R281): an engine has read an operation's vector sources; registers that a last-read
bit freed return to the pool. -/
def execReservedRegisterReturn (op : Nat) (s : State) : Host.Outcome State Fault Refusal :=
  event s fun s => s.mapGroups fun g => g.hasRead op

/-- INJECTOR_RELEASE (R364, R365): a held store leaves the hold buffer; the group's held stores to one byte leave in
program order. (DEDUCED, log entry 51) -/
def execInjectorRelease (op : Nat) (s : State) : Host.Outcome State Fault Refusal :=
  event s fun s =>
    match s.op? op with
    | none => s
    | some o =>
      let earlier := (opsBefore s.ops op).any fun p => p.hold && p.gid == o.gid && p.kind.locs.any o.kind.locs.contains
      if o.hold && !earlier then s.setOp { o with hold := false, parts := [] } else s

end Sys2Proof.Machine
end

