-- ==== Sys2Proof/Machine/Copy.lean ====
section
/-! DEFINITION. The copy engine, scale registers and operand readiness (R273 to R286, R290, R293, R294, R296 to R303,
R308, R312; packing R60 to R63). -/

namespace Sys2Proof.Machine

/-! ### Rules shared by the engine instructions (R293 to R300) -/

/-- A single-issue instruction acts once if `active` is non-empty, else only its last-read frees take effect; inside a
transaction it is misuse (R296, R297). (DEDUCED, log entry 43) -/
def single (s : State) (g : PReg) (frees : List Reg) (k : Eff) : Eff :=
  if s.active g = 0 then .done (s.freeNames frees) else if s.inTx then .trap excTx else k

/-- The block of the issuing group. -/
def State.myBlock (s : State) : Option Block := s.block? s.grp.id.l s.grp.id.blk

/-- Slots of the issuing block. -/
def State.mySlots (s : State) : Nat := match s.myBlock with | some b => b.slots | none => 0

/-- Deferred entries that the issuing group holds (R294). (DEDUCED, log entry 43) -/
def State.deferredCount (s : State) : Nat := (s.ops.filter fun o => o.gid == s.grp.id && o.deferred.isSome).length

/-- A barrier named by a control word: the barrier, if it is configured (R300). -/
def State.namedBar (s : State) (blk code : Nat) : Option BarRef :=
  let r := if code ≤ 15 then some (BarRef.block s.grp.id.l blk (BitVec.ofNat 4 code)) else s.barRef code
  r.filter fun r => match s.bar? r with | some b => b.expected != 0 | none => false

/-- NOBAR (R300). -/
def ctlNoBar (c : BitVec 64) : Bool := c.getLsbD 22
/-- CV (R300). -/
def ctlCV (c : BitVec 64) : Bool := c.getLsbD 23
/-- BAR (R300). -/
def ctlBar (c : BitVec 64) : Nat := c.toNat / 2 ^ 17 % 32
/-- CBAR (R300). -/
def ctlCBar (c : BitVec 64) : Nat := c.toNat / 2 ^ 24 % 32
/-- CGEN (R300). -/
def ctlCGen (c : BitVec 64) : BitVec 16 := c.extractLsb' 32 16
/-- SLOT (R300). -/
def ctlSlot (c : BitVec 64) : Nat := c.toNat % 512
/-- SC (R300). -/
def ctlSC (c : BitVec 64) : Nat := c.toNat / 2 ^ 10 % 64
/-- TGT (R300). -/
def ctlTgt (c : BitVec 64) : Nat := c.toNat / 2 ^ 48 % 8
/-- PITCH (R300). -/
def ctlPitch (c : BitVec 64) : Nat := c.toNat / 2 ^ 52

/-- The barriers of a control word: which one counts the bytes and what the start waits for; or the code of one that fails
its check (R300). `blk`: the block whose block barriers BAR names; `cond`: the instruction takes a start condition. -/
def State.ctlBars (s : State) (c : BitVec 64) (blk : Nat) (cond : Bool) :
    Except Nat (Option BarRef × Option (BarRef × BitVec 16)) :=
  let want := cond && ctlCV c
  match ctlNoBar c, s.namedBar blk (ctlBar c), want, s.namedBar s.grp.id.blk (ctlCBar c) with
  | false, none, _, _ => .error (ctlBar c)
  | _, _, true, none => .error (ctlCBar c)
  | nb, r, w, d => .ok (if nb then none else r, if w then d.map fun d => (d, ctlCGen c) else none)

/-- Queue an engine operation: full counter or queue and a third deferred entry stall; one whose start condition is unmet
waits in the deferred pool (R293, R294, R298). The start of one whose condition is met is an acquire. (DEDUCED, log
entry 43) -/
def engineIssue (s : State) (o : Op) (cond : Option (BarRef × BitVec 16)) : Eff :=
  let met := match cond with | some c => s.startHolds c | none => true
  let start := match cond with | some (r, _) => s.acquireBar (BarRef.code r) s.grp | none => s
  if s.counterFull o.ctr || (cond.isSome && decide (2 ≤ s.deferredCount)) then .stall s
  else if met && s.queueFull o.cu o.kind.queue && cond.isNone then .stall s
  else if met && !s.queueFull o.cu o.kind.queue then
    .done (start.enqueue o)
  else .done (s.enqueue { o with deferred := cond })

/-- DEFERRED_ENTRY_START (R294): an entry whose condition holds enters its class queue, behind the entries that are there, once
that has a free slot. (DEDUCED, log entry 43) -/
def execDeferredEntryStart (op : Nat) (s : State) : Host.Outcome State Fault Refusal :=
  event s fun s =>
    match s.op? op with
    | none => s
    | some o =>
      match o.deferred with
      | none => s
      | some (r, gen) =>
        let here := match s.block? o.gid.l o.gid.blk with | some b => b.cu.isSome && !b.saved | none => false
        if s.startHolds (r, gen) && here && !s.queueFull o.cu o.kind.queue then
          let t := match s.group? o.gid with | some g => s.acquireBar (BarRef.code r) g | none => s
          { (t.setOp { o with deferred := none, entered := s.nextId }) with nextId := s.nextId + 1 }
        else s

/-! ### Shape records (R273, R274) -/

/-- A shape record's fields. -/
structure Shape where
  base : Nat
  fmt : BitVec 6
  rank : Nat
  pack : Nat
  size : List Nat
  stride : List Nat
  box : List Nat
  fill : BitVec 16
  keyv : Bool
  key : Nat
  sbs : Nat
  sstride : Nat
  saddr : Nat
  swz : Bool
  reserved : Bool
  deriving DecidableEq, Repr

/-- The fields of 512 bits (R273). -/
def Shape.of (x : BitVec 512) : Shape :=
  let f := recField x.toNat
  { base := f 0 52, fmt := BitVec.ofNat 6 (f 52 6), rank := f 58 3, pack := f 62 2,
    size := (List.range 7).map fun i => f (64 + 20 * i) 20,
    stride := 0 :: (List.range 6).map fun i => f (204 + 25 * i) 25,
    box := (List.range 7).map fun i => f (354 + 8 * i) 8,
    fill := BitVec.ofNat 16 (f 410 16), keyv := f 436 1 == 1, key := f 426 10, sbs := f 437 2, sstride := f 439 24,
    saddr := f 463 48, swz := f 61 1 == 1, reserved := f 511 1 == 1 }

/-- Bits of an element in scratchpad (R60, R273: ssize); 0 for an unassigned code. -/
def scratchBits (c : BitVec 6) : Nat :=
  match c.toNat with
  | 0 | 4 => 8
  | 1 | 5 => 16
  | 2 | 6 => 32
  | 3 | 7 => 64
  | 8 => 32
  | 9 | 10 => 16
  | 11 | 12 | 13 => 8
  | 14 | 15 => 4
  | 16 => 2
  | n => if 0x20 ≤ n ∧ n ≤ 0x3B then 8 else 0

/-- The format is 6-bit. -/
def isSix (c : BitVec 6) : Bool := c == 0x0C || c == 0x0D
/-- The format takes scales: binary8, 6-bit, 4-bit or T3 (R274, R304). -/
def isScaled (c : BitVec 6) : Bool := decide (0x20 ≤ c.toNat ∧ c.toNat ≤ 0x3B) || decide (0x0C ≤ c.toNat ∧ c.toNat ≤ 0x10)
/-- Bits of an element's code. -/
def codeBits (c : BitVec 6) : Nat := if isSix c then 6 else scratchBits c

/-- Box extent of dim i. -/
def Shape.ext (s : Shape) (i : Nat) : Nat := s.box.getD i 0 + 1

/-- The record breaks a rule of R274. -/
def Shape.bad (s : Shape) : Bool :=
  s.reserved || s.base % 16 != 0 || s.rank == 0 || (s.box.drop s.rank).any (· != 0)
    || scratchBits s.fmt == 0 || s.fmt == 0x0B
    || s.pack == 3 || (s.pack == 1 && !isSix s.fmt) || (s.pack == 2 && s.fmt != 0x10)
    || s.ext 0 * scratchBits s.fmt % 32 != 0 || (s.pack == 1 && s.ext 0 % 4 != 0)
    || decide (2 ≤ s.sbs) || (s.sbs == 1 && (!isScaled s.fmt || decide (2 < s.rank) || s.ext 0 % 32 != 0))

/-- The coordinates of a copy break a rule of R274. -/
def Shape.badCoords (s : Shape) (out : Bool) (c : List Int) : Bool :=
  let c0 := c.getD 0 0
  (s.pack == 1 && c0 % 4 != 0) || (s.pack == 2 && c0 % 5 != 0) || (s.sbs == 1 && c0 % 32 != 0)
    || (out && s.pack == 2 && s.ext 0 % 5 != 0)

/-- Bytes of an image row. -/
def Shape.rowb (s : Shape) : Nat := s.ext 0 * scratchBits s.fmt / 8
/-- Rows of the box. -/
def Shape.rows (s : Shape) : Nat := s.ext 1 * s.ext 2 * s.ext 3 * s.ext 4 * s.ext 5 * s.ext 6
/-- Bytes of the image. -/
def Shape.imgBytes (s : Shape) : Nat := s.rowb * s.rows
/-- Q and R of R283. -/
def Shape.q (s : Shape) : Nat := s.ext 0 / 32
/-- Rows per scale register (R283). -/
def Shape.r (s : Shape) : Nat := 128 / s.q
/-- Scale registers used (R302). -/
def Shape.regs (s : Shape) : Nat := if s.sbs = 1 then (s.ext 1 + s.r - 1) / s.r else 0

/-! ### Geometry (R275, R283) -/

/-- A row of the box: its number in image order, its dim-1 position, whether dims 1 and up are in bounds, and the address of
its element with g0 = 0. -/
structure BoxRow where
  n : Nat
  j1 : Nat
  inb : Bool
  va : Nat
  deriving DecidableEq, Repr

/-- Positions of row `n` in dims `i` and up, given their box extents. -/
def boxPos : Nat → List Nat → List Nat
  | _, [] => []
  | n, e :: t => n % (e + 1) :: boxPos (n / (e + 1)) t

/-- Row `n` of the box at these coordinates. -/
def Shape.row (s : Shape) (c : List Int) (n : Nat) : BoxRow :=
  let js := boxPos n (s.box.drop 1)
  let gs := (js.zip (c.drop 1)).map fun p => p.2 + (p.1 : Int)
  let used := gs.take (s.rank - 1)
  { n := n, j1 := js.headD 0,
    inb := (used.zip (s.size.drop 1)).all fun p => decide (0 ≤ p.1 ∧ p.1 ≤ (p.2 : Int)),
    va := s.base + ((used.zip (s.stride.drop 1)).map fun p => p.1.toNat * p.2 * 16).sum }

/-- All rows. -/
def Shape.allRows (s : Shape) (c : List Int) : List BoxRow := (List.range s.rows).map (s.row c)

/-- First and last dim-0 position in bounds; none if the box misses the tensor. -/
def Shape.span (s : Shape) (c : List Int) : Option (Nat × Nat) :=
  let c0 := c.getD 0 0
  let lo := max 0 (-c0)
  let hi := min (s.box.getD 0 0 : Int) ((s.size.getD 0 0 : Int) - c0)
  if lo ≤ hi then some (lo.toNat, hi.toNat) else none

/-- g0 of a position in bounds. -/
def gOf (c : List Int) (j0 : Nat) : Nat := (c.getD 0 0 + (j0 : Int)).toNat

/-- Bits from one element to the next in memory; ternary bytes (PACK 2) aside (R60, R62, R275). -/
def Shape.memBits (s : Shape) : Nat := if s.pack = 1 then 6 else scratchBits s.fmt

/-- First byte of element x in its row, and the byte after its last. -/
def Shape.byteSpan (s : Shape) (x : Nat) : Nat × Nat :=
  if s.pack = 2 then (x / 5, x / 5 + 1)
  else
    let w := if s.pack = 1 then 6 else s.memBits
    (x * s.memBits / 8, (x * s.memBits + w + 7) / 8)

/-- The virtual address range (start, length) that a row's elements in bounds occupy; length 0 if there is none. -/
def Shape.rowRange (s : Shape) (c : List Int) (r : BoxRow) : Nat × Nat :=
  match s.span c with
  | some (lo, hi) =>
    if r.inb then
      let a := (s.byteSpan (gOf c lo)).1
      (r.va + a, (s.byteSpan (gOf c hi)).2 - a)
    else (0, 0)
  | none => (0, 0)

/-- Whether the pair (row, scale block q) has inb (R283), for rows without dims above 1. -/
def Shape.scaleInb (s : Shape) (c : List Int) (r : BoxRow) (q : Nat) : Bool :=
  let x := c.getD 0 0 + (32 * q : Nat)
  r.inb && decide (0 ≤ x ∧ x ≤ (s.size.getD 0 0 : Int))

/-- The address of the scale of (row, q) (R283). -/
def Shape.scaleVa (s : Shape) (c : List Int) (r : BoxRow) (q : Nat) : Nat :=
  let g1 : Int := if s.rank = 2 then c.getD 1 0 + (r.j1 : Int) else 0
  (((s.saddr * 16 : Nat) : Int) + g1 * (s.sstride : Int) + c.getD 0 0 / 32 + (q : Int)).toNat

/-- The pairs with inb: row, q. -/
def Shape.scalePairs (s : Shape) (c : List Int) : List (BoxRow × Nat) :=
  if s.sbs = 1 then
    (s.allRows c).flatMap fun r => ((List.range s.q).filter (s.scaleInb c r)).map fun q => (r, q)
  else []

/-- The aligned 16-byte parts that a byte range meets. -/
def partsOf (r : Nat × Nat) : List Nat :=
  if r.2 = 0 then [] else (List.range ((r.1 + r.2 - 1) / 16 - r.1 / 16 + 1)).map (· + r.1 / 16)

/-- The memory parts of a copy in order: those of its rows, then those of its scale stream (R268). -/
def CopyOp.memParts (k : CopyOp) : List Nat :=
  let s := Shape.of k.shape
  ((s.allRows k.coords).flatMap (fun r => partsOf (s.rowRange k.coords r))
    ++ (s.scalePairs k.coords).map fun p => s.scaleVa k.coords p.1 p.2 / 16).eraseDups

/-! ### One memory part (R276, R278) -/

/-- The copy writes memory. -/
def CopyOp.out (k : CopyOp) : Bool := k.dir == .out

/-- What an engine does once the host has walked the pages of these addresses, if it is to walk them (R202, R406). -/
def State.whenWalked (s : State) (o : Op) (vas : List Nat) (t : State) : State :=
  match s.walkMissing o.cu.die none o.job vas with
  | some va => s.askWalk o.cu.die none o.job va
  | none => t

/-- What a part meets. -/
inductive PartReach where
  | ok (pa : Nat) (key : Option KeySlot)
  | fail (f : PartEnd)
  | lease
  deriving DecidableEq, Repr

/-- The checks of a part, `p` its address over 16: segments, lease, page kind, protection and key (R276, R278). -/
def State.reachPart (s : State) (o : Op) (k : CopyOp) (p : Nat) : PartReach :=
  let sh := Shape.of k.shape
  if !(k.segs.any fun r => decide (r.1 ≤ 16 * p ∧ 16 * p + 16 ≤ r.1 + r.2)) then .fail .range
  else
    match s.engineVa o.gid.l o.cu.die o.job (16 * p) with
    | .ok pa pte =>
      if pteKind pte ≠ 0 then .fail .range
      else if sh.keyv != pteProt pte then .fail .key
      else if !sh.keyv then .ok pa none
      else if pteKey pte ≠ sh.key then .fail .key
      else match s.pageKey o.job sh.key with
        | some x => .ok pa (some x)
        | none => .fail .key
    | _ => .lease

/-- Where the bytes of a part lie, if it may be performed. -/
def State.partLocs (s : State) (o : Op) (k : CopyOp) (p : Nat) : List Loc :=
  match s.reachPart o k p with
  | .ok pa _ => (List.range 16).map fun i => .dev (pa + i)
  | _ => []

/-- Plaintext of a part of device memory. (DEDUCED, log entry 40) -/
def State.plainPart (s : State) (p pa : Nat) (key : Option KeySlot) : List Byte :=
  Sys2Proof.Machine.plainPart key (16 * p) (readBytes s.mem pa 16)

/-- The bytes of a part that a copy from memory reads. -/
def State.readPart (s : State) (o : Op) (k : CopyOp) (i p : Nat) : Option PartData :=
  match s.reachPart o k p with
  | .lease => none
  | .fail f => some { i := i, bytes := List.replicate 16 0, fate := f }
  | .ok pa key => some { i := i, bytes := s.plainPart p pa key, fate := if s.poisoned (.dev pa) then .poison else .ok }

/-! ### Elements (R60 to R63, R275) -/

/-- The FILL code (R273). -/
def Shape.fillCode (s : Shape) : Nat :=
  let w := codeBits s.fmt
  (match s.fmt.toNat with
   | 8 => s.fill.toNat * 2 ^ 16
   | 2 | 3 => (s.fill.signExtend 64).toNat
   | _ => s.fill.toNat) % 2 ^ w

/-- The scratchpad code of a ternary digit. -/
def ternCode (d : Nat) : Nat := match d with | 0 => 3 | 1 => 0 | _ => 1
/-- The ternary digit of a scratchpad code; NaN becomes 1 (R63). -/
def ternDigit (c : Nat) : Nat := match c with | 3 => 0 | 1 => 2 | _ => 1

/-- The code of element x from the bytes of its row (as a number whose first byte is at `at_`), and whether a reserved
ternary code was expanded. (DEDUCED, log entry 40) -/
def Shape.getCode (s : Shape) (raw at_ x : Nat) : Nat × Bool :=
  if s.pack = 2 then
    let b := raw / 2 ^ (8 * (x / 5 - at_)) % 256
    if 243 ≤ b then (2, true) else (ternCode (b / 3 ^ (x % 5) % 3), false)
  else (raw / 2 ^ (x * s.memBits - 8 * at_) % 2 ^ codeBits s.fmt, false)

/-- The bytes of a range, from the parts that a copy has read, with the fate of each byte's part. -/
def CopyOp.bytesAt (k : CopyOp) (buf : List PartData) (r : Nat × Nat) : List (Byte × PartEnd) :=
  let parts := k.memParts
  let got := (partsOf r).flatMap fun p =>
    match buf.find? fun d => parts[d.i]? == some p with
    | some d => d.bytes.map fun b => (b, d.fate)
    | none => List.replicate 16 (0, .range)
  (got.drop (r.1 % 16)).take r.2

/-- What a copy into scratchpad makes of its parts: the image, the image bytes that are poisoned, scale registers with their
poison, and whether a reserved ternary code was expanded (R275, R283). -/
structure Image where
  bytes : List Byte
  poison : List Bool
  scales : List (List (Byte × Bool))
  badCode : Bool
  deriving DecidableEq, Repr

/-- One row of the image. -/
def CopyOp.imageRow (k : CopyOp) (buf : List PartData) (r : BoxRow) : List Byte × List Bool × Bool :=
  let s := Shape.of k.shape
  let range := s.rowRange k.coords r
  let got := k.bytesAt buf range
  let raw := leNat (got.map Prod.fst)
  let at_ := range.1 - r.va
  let sb := scratchBits s.fmt
  let elems : List ((Nat × Bool) × Bool) := (List.range (s.ext 0)).map fun j0 =>
    match s.span k.coords with
    | some (lo, hi) =>
      if range.2 ≠ 0 ∧ lo ≤ j0 ∧ j0 ≤ hi then
        let x := gOf k.coords j0
        let bs := s.byteSpan x
        let fates := ((got.drop (bs.1 - at_)).take (bs.2 - bs.1)).map Prod.snd
        if fates.any fun (f : PartEnd) => f == PartEnd.range || f == PartEnd.key then ((0, false), false)
        else (s.getCode raw at_ x, fates.contains PartEnd.poison)
      else ((s.fillCode, false), false)
    | none => ((s.fillCode, false), false)
  let val := (elems.zipIdx.map fun e => e.1.1.1 * 2 ^ (e.2 * sb)).sum
  let pois := (List.range s.rowb).map fun b => elems.zipIdx.any fun e =>
    e.1.2 && decide (e.2 * sb / 8 ≤ b ∧ b ≤ (e.2 * sb + sb - 1) / 8)
  (leBytes s.rowb val, pois, elems.any fun e => e.1.2)

/-- The image and scales of a copy into scratchpad. -/
def CopyOp.image (k : CopyOp) (buf : List PartData) : Image :=
  let s := Shape.of k.shape
  let rows := (s.allRows k.coords).map (k.imageRow buf)
  let pairs := s.scalePairs k.coords
  let scale (reg n : Nat) : Byte × Bool :=
    match pairs.find? fun p => p.1.j1 / s.r == reg && p.1.j1 % s.r * s.q + p.2 == n with
    | some p => match k.bytesAt buf (s.scaleVa k.coords p.1 p.2, 1) with
      | (b, f) :: _ => if f == .range || f == .key then (0, false) else (b, f == .poison)
      | [] => (0, false)
    | none => (0x7F, false)
  { bytes := rows.flatMap fun r => r.1, poison := rows.flatMap fun r => r.2.1,
    scales := (List.range s.regs).map fun i => (List.range 128).map (scale i), badCode := rows.any fun r => r.2.2 }

/-! ### Copies into memory (R63, R275, R303) -/

/-- Lay element x with this code over a part: `old` are the part's 16 bytes as a number, `va` the row's address, `p` the
part. Whether a NaN was contracted or a reserved byte rewritten in part (R63); `lo` and `hi` bound the elements
written. (DEDUCED, log entry 40) -/
def Shape.putCode (s : Shape) (old va p lo hi x code : Nat) : Nat × Bool :=
  if s.pack = 2 then
    let a := va + x / 5
    if a / 16 ≠ p then (old, false)
    else
      let sh := 8 * (a % 16)
      let b := old / 2 ^ sh % 256
      let first := x / 5 * 5
      let whole := decide (lo ≤ first ∧ first + 4 ≤ hi)
      let b' := if 243 ≤ b then 121 else b
      let d := b' / 3 ^ (x % 5) % 3
      let n := b' - d * 3 ^ (x % 5) + ternDigit code * 3 ^ (x % 5)
      (old - b * 2 ^ sh + n * 2 ^ sh, code == 2 || (decide (243 ≤ b) && !whole))
  else
    let w := if s.pack = 1 then 6 else s.memBits
    let bit : Int := ((8 * va + x * s.memBits : Nat) : Int) - ((128 * p : Nat) : Int)
    let place (v : Nat) : Nat := (if 0 ≤ bit then v * 2 ^ bit.toNat else v / 2 ^ (-bit).toNat) % 2 ^ 128
    let mask := place (2 ^ w - 1)
    (old - (old &&& mask) + (place code &&& mask), false)

/-- Bytes of an image row as a copy out of scratchpad reads them, and which are poisoned; a byte that a party has written
meanwhile is free (R303). -/
def State.imageBytes (s : State) (o : Op) (off n : Nat) : List Byte × List Bool :=
  let ps := (List.range n).map fun i => Loc.scr o.gid.l o.gid.blk (off + i)
  (ps.zipIdx.map fun p => if o.spoilt.contains p.1 then Config.freeByte s.fresh (off + p.2) else s.readLoc p.1,
   ps.map s.poisoned)

/-- What a part of memory becomes when a copy out of scratchpad writes it: its bytes, which of them it writes (R275), whether a
source of those was poisoned (R278), and bad code. -/
structure OutPart where
  bytes : List Byte
  written : List Nat
  poison : Bool
  bad : Bool
  deriving DecidableEq, Repr

/-- The part after the elements of a row's span. -/
def State.outPart (s : State) (o : Op) (k : CopyOp) (p : Nat) (old : List Byte) : OutPart :=
  let sh := Shape.of k.shape
  let sb := scratchBits sh.fmt
  let img0 := ctlSlot k.ctl * 1024
  let step (acc : Nat × List Nat × Bool × Bool) (r : BoxRow) : Nat × List Nat × Bool × Bool :=
    let range := sh.rowRange k.coords r
    if range.2 = 0 ∨ 16 * p + 16 ≤ range.1 ∨ range.1 + range.2 ≤ 16 * p then acc
    else
      match sh.span k.coords with
      | none => acc
      | some (lo, hi) =>
        let row := s.imageBytes o (img0 + r.n * sh.rowb) sh.rowb
        let raw := leNat row.1
        let (glo, ghi) := (gOf k.coords lo, gOf k.coords hi)
        (List.range (hi + 1 - lo)).foldl (fun (acc : Nat × List Nat × Bool × Bool) i =>
          let x := glo + i
          let bs := sh.byteSpan x
          if r.va + bs.2 ≤ 16 * p ∨ 16 * p + 16 ≤ r.va + bs.1 then acc
          else
            let q := sh.putCode acc.1 r.va p glo ghi x (raw / 2 ^ ((lo + i) * sb) % 2 ^ codeBits sh.fmt)
            let first := (lo + i) * sb / 8
            let n := ((lo + i) * sb % 8 + sb + 7) / 8
            (q.1, acc.2.1 ++ (List.range (bs.2 - bs.1)).map (r.va + bs.1 + ·),
             acc.2.2.1 || ((row.2.drop first).take n).contains true, acc.2.2.2 || q.2)) acc
  let rows := (sh.allRows k.coords).foldl step (leNat old, [], false, false)
  let regs := match s.block? o.gid.l o.gid.blk with | some b => b.sc | none => []
  let out : OutPart := { bytes := leBytes 16 rows.1, written := rows.2.1, poison := rows.2.2.1, bad := rows.2.2.2 }
  let out := (sh.scalePairs k.coords).foldl (fun (out : OutPart) x =>
    let a := sh.scaleVa k.coords x.1 x.2
    if a / 16 = p then
      let reg := regs.getD (ctlSC k.ctl + x.1.j1 / sh.r) { bytes := [], poison := [], tag := none }
      let n := x.1.j1 % sh.r * sh.q + x.2
      { out with bytes := out.bytes.set (a % 16) (reg.bytes.getD n 0), written := a :: out.written,
                 poison := out.poison || reg.poison.contains n }
    else out) out
  { out with written := ((List.range 16).map (16 * p + ·)).filter out.written.contains }

/-- Bytes written by an engine: memory, poison, versions aside; other parties' transactions and operations (R194, R230,
R268). -/
def State.engineWrite (s : State) (o : Op) (ps : List Loc) (vs : List Byte) : State :=
  s.placeBy (some o.id) (some o.gid) (some o.cu) ps vs

/-- A copy out of scratchpad performs one part. -/
def State.writePart (s : State) (o : Op) (k : CopyOp) (i p : Nat) : Option (State × PartData × Bool) :=
  match s.reachPart o k p with
  | .lease => none
  | .fail f => some (s, { i := i, bytes := [], fate := f }, false)
  | .ok pa key =>
    let r := s.outPart o k p (s.plainPart p pa key)
    let at_ (n : Nat) : Loc := .dev (pa + (n - 16 * p))
    let s := s.engineWrite o (r.written.map at_) (r.written.map fun n => r.bytes.getD (n - 16 * p) 0)
    let s := match key with
      | none => s
      | some _ => s.putBytes (some o.gid) (some o.cu) ((List.range 16).map fun j => Loc.dev (pa + j)) (storedPart key (16 * p) r.bytes)
    let s := if r.poison then s.addPoison (.dev pa) else s
    some (s, { i := i, bytes := [], fate := if r.poison then .poison else .ok }, r.bad)

/-- An entry at its place among those that entered a queue before it. -/
def enterOrder (o : Op) : List Op → List Op
  | [] => [o]
  | p :: t => if p.entered ≤ o.entered then p :: enterOrder o t else o :: p :: t

/-- Entries of a queue in the order in which they entered it (R293, R294). -/
def inOrder (os : List Op) : List Op := os.foldl (fun acc o => enterOrder o acc) []

/-- COPY_START (R293): role 1 first; after 7 role-1 starts in a row, the oldest other entry. -/
def State.nextCopy (s : State) (cu : CuRef) : Option Op :=
  let q := inOrder (s.ops.filter fun o => o.cu == cu && o.kind.queue == .copy && !o.started && o.deferred.isNone)
  let run := ((s.copyRuns.find? (·.1 == cu)).map Prod.snd).getD 0
  match q.find? (·.role == 1), q.find? (·.role != 1) with
  | some x, some y => if run < 7 then some x else some y
  | some x, none => some x
  | none, y => y

/-- COPY_START (R293). (DEDUCED, log entry 40) -/
def execCopyStart (op : Nat) (s : State) : Host.Outcome State Fault Refusal :=
  event s fun s =>
    match s.op? op with
    | none => s
    | some o =>
      if s.nextCopy o.cu = some o then
        let run := ((s.copyRuns.find? (·.1 == o.cu)).map Prod.snd).getD 0
        let s := s.setOp { o with started := true }
        { s with copyRuns := (o.cu, if o.role = 1 then run + 1 else 0) :: s.copyRuns.filter fun x => x.1 != o.cu }
      else s

/-- CST bits of a part's fate (R279). -/
def PartEnd.cst : PartEnd → BitVec 4
  | .ok => 0
  | .range => 8
  | .key => 2
  | .poison => 4

/-- Change an operation as it now stands. -/
def State.updOp (s : State) (i : Nat) (f : Op → Op) : State :=
  { s with ops := s.ops.map fun (o : Op) => if o.id == i then f o else o }

/-- COPY_PART (R276): part `i` of a copy that has started is performed, after the acquires of its group that precede the copy
(R267 note 4). (DEDUCED, log entry 40) -/
def execCopyPart (op i : Nat) (s : State) : Host.Outcome State Fault Refusal :=
  event s fun s =>
    match s.op? op with
    | none => s
    | some o =>
      match o.kind with
      | .copy k =>
        match k.memParts[i]? with
        | none => s
        | some p =>
          if !o.started || o.parts.contains i || !s.engineMay o k.out (s.partLocs o k p) then s
          else s.whenWalked o [16 * p] <|
            if k.out then
              match s.writePart o k i p with
              | none => s.violate o
              | some (s, d, bad) => s.updOp op fun o =>
                  { o with parts := i :: o.parts, buf := d :: o.buf,
                           cst := o.cst ||| d.fate.cst ||| (if bad then 1 else 0) }
            else
              match s.readPart o k i p with
              | none => s.violate o
              | some d => s.updOp op fun o =>
                  { o with parts := i :: o.parts, buf := d :: o.buf, cst := o.cst ||| d.fate.cst }
      | _ => s

/-! ### Completion (R280) -/

/-- Matrix operations of a block on these scale registers give undefined results after a write to one (R269, R312). -/
def MatKind.scales : MatKind → List Nat
  | .mma _ a b => a.regs ++ b.regs
  | .mmag _ a _ _ b => a.regs ++ b.regs
  | .mmat _ a da b db => a.regs ++ da.regs ++ b.regs ++ db.regs
  | _ => []

/-- Scale registers of a block have been written. -/
def State.scaleWritten (s : State) (l blk : Nat) (regs : List Nat) : State :=
  { s with ops := s.ops.map fun (o : Op) =>
      match o.kind with
      | .mat m _ _ => if o.gid.l == l && o.gid.blk == blk && m.scales.any regs.contains then { o with clobbered := true } else o
      | _ => o }

/-- Write a tag: the same tag leaves every other register of the block (R284). -/
def Block.bind (b : Block) (x : Nat) (tag : Nat × BitVec 8) : Block :=
  { b with sc := b.sc.zipIdx.map fun (r : ScaleReg × Nat) =>
      if r.2 == x then { r.1 with tag := some tag } else if r.1.tag == some tag then { r.1 with tag := none } else r.1 }

/-- Write the bytes of a scale register, each poisoned or not. -/
def Block.setScale (b : Block) (x : Nat) (bs : List (Byte × Bool)) : Block :=
  { b with sc := b.sc.zipIdx.map fun (r : ScaleReg × Nat) =>
      if r.2 == x then
        { r.1 with bytes := bs.map Prod.fst, poison := (bs.zipIdx.filter fun y => y.1.2).map Prod.snd }
      else r.1 }

/-- The poison of a block's scratchpad after bytes from `off` are written, each poisoned or not: a codeword written
whole is cleared, one that a poisoned byte reaches is marked (R210, R278). -/
def Block.markPoison (b : Block) (off : Nat) (ps : List Bool) : Block :=
  let marked := ((ps.zipIdx.filter fun (x : Bool × Nat) => x.1).map fun (x : Bool × Nat) => (off + x.2) / 64).eraseDups
  let whole (c : Nat) : Bool := decide (off ≤ 64 * c ∧ 64 * c + 64 ≤ off + ps.length)
  { b with scratchPoison := (b.scratchPoison.filter fun c => !whole c && !marked.contains c) ++ marked }

/-- The places of `n` bytes of a block's sg1. -/
def scratchPlaces (l blk off n : Nat) : List Loc := (List.range n).map fun i => .scr l blk (off + i)

/-- Bytes that lanes have written since issue among those that an engine's operation writes: undefined (R268). -/
def State.loseWritten (s : State) (o : Op) (ps : List Loc) : State :=
  let lost := ps.filter o.spoilt.contains
  if lost.isEmpty then s else s.engineWrite o lost (lost.zipIdx.map fun x => Config.freeByte s.fresh x.2)

/-- Bytes that an engine writes into a block's sg1 in parts of 16 bytes, numbered from `first` among the operation's: some or all of
those that are left, in no stated order (R258, R268). With the last, what lanes have written there since issue is free, versions
advance (R194) and poison is as the data has it (R210). The parts written, and whether they were the last. (DEDUCED, log
entry 40) -/
def State.writeImage (s : State) (o : Op) (first blk off : Nat) (bs : List Byte) (pois : List Bool) : State × List Nat × Bool :=
  let left := (List.range ((bs.length + 15) / 16)).filter fun j => !o.parts.contains (first + j)
  let now := s.nextPieces left left
  let ps := now.flatMap fun j => scratchPlaces o.gid.l blk (off + 16 * j) (min 16 (bs.length - 16 * j))
  let s := (s.spoil false (some o.gid) (some o.id) ps).writeLocs ps (now.flatMap fun j => (bs.drop (16 * j)).take 16)
  if now.length = left.length then
    let all := scratchPlaces o.gid.l blk off bs.length
    (((s.loseWritten o all).updBlock o.gid.l blk fun b => b.markPoison off pois).advanceSlots all, now.map (first + ·), true)
  else
    ((now.filter fun j => ((pois.drop (16 * j)).take 16).contains true).foldl
      (fun (s : State) j => s.addPoison (.scr o.gid.l blk (off + 16 * j))) s, now.map (first + ·), false)

/-- The scale registers that a copy writes and binds (R283): after the versions have advanced. -/
def State.writeScales (s : State) (o : Op) (k : CopyOp) (scales : List (List (Byte × Bool))) : State :=
  let sh := Shape.of k.shape
  let first := ctlSC k.ctl
  let s := s.updBlock o.gid.l k.blk fun b =>
    scales.zipIdx.foldl (fun (b : Block) (x : List (Byte × Bool) × Nat) =>
      let slot := ctlSlot k.ctl + x.2 * sh.r * sh.rowb / 1024
      (b.setScale (first + x.2) x.1).bind (first + x.2) (slot, b.version slot)) b
  if scales.isEmpty then s else s.scaleWritten o.gid.l k.blk ((List.range scales.length).map fun i => first + i)

/-- Each slot of an image takes its copy's swizzle mode (R277). -/
def Block.setSwz (b : Block) (first n : Nat) (m : Bool) : Block :=
  { b with swz := b.swz.zipIdx.map fun (x : Bool × Nat) => if decide (first ≤ x.2 ∧ x.2 < first + n) then m else x.1 }

/-- Steps 3 to 5 of R280: CST, bytes to the barrier, the counter. (DEDUCED, log entry 40) -/
def State.settleCopy (s : State) (o : Op) : State :=
  let s := s.updGroup o.gid fun g => { g with cst := g.cst ||| o.cst }
  let s := match o.bar with | some r => s.countBytes r o.bytes | none => s
  s.finishOp o

/-- Memory bytes that a copy out of scratchpad leaves undefined: those from source bytes that a party wrote before it
completed, and those that a party wrote itself (R268, R303). -/
def State.undefinedOut (s : State) (o : Op) (k : CopyOp) : List Loc :=
  let sh := Shape.of k.shape
  let sb := scratchBits sh.fmt
  let img0 := ctlSlot k.ctl * 1024
  let vas := (sh.allRows k.coords).flatMap fun r =>
    match sh.span k.coords with
    | some (lo, hi) =>
      if r.inb then
        (List.range (hi + 1 - lo)).flatMap fun i =>
          let j0 := lo + i
          let first := img0 + r.n * sh.rowb + j0 * sb / 8
          let n := (j0 * sb % 8 + sb + 7) / 8
          if (List.range n).any fun x => o.spoilt.contains (Loc.scr o.gid.l o.gid.blk (first + x)) then
            let bs := sh.byteSpan (gOf k.coords j0)
            (List.range (bs.2 - bs.1)).map fun x => r.va + bs.1 + x
          else []
      else []
    | none => []
  let own := vas.filterMap fun va =>
    match s.reachPart o k (va / 16) with | .ok pa _ => some (Loc.dev (pa + va % 16)) | _ => none
  own ++ o.spoilt.filter fun p => match p with | .dev _ => true | _ => false

/-- The bytes of memory that a copy out of scratchpad has written and that carry no poison. -/
def State.cleanOut (s : State) (o : Op) (k : CopyOp) : List Loc :=
  k.memParts.zipIdx.flatMap fun x =>
    if o.buf.any fun d => d.i == x.2 && d.fate == .ok then
      match s.reachPart o k x.1 with
      | .ok pa _ => (s.outPart o k x.1 []).written.map fun n => .dev (pa + (n - 16 * x.1))
      | _ => []
    else []

/-- COPY_COMPLETE (R268, R280): a copy that has started and all of whose memory parts have been performed writes parts of its image;
with the last it completes in one step. (DEDUCED, log entry 40) -/
def execCopyComplete (op : Nat) (s : State) : Host.Outcome State Fault Refusal :=
  event s fun s =>
    match s.op? op with
    | none => s
    | some o =>
      match o.kind with
      | .copy k =>
        let image := if k.out then [] else scratchPlaces o.gid.l k.blk (ctlSlot k.ctl * 1024) (Shape.of k.shape).imgBytes
        if !o.started || !((List.range k.memParts.length).all o.parts.contains) || !s.engineMay o true image then s
        else if k.out then
          let ps := (s.undefinedOut o k).eraseDups
          let s := if ps.isEmpty then s
            else s.engineWrite o ps (ps.zipIdx.map fun (x : Loc × Nat) => Config.freeByte s.fresh x.2)
          (s.clearPoison (s.cleanOut o k)).settleCopy o
        else
          let sh := Shape.of k.shape
          let im := k.image o.buf
          let r := s.writeImage o k.memParts.length k.blk (ctlSlot k.ctl * 1024) im.bytes im.poison
          if r.2.2 then
            let s := r.1.updBlock o.gid.l k.blk fun b => b.setSwz (ctlSlot k.ctl) ((sh.imgBytes + 1023) / 1024) sh.swz
            let s := s.writeScales o k im.scales
            s.settleCopy { o with cst := o.cst ||| (if im.badCode then 1 else 0) }
          else r.1.updOp op fun o => { o with parts := o.parts ++ r.2.1 }
      | _ => s

/-! ### SHAPE (R301) -/

/-- Bytes that a relaxed load of the issuing group returns at once (R199, R229, R268). -/
def State.readNow (s : State) (ps : List Loc) : List Byte :=
  ps.zipIdx.map fun p => s.loadByte (s.newOp none .results) none s.grp.tx p.2 p.1

/-- bad shape. -/
def excShape : Exc := exc 13

/-- SHAPE (R301). -/
def execShape (g : PReg) (a : Reg) (n : BitVec 3) (s : State) : Host.Outcome State Fault Refusal :=
  issue s fun s => single s g [] <|
    let x := s.readS a
    match s.checkAccess .unwatched (segOf x) (baseHigh x) [0, 4] 1 64 [{ lane := 0, off := x.toNat % 2 ^ 52 }] true with
    | .stop e => e
    | .ok accs =>
      let ps := accs.flatMap Acc.locs
      if s.busyLocs ps then .stall s
      else
        let r := BitVec.ofNat 512 (leNat (s.readNow ps))
        if (Shape.of r).bad then .trap excShape
        else .done (s.setGrp fun g => { g with sh := g.sh.set n.toNat r n.isLt })

/-! ### CPY_IN, CPY_OUT, CPY_REM (R302) -/

/-- The coordinates c0 to c6 from four scalars (R302). -/
def State.coords (s : State) (b : Reg) : List Int :=
  let at_ (i : Nat) : BitVec 64 := s.readS (b + BitVec.ofNat 5 i)
  ((List.range 4).flatMap fun i => [((at_ i).setWidth 32).toInt, ((at_ i).extractLsb' 32 32).toInt]).take 7

/-- The physical ranges of device memory that a copy out of scratchpad writes. -/
def State.outRanges (s : State) (o : Op) (k : CopyOp) : List (Nat × Nat) :=
  let sh := Shape.of k.shape
  let ranges := ((sh.allRows k.coords).map (sh.rowRange k.coords)) ++
    (sh.scalePairs k.coords).map fun p => (sh.scaleVa k.coords p.1 p.2, 1)
  ranges.flatMap fun r => (partsOf r).filterMap fun p =>
    let lo := max r.1 (16 * p)
    let hi := min (r.1 + r.2) (16 * p + 16)
    match s.reachPart o k p with | .ok pa _ => some (pa + (lo - 16 * p), hi - lo) | _ => none

/-- A segment of the issuing group as a range of addresses. -/
def Group.segRange (g : Group) (n : Nat) : Nat × Nat := (g.segBase n, g.limit n)

/-- The three copies (R297 order: shape, ranges, barriers; then the stalls). -/
def copyIssue (dir : CopyDir) (g : PReg) (n : BitVec 3) (a b : Reg) (s : State) : Eff :=
  single s g [] <|
    let rec_ := s.grp.sh[n.toFin]
    let sh := Shape.of rec_
    let c := s.readS a
    let cs := s.coords b
    let used := (sh.imgBytes + 1023) / 1024
    let slots := s.mySlots
    let far := dir == .rem && decide (s.clusterSize ≤ ctlTgt c)
    let blk := if dir = .rem then s.clusterBlock (ctlTgt c) else s.grp.id.blk
    if sh.bad || sh.badCoords (dir == .out) cs then .trap excShape
    else if far || decide (slots < ctlSlot c + used) || (sh.regs != 0 && decide (slots / 8 < ctlSC c + sh.regs)) then
      .trap s.excLimit
    else
      match s.ctlBars c blk (dir != .into) with
      | .error code => .trap (excBarrier code)
      | .ok (bar, cond) =>
        let segs := [s.grp.segRange 0, s.grp.segRange 7] ++ (if dir = .out then [] else [s.grp.segRange 4])
        let k : CopyOp := { dir := dir, shape := rec_, coords := cs, ctl := c, blk := blk, segs := segs }
        let image := (ctlSlot c * 1024, sh.imgBytes)
        let o := { s.newOp (some .cp) (.copy k) with bar := bar, bytes := sh.imgBytes }
        let o := if dir = .out then { o with src := [image], dst := s.outRanges o k }
          else { o with img := [(blk, image.1, image.2)] }
        engineIssue s o cond

/-- CPY_IN (R302). -/
def execCpyIn (g : PReg) (n : BitVec 3) (a b : Reg) (s : State) : Host.Outcome State Fault Refusal :=
  issue s (copyIssue .into g n a b)

/-- CPY_OUT (R302). -/
def execCpyOut (g : PReg) (n : BitVec 3) (a b : Reg) (s : State) : Host.Outcome State Fault Refusal :=
  issue s (copyIssue .out g n a b)

/-- CPY_REM (R302). -/
def execCpyRem (g : PReg) (n : BitVec 3) (a b : Reg) (s : State) : Host.Outcome State Fault Refusal :=
  issue s (copyIssue .rem g n a b)

/-! ### OPRDY (R290, R308) -/

/-- A copy, an AMST or a drain: what OPRDY waits for (R290, R308). -/
def OpKind.fills : OpKind → Bool
  | .copy _ | .mat .. | .drain .. => true
  | _ => false

/-- OPRDY (R308): it waits for the copies, AMSTs and drains that write a slot of the range, and is an acquire at .BLK. (DEDUCED,
log entry 40) -/
def execOprdy (a b : Reg) (s : State) : Host.Outcome State Fault Refusal :=
  issue s fun s =>
    let first := (s.readS a).toNat % 512
    let n := (s.readS b).toNat % 1024
    let i := s.grp.id
    if s.inTx then .trap excTx
    else if decide (512 < n) || decide (s.mySlots < first + n) then .trap s.excLimit
    else
      let busy := s.ops.any fun (o : Op) =>
        o.gid.l == i.l && o.kind.fills && o.img.any fun r =>
          r.1 == i.blk && decide (0 < n ∧ r.2.1 / 1024 < first + n ∧ first * 1024 < r.2.1 + r.2.2)
      if busy then .stall s else .done (s.acquire i s.grp.place.part.cu false)

/-! ### Scale sub-ops (R312) -/

/-- A scale sub-op on registers `xs` of the issuing block: out of the share is segment limit. -/
def scaleOp (s : State) (xs : List (BitVec 6)) (k : Block → Eff) : Eff :=
  match s.myBlock with
  | none => .trap s.excLimit
  | some b => if xs.any fun x => decide (b.sc.length ≤ x.toNat) then .trap s.excLimit else k b

/-- The bytes of a scale register. -/
def Block.scale (b : Block) (x : BitVec 6) : List Byte := (b.sc.getD x.toNat { bytes := [], poison := [], tag := none }).bytes

/-- The bytes of a scale register, each poisoned or not: poison travels with the data (R210). -/
def Block.scaleData (b : Block) (x : BitVec 6) : List (Byte × Bool) :=
  let r := b.sc.getD x.toNat { bytes := [], poison := [], tag := none }
  r.bytes.zipIdx.map fun y => (y.1, r.poison.contains y.2)

/-- New bytes in a register of the issuing block. -/
def State.setScale (s : State) (x : BitVec 6) (bs : List (Byte × Bool)) : State :=
  (s.updBlock s.grp.id.l s.grp.id.blk fun b => b.setScale x.toNat bs).scaleWritten s.grp.id.l s.grp.id.blk [x.toNat]

/-- SCBIND (R312). -/
def execScbind (x : BitVec 6) (b : Reg) (s : State) : Host.Outcome State Fault Refusal :=
  issue s fun s => scaleOp s [x] fun k =>
    let slot := (s.readS b).toNat % 512
    if k.slots ≤ slot then .trap s.excLimit
    else .done (s.updBlock s.grp.id.l s.grp.id.blk fun k => k.bind x.toNat (slot, k.version slot))

/-- SCMOV (R312). -/
def execScmov (x y : BitVec 6) (s : State) : Host.Outcome State Fault Refusal :=
  issue s fun s => scaleOp s [x, y] fun k => .done (s.setScale x (k.scaleData y))

/-- Bytes `at_` onward of a list replaced. -/
def overwrite {α : Type} (bs : List α) (at_ : Nat) (new : List α) : List α :=
  bs.take at_ ++ new ++ bs.drop (at_ + new.length)

/-- SCSET (R312). -/
def execScset (x : BitVec 6) (j : BitVec 4) (b : Reg) (s : State) : Host.Outcome State Fault Refusal :=
  issue s fun s => scaleOp s [x] fun k =>
    .done (s.setScale x (overwrite (k.scaleData x) (8 * j.toNat) ((leBytes 8 (s.readS b).toNat).map fun y => (y, false))))

/-- uncorrectable data of a scale register's word: TADDR the offset of the byte in the register. (DEDUCED, log entry 32) -/
def Block.scalePoison (b : Block) (x : BitVec 6) (lo n : Nat) : Option Exc :=
  (((b.scaleData x).zipIdx.drop lo).take n |>.find? fun y => y.1.2).map fun y =>
    { code := 22, addr := BitVec.ofNat 64 y.2, mask := 0, info := 0 }

/-- SCGET (R312); a poisoned byte is uncorrectable data (R210). -/
def execScget (x : BitVec 6) (j : BitVec 4) (b : Reg) (s : State) : Host.Outcome State Fault Refusal :=
  issue s fun s => scaleOp s [x] fun k =>
    match k.scalePoison x (8 * j.toNat) 8 with
    | some e => .trap e
    | none => .done (s.writeS b (BitVec.ofNat 64 (leNat (((k.scale x).drop (8 * j.toNat)).take 8))) 2)

/-- The product of two UE8 scales (R312). -/
def scaleMul (x y : Byte) : Byte :=
  if x = 0xFF ∨ y = 0xFF then 0xFF else BitVec.ofNat 8 (min (x.toNat + y.toNat - 127) 0xFE)

/-- The larger of two UE8 scales (R312). -/
def scaleMax (x y : Byte) : Byte := if x = 0xFF ∨ y = 0xFF then 0xFF else BitVec.ofNat 8 (max x.toNat y.toNat)

/-- SCMUL (R312). -/
def execScmul (x y : BitVec 6) (s : State) : Host.Outcome State Fault Refusal :=
  issue s fun s => scaleOp s [x, y] fun k =>
    .done (s.setScale x (((k.scaleData x).zip (k.scaleData y)).map fun p => (scaleMul p.1.1 p.2.1, p.1.2 || p.2.2)))

/-- SCMAX (R312). -/
def execScmax (x y : BitVec 6) (s : State) : Host.Outcome State Fault Refusal :=
  issue s fun s => scaleOp s [x, y] fun k =>
    .done (s.setScale x (((k.scaleData x).zip (k.scaleData y)).map fun p => (scaleMax p.1.1 p.2.1, p.1.2 || p.2.2)))

/-- SCREL (R312). -/
def execScrel (x : BitVec 6) (s : State) : Host.Outcome State Fault Refusal :=
  issue s fun s => scaleOp s [x] fun _ =>
    .done (s.updBlock s.grp.id.l s.grp.id.blk fun k =>
      { k with sc := k.sc.zipIdx.map fun (r : ScaleReg × Nat) => if r.2 == x.toNat then { r.1 with tag := none } else r.1 })

end Sys2Proof.Machine
end

