-- ==== Sys2Proof/Machine/Matrix.lean ====
section
/-! DEFINITION. The matrix engine, accumulator memory and drains (R74, R195, R240, R287 to R291, R295, R304 to R311). -/

namespace Sys2Proof.Machine

/-! ### Accumulator tiles (R195, R288) -/

/-- `n` words from index `i` of an ascending sparse list; words not listed are 0. -/
def expandWords : Nat → Nat → List (Nat × BitVec 32) → List (BitVec 32)
  | 0, _, _ => []
  | n + 1, i, [] => 0 :: expandWords n (i + 1) []
  | n + 1, i, (a, v) :: t => if a = i then v :: expandWords n (i + 1) t else 0 :: expandWords n (i + 1) ((a, v) :: t)

/-- The 4,096 words of a tile in row-major order. (DESIGN CHOICE, log entry 1) -/
def Block.tile (b : Block) (t : Nat) : List (BitVec 32) :=
  expandWords 4096 (4096 * t) (b.acc.filter fun x => decide (4096 * t ≤ x.1 ∧ x.1 < 4096 * (t + 1)))

/-- Elements of a tile that are poisoned. -/
def Block.tilePoison (b : Block) (t : Nat) : List Nat :=
  (b.accPoison.filter fun i => i / 4096 == t).map (· % 4096)

/-! ### Operand formats (R288) -/

/-- K and the run length of a matrix format; none outside the table. -/
def matFormat (c : BitVec 6) : Option (Nat × Nat) :=
  let n := c.toNat
  if (0x20 ≤ n ∧ n ≤ 0x3B) ∨ isSix c then some (64, 32)
  else if n = 0x0E ∨ n = 0x0F ∨ n = 0x10 then some (128, 32)
  else if n = 0x09 ∨ n = 0x0A then some (32, 16)
  else none

/-- K of a format. -/
def matK (c : BitVec 6) : Nat := match matFormat c with | some f => f.1 | none => 0
/-- Bytes of a row of K elements (R305). -/
def matRow (c : BitVec 6) : Nat := matK c * scratchBits c / 8
/-- Q of R305. -/
def matQ (c : BitVec 6) : Nat := matK c / 32
/-- Rows per scale register. -/
def matR (c : BitVec 6) : Nat := 128 / matQ c

/-- The format pair is in one K class (R288). -/
def matPairOk (f : BitVec 64) : Bool :=
  match matFormat (fmtAF f), matFormat (fmtBF f) with
  | some x, some y => x == y
  | _, _ => false

/-- Slots of an operand of `rows` rows. -/
def matSlots (c : BitVec 6) (rows : Nat) : Nat := (rows * matRow c + 1023) / 1024

/-- The tags that a scaled operand of `rows` rows needs (R283, R285): none for an operand without scales. -/
def Block.tags (b : Block) (c : BitVec 6) (ns : Bool) (slot rows : Nat) : List (Nat × BitVec 8) :=
  if isScaled c && !ns then
    (List.range ((rows + matR c - 1) / matR c)).map fun i =>
      let s := slot + i * matR c * matRow c / 1024
      (s, b.version s)
  else []

/-- The registers bound to tags, or the slot of the first tag that no register holds (R285). (DEDUCED, log entry 42) -/
def Block.findTags (b : Block) : List (Nat × BitVec 8) → Except Nat (List Nat)
  | [] => .ok []
  | t :: ts =>
    match (b.sc.zipIdx.find? fun (r : ScaleReg × Nat) => r.1.tag == some t).map Prod.snd, Block.findTags b ts with
    | none, _ => .error t.1
    | some _, .error e => .error e
    | some r, .ok rs => .ok (r :: rs)

/-! ### Operands as values (R305, R306) -/

/-- `n` bytes of scratchpad from `a`, in one pass over the cells. -/
def scratchSpan : Nat → Nat → List Host.Cell → List Byte
  | 0, _, _ => []
  | n + 1, i, [] => unlisted :: scratchSpan n (i + 1) []
  | n + 1, i, (a, v) :: t => if a = i then v :: scratchSpan n (i + 1) t else unlisted :: scratchSpan n (i + 1) ((a, v) :: t)

/-- The bytes of a range of sg1. -/
def Block.span (b : Block) (a n : Nat) : List Byte :=
  scratchSpan n a (b.scratch.filter fun c => decide (a ≤ c.1 ∧ c.1 < a + n))

/-- A row of K elements at an sg1 offset; an element on a poisoned byte is NaN (R288). -/
def Block.matRowAt (b : Block) (c : BitVec 6) (a : Nat) : List Num :=
  let x := leNat (b.span a (matRow c))
  let w := scratchBits c
  (List.range (matK c)).map fun k =>
    if !b.scratchPoison.isEmpty && b.scratchPoison.contains ((a + k * w / 8) / 64) then .nan
    else codeVal c (x / 2 ^ (k * w) % 2 ^ codeBits c)

/-- The scale of row `i`, block `q`: 1 without scales; a poisoned one makes its run NaN (R288). -/
def Block.scaleOf (b : Block) (c : BitVec 6) (regs : List Nat) (i q : Nat) : Num :=
  match regs[i / matR c]? with
  | none => Num.ofNat 1
  | some r =>
    let x := b.sc.getD r { bytes := [], poison := [], tag := none }
    let n := i % matR c * matQ c + q
    if x.poison.contains n then .nan else codeVal 0x0B (x.bytes.getD n 0x7F).toNat

/-- An operand row: its elements and its scales by block. -/
structure MatRow where
  xs : List Num
  scales : List Num
  deriving DecidableEq, Repr

/-- The 64 rows of an operand in consecutive slots. -/
def Block.matRows (b : Block) (c : BitVec 6) (o : MatOperand) : List MatRow :=
  (List.range 64).map fun i =>
    { xs := b.matRowAt c (1024 * o.slot + i * matRow c),
      scales := (List.range (max 1 (matQ c))).map (b.scaleOf c o.regs i) }

/-- The 64 rows gathered by the list at sg1 offset `lo` (R289, R306); a poisoned row number gives NaN. (DEDUCED, log
entry 42) -/
def Block.gathered (b : Block) (c : BitVec 6) (o : MatOperand) (nr lo : Nat) : List MatRow :=
  (List.range 64).map fun m =>
    let a := lo + 2 * m
    let n := leNat (b.span a 2)
    let qs := List.range (max 1 (matQ c))
    if b.scratchPoison.contains (a / 64) then { xs := List.replicate (matK c) .nan, scales := qs.map fun _ => Num.ofNat 1 }
    else if n < nr then
      { xs := b.matRowAt c (1024 * o.slot + n * matRow c), scales := qs.map (b.scaleOf c o.regs n) }
    else { xs := List.replicate (matK c) (codeVal c 0), scales := qs.map fun _ => Num.ofNat 1 }

/-! ### The sums (R74, R307) -/

/-- An exact sum; the sum of nothing is +0. -/
def numSum : List Num → Num
  | [] => Num.zero false
  | x :: t => t.foldl (Num.add false) x

/-- Run `q` of a row and a column: products, each with its scales. -/
def matRun (run : Nat) (x y : MatRow) (q : Nat) : List Num :=
  let k := run * q
  let sc := (x.scales.getD (k / 32) (Num.ofNat 1)).mul (y.scales.getD (k / 32) (Num.ofNat 1))
  (((x.xs.drop k).take run).zip ((y.xs.drop k).take run)).map fun p => (p.1.mul p.2).mul sc

/-- One element: the runs added in order to `acc`. -/
def matElem (runs : List (List Num)) (acc : BitVec 32) : BitVec 32 :=
  runs.foldl (fun acc r => round32 .rne 0 ((val32 acc).add false (val32 (round32 .rne 0 (numSum r))))) acc

/-- A row and a column: the products of each run. -/
def matRuns (k run : Nat) (x y : MatRow) : List (List Num) := (List.range (k / run)).map (matRun run x y)

/-- acc + A × B over a whole tile. -/
def matMul (k run : Nat) (as bs : List MatRow) (acc : List (BitVec 32)) : List (BitVec 32) :=
  ((as.flatMap fun x => bs.map fun y => (x, y)).zip acc).map fun p => matElem (matRuns k run p.1.1 p.1.2) p.2

/-- acc + dA × B + A × dB, both products of a run in one sum (R307). -/
def matMulT (k run : Nat) (as das bs dbs : List MatRow) (acc : List (BitVec 32)) : List (BitVec 32) :=
  let rows := as.zip das
  let cols := bs.zip dbs
  ((rows.flatMap fun x => cols.map fun y => (x, y)).zip acc).map fun p =>
    let x := p.1.1
    let y := p.1.2
    matElem ((List.range (k / run)).map fun q => matRun run x.2 y.1 q ++ matRun run x.1 y.2 q) p.2

/-! ### Accumulator instructions (R309, R310) -/

/-- Columns that count for row `i` (R310). -/
def rowColumns (mask : BitVec 64) (i : Nat) : List Nat :=
  let n := min 64 (mask.toNat % 128)
  let d := (mask.extractLsb' 8 8).toInt
  (List.range n).filter fun j => !mask.getLsbD 7 || decide ((j : Int) ≤ i + d)

/-- Maximum and sum of the counted elements of a row (R310). -/
def rowStats (xs : List (BitVec 32)) : BitVec 32 × BitVec 32 :=
  (match xs with
   | [] => 0xFF800000
   | x :: t => t.foldl fmax32 (fmax32 x x),
   round32 .rne 0 (numSum (xs.map val32)))

/-- The four vectors of AMROW. -/
def rowVectors (tile : List (BitVec 32)) (mask : BitVec 64) : List Lanes :=
  let stats := (List.range 64).map fun i =>
    let row := (tile.drop (64 * i)).take 64
    rowStats ((rowColumns mask i).map fun j => row.getD j 0)
  let part (k : Nat) (f : BitVec 32 × BitVec 32 → BitVec 32) : Lanes :=
    Vector.ofFn fun l => f (stats.getD (32 * k + l.val) (0, 0))
  [part 0 Prod.fst, part 1 Prod.fst, part 0 Prod.snd, part 1 Prod.snd]

/-- AMSCL on a tile (R309): row i by the multiplier of its lane. -/
def scaleRows (tile : List (BitVec 32)) (lo hi : Lanes) : List (BitVec 32) :=
  let ms := lo.toList ++ hi.toList
  tile.zipIdx.map fun (x : BitVec 32 × Nat) => round32 .rne 0 ((val32 x.1).mul (val32 (ms.getD (x.2 / 64) 0)))

/-! ### Issue -/

/-- role violation, bad format, stale binding. -/
def excRole : Exc := exc 10
/-- bad format. -/
def excFormat : Exc := exc 14
/-- stale binding: TADDR is the slot. (DEDUCED, log entry 42) -/
def excStale (slot : Nat) : Exc := { code := 16, addr := BitVec.ofNat 64 slot, mask := 0, info := 0 }

/-- Tiles of the issuing block (R195). -/
def State.myTiles (s : State) : Nat := match s.myBlock with | some b => b.tiles | none => 0

/-- A range of slots as a range of bytes. -/
def slotRange (slot n : Nat) : Nat × Nat := (1024 * slot, 1024 * n)

/-- Issue a matrix operation: role, format, ranges (`ok` and the slot ranges), tags, then the queue (R297, R304). `ops`:
format, NS, slot and rows of each operand, in the order in which their tags are looked for; `k` makes the operation
of the registers found. (DEDUCED, log entry 42) -/
def mmaIssue (s : State) (g : PReg) (t : BitVec 4) (ok : Bool) (more : List (Nat × Nat))
    (ops : List (BitVec 6 × Bool × Nat × Nat)) (k : List MatOperand → MatKind) : Eff :=
  single s g [] <|
    let slots := s.mySlots
    let f := s.frag.fmt
    let past := ops.any fun o => decide (slots < o.2.2.1 + matSlots o.1 o.2.2.2)
    if s.grp.role ≠ 2 then .trap excRole
    else if !matPairOk f then .trap excFormat
    else if decide (s.myTiles ≤ t.toNat) || past || !ok then .trap s.excLimit
    else
      match s.myBlock with
      | none => .stall s
      | some b =>
        let found := ops.map fun o => (o, b.findTags (b.tags o.1 o.2.1 o.2.2.1 o.2.2.2))
        match found.findSome? fun x => match x.2 with | .error e => some e | .ok _ => none with
        | some slot => .trap (excStale slot)
        | none =>
          let xs := found.map fun x =>
            ({ slot := x.1.2.2.1, ns := x.1.2.1, regs := match x.2 with | .ok r => r | .error _ => [] } : MatOperand)
          let o := s.newOp (some .mx) (.mat (k xs) t.toNat f)
          engineIssue s { o with src := (ops.map fun o => slotRange o.2.2.1 (matSlots o.1 o.2.2.2)) ++ more } none

/-- The operand of a list. -/
def matOperand (xs : List MatOperand) (i : Nat) : MatOperand := xs.getD i { slot := 0, ns := true, regs := [] }

/-- MMA (R305). -/
def execMma (g : PReg) (nsb nsa z : Bool) (t : BitVec 4) (a b : Reg) (s : State) : Host.Outcome State Fault Refusal :=
  issue s fun s =>
    let f := s.frag.fmt
    mmaIssue s g t true [] [(fmtAF f, nsa, (s.readS a).toNat % 512, 64), (fmtBF f, nsb, (s.readS b).toNat % 512, 64)]
      fun xs => .mma z (matOperand xs 0) (matOperand xs 1)

/-- MMAG (R306). -/
def execMmag (g : PReg) (nsb nsa z : Bool) (t : BitVec 4) (a b : Reg) (s : State) : Host.Outcome State Fault Refusal :=
  issue s fun s =>
    let f := s.frag.fmt
    let x := (s.readS a).toNat
    let nr := x / 2 ^ 9 % 2 ^ 14
    let lo := x / 2 ^ 32
    mmaIssue s g t (nr != 0 && lo % 2 == 0 && decide (lo + 128 ≤ s.grp.limit 1)) [(lo, 128)]
      [(fmtAF f, nsa, x % 512, nr), (fmtBF f, nsb, (s.readS b).toNat % 512, 64)]
      fun xs => .mmag z (matOperand xs 0) nr lo (matOperand xs 1)

/-- MMA_T (R307). -/
def execMmaT (g : PReg) (nsb nsa z : Bool) (t : BitVec 4) (a b : Reg) (s : State) : Host.Outcome State Fault Refusal :=
  issue s fun s =>
    let f := s.frag.fmt
    let x := (s.readS a).toNat
    let y := (s.readS b).toNat
    mmaIssue s g t true []
      [(fmtAF f, nsa, x % 512, 64), (fmtAF f, nsa, x / 2 ^ 16 % 512, 64),
       (fmtBF f, nsb, y % 512, 64), (fmtBF f, nsb, y / 2 ^ 16 % 512, 64)]
      fun xs => .mmat z (matOperand xs 0) (matOperand xs 1) (matOperand xs 2) (matOperand xs 3)

/-- Issue an accumulator instruction: its tile and, for AMLD and AMST, 16 slots (R309). -/
def amIssue (s : State) (t : BitVec 4) (slot : Option Nat) (k : Eff) : Eff :=
  let past := match slot with | some x => decide (s.mySlots < x + 16) | none => false
  if decide (s.myTiles ≤ t.toNat) || past then .trap s.excLimit else k

/-- AMLD (R309). -/
def execAmld (g : PReg) (t : BitVec 4) (a : Reg) (s : State) : Host.Outcome State Fault Refusal :=
  issue s fun s => single s g [] <|
    let slot := (s.readS a).toNat % 512
    amIssue s t (some slot) <|
      engineIssue s { s.newOp (some .mx) (.mat (.amld slot) t.toNat s.frag.fmt) with src := [slotRange slot 16] } none

/-- AMST (R309). -/
def execAmst (g : PReg) (t : BitVec 4) (a : Reg) (s : State) : Host.Outcome State Fault Refusal :=
  issue s fun s => single s g [] <|
    let slot := (s.readS a).toNat % 512
    amIssue s t (some slot) <|
      engineIssue s { s.newOp (some .mx) (.mat (.amst slot) t.toNat s.frag.fmt) with
        img := [(s.grp.id.blk, 1024 * slot, 16384)] } none

/-- AMZERO (R309). -/
def execAmzero (g : PReg) (t : BitVec 4) (s : State) : Host.Outcome State Fault Refusal :=
  issue s fun s => single s g [] <| amIssue s t none <|
    engineIssue s (s.newOp (some .mx) (.mat .amzero t.toNat s.frag.fmt)) none

/-- AMROW (R310): four names, allocated and undefined from issue, in all 32 lanes. -/
def execAmrow (g : PReg) (t : BitVec 4) (d b : Reg) (s : State) : Host.Outcome State Fault Refusal :=
  issue s fun s => single s g [] <| amIssue s t none <|
    let names := [d, d + 1, d + 2, d + 3]
    match s.grp.room names with
    | .quota => .trap (exc 5)
    | .stall => .stall s
    | .ok =>
      let o := s.newOp (some .mx) (.mat (.amrow d.toNat (s.readS b)) t.toNat s.frag.fmt)
      match engineIssue s o none with
      | .done t => .done (t.pendV o.id (BitVec.allOnes 32) names)
      | e => e

/-- Vector sources that an engine reads after issue (R281): a write to such a name before the WAIT spoils it, and the
registers of a mapped one that a last-read bit frees stay reserved until the read. -/
def State.holdSources (s : State) (op : Nat) (names frees : List Reg) : State :=
  (names.eraseDups.foldl (fun (s : State) n => s.setGrp fun g =>
    { g with pending := g.pending ++
        [{ op := op, cls := .vec, name := n.toNat, source := true, reads := g.mapped n, clobbered := false, first := none }] }) s).freeNames frees

/-- AMSCL (R309). -/
def execAmscl (g : PReg) (m : Marks2) (t : BitVec 4) (a b : Reg) (s : State) : Host.Outcome State Fault Refusal :=
  issue s fun s => single s g (freed2 m a b) <| amIssue s t none <|
    let o := s.newOp (some .mx) (.mat (.amscl (s.readV a) (s.readV b)) t.toNat s.frag.fmt)
    match engineIssue s o none with
    | .done t => .done ((t.touch [a, b]).holdSources o.id [a, b] (freed2 m a b))
    | e => e

/-! ### Start and completion (R287, R291, R304) -/

/-- The matrix operation of a tile. -/
def Op.matTile (o : Op) : Option Nat := match o.kind with | .mat _ t _ => some t | _ => none
/-- The drain of a tile. -/
def Op.drainTile (o : Op) : Option Nat := match o.kind with | .drain _ t .. => some t | _ => none
/-- Operations of one block. -/
def Op.sameBlock (p o : Op) : Bool := p.gid.l == o.gid.l && p.gid.blk == o.gid.blk

/-- A matrix operation may start: it is the oldest of its CU's queue, nothing of that queue is running (one whose results debug
holds back has run) (R287, R293), and the acquires of its group that precede it have been performed (R267 note 4, R329). (DEDUCED,
log entry 42) -/
def State.matrixReady (s : State) (o : Op) : Bool :=
  !o.started && s.engineMay o false (o.src.flatMap fun r => scratchPlaces o.gid.l o.gid.blk r.1 r.2)
    && !(s.ops.any fun p => p.cu == o.cu && p.matTile.isSome && p.started && !p.performed)
    && !((opsBefore s.ops o.id).any fun p => p.cu == o.cu && p.matTile.isSome && !p.performed)

/-- What an operation makes of a tile: its words and its poisoned elements. (DEDUCED, log entry 42) -/
def MatKind.apply (m : MatKind) (b : Block) (t : Nat) (f : BitVec 64) : List (BitVec 32) × List Nat :=
  let af := fmtAF f
  let bf := fmtBF f
  let (k, run) := (matFormat af).getD (32, 16)
  let zero := List.replicate 4096 (0 : BitVec 32)
  let old (z : Bool) : List (BitVec 32) := if z then zero else b.tile t
  let pois (z : Bool) : List Nat := if z then [] else b.tilePoison t
  match m with
  | .mma z x y => (matMul k run (b.matRows af x) (b.matRows bf y) (old z), pois z)
  | .mmag z x nr lo y => (matMul k run (b.gathered af x nr lo) (b.matRows bf y) (old z), pois z)
  | .mmat z x dx y dy =>
    (matMulT k run (b.matRows af x) (b.matRows af dx) (b.matRows bf y) (b.matRows bf dy) (old z), pois z)
  | .amld slot =>
    let bs := b.span (1024 * slot) 16384
    ((List.range 4096).zip (halves bs |> pairWords) |>.map Prod.snd,
     (List.range 4096).filter fun i => b.scratchPoison.contains ((1024 * slot + 4 * i) / 64))
  | .amzero => (zero, [])
  | .amscl lo hi => (scaleRows (b.tile t) lo hi, pois false)
  | .amst _ | .amrow .. => (b.tile t, pois false)
where
  /-- Words of halfwords. -/
  pairWords : List (BitVec 16) → List (BitVec 32)
    | a :: b :: t => (b ++ a) :: pairWords t
    | _ => []

/-- The words of a tile that AMST lays out, as parts of 16 bytes with their poison. -/
def tileParts (ws : List (BitVec 32)) (pois : List Nat) : List PartData :=
  (List.range 1024).zip (chunks ws) |>.map fun p =>
    { i := p.1, bytes := p.2.flatMap fun w => leBytes 4 w.toNat,
      fate := if pois.any fun i => i / 4 == p.1 then .poison else .ok }
where
  /-- Four words at a time. -/
  chunks : List (BitVec 32) → List (List (BitVec 32))
    | a :: b :: c :: d :: t => [a, b, c, d] :: chunks t
    | _ => []

/-- The tile narrowed to OF in row-major order, with a draw each under SR (R291). -/
def narrowTile (f : FFmt) (sat : Bool) (rm : RM) : List (BitVec 32) → BitVec 32 → List Nat
  | [], _ => []
  | x :: t, seed =>
    let d := draw rm seed
    f.narrow sat rm d.2 (val32 x) :: narrowTile f sat rm t d.1

/-- Pack codes of `w` bits as bytes. -/
def packCodes (w n : Nat) (cs : List Nat) : List Byte :=
  leBytes n ((cs.zipIdx.map fun (c : Nat × Nat) => c.1 * 2 ^ (w * c.2)).sum)

/-- A tile in its drained form: parts of 16 bytes, rows packed, with their poison. -/
def drainParts (add : Bool) (fmt : BitVec 64) (ws : List (BitVec 32)) (pois : List Nat) : List PartData :=
  if add then tileParts ws pois
  else
    match floatFmt (fmtOF fmt) with
    | none => []
    | some f =>
      let w := scratchBits (fmtOF fmt)
      let per := 128 / w
      let codes := narrowTile f (fmtSAT fmt) (fmtRM fmt) ws (fmtSeed fmt)
      (List.range (4096 / per)).map fun i =>
        { i := i, bytes := packCodes w 16 ((codes.drop (per * i)).take per),
          fate := if pois.any fun x => x / per == i then .poison else .ok }

/-- A drain reads its tile, unless it has. -/
def Op.readTile (p : Op) (b : Block) : Op :=
  match p.kind with
  | .drain add t f .. => if p.buf.isEmpty then { p with buf := drainParts add f (b.tile t) (b.tilePoison t) } else p
  | _ => p

/-- The drains of a tile that were issued before a matrix operation on it read it before that starts, those that wait for their
turn or their start condition too: no matrix operation waits for a drain (R293, R311). (DEDUCED, log entry 41) -/
def State.readForDrains (s : State) (o : Op) (b : Block) : State :=
  let before := (opsBefore s.ops o.id).map Op.id
  { s with ops := s.ops.map fun p =>
      if before.contains p.id && p.sameBlock o && p.drainTile == o.matTile then p.readTile b else p }

/-- What was in the tile before has no part in the result. -/
def MatKind.replaces : MatKind → Bool
  | .mma z _ _ | .mmag z _ _ _ _ | .mmat z _ _ _ _ => z
  | .amld _ | .amzero => true
  | _ => false

/-- MATRIX_START (R287, R304): the oldest operation of the queue starts and takes its effect on the tile. (DEDUCED,
log entry 42) -/
def execMatrixStart (op : Nat) (s : State) : Host.Outcome State Fault Refusal :=
  event s fun s =>
    match s.op? op with
    | none => s
    | some o =>
      match o.kind, s.block? o.gid.l o.gid.blk with
      | .mat m t f, some b =>
        if !s.matrixReady o then s
        else
          let r := m.apply b t f
          let o := { o with started := true }
          let o : Op := match m with
            | .amrow d mask =>
              { o with results := (rowVectors r.1 mask).zipIdx.map fun (x : Lanes × Nat) =>
                  { cls := .vec, name := (d + x.2) % 32, mask := BitVec.allOnes 32, comps := [x.1], word := 0 } }
            | .amst _ => { o with buf := tileParts r.1 r.2 }
            | _ => o
          let s := s.readForDrains o b
          let s := if m.replaces then s.mapGroups (Group.retiled o.gid.l o.gid.blk t) else s
          let s := match m with
            | .amst _ | .amrow .. => s
            | _ => s.updBlock o.gid.l o.gid.blk fun b => b.setTile t r.1 r.2
          s.setOp o
      | _, _ => s

/-- A source vector of the operation was written before the WAIT (R281). (DEDUCED, log entry 42) -/
def State.sourceLost (s : State) (o : Op) : Bool :=
  match s.group? o.gid with
  | some g => g.pending.any fun p => p.op == o.id && p.source && p.clobbered
  | none => false

/-- What AMST writes spoils no later entry of its CU's matrix queue, which sees the results of the entries before it
(R304): their marks stay as they were in `s`. (DEDUCED, log entry 42) -/
def State.keepMarks (u s : State) (o : Op) : State :=
  { u with ops := u.ops.map fun p =>
      if p.cu == o.cu && p.matTile.isSome then
        match s.op? p.id with
        | some q => { p with spoilt := q.spoilt, before := q.before, clobbered := q.clobbered }
        | none => p
      else p }

/-- The bytes of sg1 as an AMLD may have read them: those written since its issue as they were or as they are, which is open
(R299). (DEDUCED, log entry 42) -/
def State.loadedBytes (s : State) (o : Op) (b : Block) (off n : Nat) : List Byte :=
  (b.span off n).zipIdx.map fun x =>
    match o.before.find? fun y => y.1 == Loc.scr o.gid.l o.gid.blk (off + x.2) with
    | some y => if Config.freeBit s.fresh (2 ^ 12 + x.2) then y.2 else x.1
    | none => x.1

/-- MATRIX_COMPLETE (R298): its writes are made, those of AMST part by part as a copy's (R268, R309); what it computed from bytes that a party has written since, or from a
source name that was written, is undefined (R269, R281), but for AMLD's copy of such bytes (R299). (DEDUCED, log entry 42) -/
def execMatrixComplete (op : Nat) (s : State) : Host.Outcome State Fault Refusal :=
  event s fun s =>
    match s.op? op with
    | none => s
    | some o =>
      match o.kind with
      | .mat m t _ =>
        match m with
        | .amst slot =>
          if !o.started || !s.engineMay o true (scratchPlaces o.gid.l o.gid.blk (1024 * slot) 16384) then s
          else
            let r := s.writeImage o 0 o.gid.blk (1024 * slot) (o.buf.flatMap PartData.bytes)
              (o.buf.flatMap fun (d : PartData) => List.replicate 16 (d.fate == PartEnd.poison))
            let t := r.1.keepMarks s o
            if r.2.2 then t.completeOp { o with performed := true }
            else t.updOp op fun o => { o with parts := o.parts ++ r.2.1 }
        | _ =>
        if !o.started then s
        else
          let s := match m with
            | .amst _ | .amrow .. => s
            | .amld slot =>
              if o.before.isEmpty then s
              else s.updBlock o.gid.l o.gid.blk fun b =>
                b.setTile t (MatKind.apply.pairWords (halves (s.loadedBytes o b (1024 * slot) 16384))) (b.tilePoison t)
            | _ =>
              if o.clobbered || s.sourceLost o then
                s.updBlock o.gid.l o.gid.blk fun b => b.setTile t (freeTile s.fresh 0) []
              else s
          s.completeOp { o with performed := true }
      | _ => s

/-! ### Drains (R291, R295, R311) -/

/-- The seed after `n` draws. -/
def drawMany : Nat → BitVec 32 → BitVec 32
  | 0, seed => seed
  | n + 1, seed => drawMany n (srDraw seed).1

/-- A row of a drain as pieces, one for each part of memory it meets: address, offset in the row, length. -/
def rowPieces (va rb : Nat) : List (Nat × Nat × Nat) :=
  (partsOf (va, rb)).map fun p =>
    let lo := max va (16 * p)
    (lo, lo - va, min (va + rb) (16 * p + 16) - lo)

/-- Pieces of a drain to memory: address, offset in the packed tile, length. -/
def drainPieces (base pitch rb : Nat) : List (Nat × Nat × Nat) :=
  (List.range 64).flatMap fun i => (rowPieces (base + i * pitch) rb).map fun x => (x.1, i * rb + x.2.1, x.2.2)

/-- What a part of memory is to a drain (R276, R311). -/
def State.drainReach (s : State) (o : Op) (va : Nat) : PartReach :=
  match s.engineVa o.gid.l o.cu.die o.job va with
  | .ok pa pte => if pteKind pte ≠ 0 then .fail .range else if pteProt pte then .fail .key else .ok pa none
  | _ => .lease

/-- One drain instruction. -/
def drainIssue (add : Bool) (g : PReg) (t : BitVec 4) (a b : Reg) (s : State) : Eff :=
  single s g [] <|
    let c := s.readS a
    let x := s.readS b
    let f := s.frag.fmt
    let seg := segOf x
    let off := x.toNat % 2 ^ 52
    let rb := if add then 256 else 8 * scratchBits (fmtOF f)
    let pitch := if ctlPitch c = 0 then rb else 16 * ctlPitch c
    let at_ (code : Nat) : Eff := .trap { code := code, addr := BitVec.ofNat 64 off, mask := 0, info := 0 }
    let blk := s.grp.id.blk
    let drains := !add && fmtRM f == .sr
    let i := s.grp.id
    if pitch < rb then .trap excShape
    else if !add && ((floatFmt (fmtOF f)).isNone || fmtOF f == 0x0B) then .trap excFormat
    else if s.myTiles ≤ t.toNat then .trap s.excLimit
    else if (seg ≠ 0 ∧ seg ≠ 1 ∧ seg ≠ 7) ∨ baseHigh x ∨ s.grp.limit seg < off + 63 * pitch + rb then at_ 7
    else if seg = 7 then at_ 8
    else if add && (off % 4 != 0 || pitch % 4 != 0) then at_ 9
    else
      match s.ctlBars c blk true with
      | .error code => .trap (excBarrier code)
      | .ok (bar, cond) =>
        let buffered := add && s.grp.det && seg == 0
        let fits := match s.myBlock with | some b => s.detFits b 16448 | none => false
        if buffered && !fits then .trap (exc 21)
        else
          let scratch := seg == 1
          let base := if scratch then off else s.grp.segBase 0 + off
          let o := s.newOp (some .cp) (.drain add t.toNat f scratch base pitch rb buffered)
          let o := { o with bar := bar, bytes := 64 * rb }
          let rows := (List.range 64).map fun r => base + r * pitch
          let o :=
            if scratch then { o with img := rows.map fun r => (blk, r, rb) }
            else if add then o
            else { o with dst := (drainPieces base pitch rb).filterMap fun p =>
              match s.drainReach o p.1 with | .ok pa _ => some (pa, p.2.2) | _ => none }
          match engineIssue s o cond with
          | .done t =>
            let t := if drains then
                { t with frag := { t.frag with fmt := fmtWithSeed f (drawMany 4096 (fmtSeed f)) } }
              else t
            .done (if buffered then t.bufferDet i.l i.blk [.tile i.g o.id [] [] []] else t)
          | e => e

/-- DRAIN_ST (R311). -/
def execDrainSt (g : PReg) (t : BitVec 4) (a b : Reg) (s : State) : Host.Outcome State Fault Refusal :=
  issue s (drainIssue false g t a b)

/-- DRAIN_ADD (R311). -/
def execDrainAdd (g : PReg) (t : BitVec 4) (a b : Reg) (s : State) : Host.Outcome State Fault Refusal :=
  issue s (drainIssue true g t a b)

/-- A drain may start: it is the oldest of its CU's queue, the matrix operations on its tile that entered their queue before it
was issued have completed (R291, R293), and the acquires of its group that precede it have been performed (R267 note 4). (DEDUCED,
log entry 41) -/
def State.drainReady (s : State) (o : Op) : Bool :=
  !o.started && o.deferred.isNone && s.mayPerform o
    && !(s.ops.any fun p =>
      (decide (p.entered < o.entered) && p.cu == o.cu && p.drainTile.isSome && !p.started && p.deferred.isNone)
        || (decide (p.id < o.id) && p.sameBlock o && p.matTile == o.drainTile && !p.performed))

/-- DRAIN_START (R291): the drain reads its tile, unless it has done so before a later matrix operation. (DEDUCED, log entry 41) -/
def execDrainStart (op : Nat) (s : State) : Host.Outcome State Fault Refusal :=
  event s fun s =>
    match s.op? op with
    | none => s
    | some o =>
      match o.kind, s.block? o.gid.l o.gid.blk with
      | .drain .., some b => if s.drainReady o then s.setOp { o.readTile b with started := true } else s
      | _, _ => s

/-- Bytes `off` to `off + n` of parts of 16 bytes, and whether one is poisoned. (DEDUCED, log entry 41) -/
def partBytes (ds : List PartData) (off n : Nat) : List Byte × Bool :=
  let ds := (ds.drop (off / 16)).take ((off + n + 15) / 16 - off / 16)
  (((ds.flatMap PartData.bytes).drop (off % 16)).take n, ds.any fun d => d.fate == .poison)

/-- Where the `n` bytes of a piece of a drain lie, in its block's sg1 or in memory, where it may write there. -/
def State.drainPlaces (s : State) (o : Op) (scratch : Bool) (va n : Nat) : List Loc :=
  if scratch then scratchPlaces o.gid.l o.gid.blk va n
  else match s.drainReach o va with
    | .ok pa _ => (List.range n).map fun i => .dev (pa + i)
    | _ => []

/-- One piece of a DRAIN.ST: its bytes, poisoned or not. (DEDUCED, log entry 41) -/
def State.drainPiece (s : State) (o : Op) (ps : List Loc) (r : List Byte × Bool) : State :=
  let s := s.engineWrite o ps r.1
  if r.2 then (ps.take 1).foldl State.addPoison s else s

/-- The words of a tile with their addresses (by the place of each byte). -/
def tileWords (ds : List PartData) : List (BitVec 32) :=
  MatKind.apply.pairWords (halves (ds.flatMap PartData.bytes))

/-- Add one word at its home, rounded as ATOM.F32 rounds (R239, R269). A poisoned word stays poisoned. -/
def State.addWord (s : State) (o : Op) (ps : List Loc) (x : BitVec 32) : State :=
  let old := BitVec.ofNat 64 (leNat (s.readLocs ps))
  let pois := ps.filter s.poisoned
  pois.foldl State.addPoison (s.engineWrite o ps (leBytes 4 (atomNew .f32 32 old (x.setWidth 64)).toNat))

/-- The place of each word of a drain to memory; a word is written only where all its bytes may be. -/
def State.drainWords (s : State) (o : Op) (base pitch : Nat) : List (Option (List Loc)) :=
  let reach := (drainPieces base pitch 256).flatMap fun p =>
    let r := s.drainReach o p.1
    (List.range p.2.2).map fun i => match r with | .ok pa _ => some (Loc.dev (pa + i)) | _ => none
  (List.range 4096).zip (fours reach) |>.map fun p => if p.2.all Option.isSome then some (p.2.filterMap id) else none
where
  /-- Four at a time. -/
  fours : List (Option Loc) → List (List (Option Loc))
    | a :: b :: c :: d :: t => [a, b, c, d] :: fours t
    | _ => []

/-- What a drain's parts in memory meet: the CST bits, or a lease violation. (DEDUCED, log entry 41) -/
def State.drainCst (s : State) (o : Op) (base pitch rb : Nat) : Option (BitVec 4) :=
  let rs := (drainPieces base pitch rb).map fun p => s.drainReach o p.1
  if rs.any fun r => match r with | .lease => true | _ => false then none
  else some (rs.foldl (fun c r => c ||| (match r with | .fail f => f.cst | _ => 0)) 0)

/-- The places of a tile's words for the determinism buffer: the physical address of each word's first byte. -/
def wordAddrs (ws : List (Option (List Loc))) : List (Option Nat) :=
  ws.map fun w => match w with | some (.dev a :: _) => some a | _ => none

/-- The entry of a drain. -/
def DetEntry.isTile (e : DetEntry) (op : Nat) : Bool := match e with | .tile _ o _ _ _ => o == op | _ => false

/-- The buffered tile of a drain receives its values, in the block and in the context area (R295). -/
def State.fillDet (s : State) (o : Op) (pas : List (Option Nat)) (vals : List (BitVec 32)) (pois : List Nat) : State :=
  match s.block? o.gid.l o.gid.blk with
  | none => s
  | some b =>
    let e := DetEntry.tile o.gid.g o.id pas vals pois
    let t := s.updBlock o.gid.l o.gid.blk fun b => { b with detBuf := b.detBuf.map fun x => if x.isTile o.id then e else x }
    t.putDet b (s.detBase b + ((b.detBuf.takeWhile fun x => !x.isTile o.id).map DetEntry.bytes).sum) e

/-- The slots that a drain into sg1 writes advance their versions (R194). -/
def State.advanceRows (s : State) (o : Op) (base pitch rb : Nat) : State :=
  s.advanceSlots ((List.range 64).flatMap fun i =>
    [.scr o.gid.l o.gid.blk (base + i * pitch), .scr o.gid.l o.gid.blk (base + i * pitch + rb - 1)])

/-- A DRAIN.ADD into sg1: one indivisible update (R269). (DEDUCED, log entry 41) -/
def State.addScratch (s : State) (o : Op) (base pitch : Nat) : State :=
  let ws := tileWords o.buf
  let s := ((List.range 64).flatMap fun r => (List.range 64).map fun j => (base + r * pitch + 4 * j, ws.getD (64 * r + j) 0)).foldl
    (fun (s : State) x => s.addWord o (scratchPlaces o.gid.l o.gid.blk x.1 4) x.2) s
  let s := o.buf.foldl (fun (s : State) d =>
    if d.fate == .poison then s.addPoison (.scr o.gid.l o.gid.blk (base + d.i / 16 * pitch + d.i % 16 * 16)) else s) s
  s.advanceRows o base pitch 256

/-- The elements of a tile whose parts are poisoned. -/
def poisonedWords (ds : List PartData) : List Nat :=
  ds.flatMap fun d => if d.fate == .poison then (List.range 4).map (4 * d.i + ·) else []

/-- The words of a DRAIN.ADD, each with its number, its place and its addend, grouped by the 128-byte line that they lie in: one
indivisible update a line (R269). Words that may not be written have gone. -/
def addLines (places : List (Option (List Loc))) (vals : List (BitVec 32)) : List (List (Nat × List Loc × BitVec 32)) :=
  let ws := (places.zip vals).zipIdx.filterMap fun x => x.1.1.map fun ps => (x.2, ps, x.1.2)
  let line (w : Nat × List Loc × BitVec 32) : Option Nat := (linesOf w.2.1).head?
  ((ws.map line).eraseDups).map fun l => ws.filter fun w => line w == l

/-- One line of a DRAIN.ADD: its words in turn, a poisoned addend leaving its word poisoned (R210). -/
def State.addLine (s : State) (o : Op) (pois : List Nat) (ws : List (Nat × List Loc × BitVec 32)) : State :=
  ws.foldl (fun (s : State) w =>
    let s := s.addWord o w.2.1 w.2.2
    if pois.contains w.1 then w.2.1.foldl State.addPoison s else s) s

/-- A drain in pieces: some or all of those that are left, 16-byte parts of a DRAIN.ST, lines of a DRAIN.ADD to memory, are
performed, in no stated order (R258, R268, R269); the pieces performed. (DEDUCED, log entry 41) -/
def State.drainStep (s : State) (o : Op) (add scratch : Bool) (base pitch rb : Nat) : State × List Nat × Bool :=
  let pois := poisonedWords o.buf
  let lines := if add then addLines (s.drainWords o base pitch) (tileWords o.buf) else []
  let pieces := if add then [] else drainPieces base pitch rb
  let left := o.left (lines.length + pieces.length)
  let now := s.nextPieces left left
  let t := now.foldl (fun (s : State) i =>
    if add then s.addLine o pois (lines.getD i [])
    else match pieces[i]? with
      | none => s
      | some p => match s.drainPlaces o scratch p.1 p.2.2 with
        | [] => s
        | ps => s.drainPiece o ps (partBytes o.buf p.2.1 p.2.2)) s
  (t, now, decide (now.length = left.length))

/-- The bytes that a DRAIN.ST writes without poison. -/
def State.cleanDrain (s : State) (o : Op) (scratch : Bool) (base pitch rb : Nat) : List Loc :=
  (drainPieces base pitch rb).flatMap fun p =>
    if (partBytes o.buf p.2.1 p.2.2).2 then [] else s.drainPlaces o scratch p.1 p.2.2

/-- The end of a DRAIN.ST: what a lane has written since issue to the bytes that it writes is free (R268), codewords written whole
carry no poison (R210), and versions advance (R194). (DEDUCED, log entry 41) -/
def State.drainEnd (s : State) (o : Op) (scratch : Bool) (base pitch rb : Nat) : State :=
  let s := (s.loseWritten o o.spoilt).clearPoison (s.cleanDrain o scratch base pitch rb)
  if scratch then s.advanceRows o base pitch rb else s

/-- DRAIN_COMPLETE (R280, R311): the drain's bytes are written, piece by piece but for an addition to sg1; with the last, versions,
CST, the barrier's bytes and the counter. (DEDUCED, log entry 41) -/
def execDrainComplete (op : Nat) (s : State) : Host.Outcome State Fault Refusal :=
  event s fun s =>
    match s.op? op with
    | none => s
    | some o =>
      match o.kind with
      | .drain add _ _ scratch base pitch rb buffered =>
        if !o.started || !s.engineMay o true ((drainPieces base pitch rb).flatMap fun p => s.drainPlaces o scratch p.1 p.2.2) then s
        else s.whenWalked o (if scratch then [] else (drainPieces base pitch rb).map Prod.fst) <|
          let pois : BitVec 4 := if o.buf.any fun d => d.fate == .poison then 4 else 0
          match if scratch then some 0 else s.drainCst o base pitch rb with
          | none => s.violate o
          | some c =>
            let o := { o with cst := o.cst ||| c ||| pois }
            if buffered then
              (s.fillDet o (wordAddrs (s.drainWords o base pitch)) (tileWords o.buf) (poisonedWords o.buf)).settleCopy o
            else if add && scratch then (s.addScratch o base pitch).settleCopy o
            else
              let r := s.drainStep o add scratch base pitch rb
              if r.2.2 then (if add then r.1 else r.1.drainEnd o scratch base pitch rb).settleCopy o
              else r.1.updOp op fun o => { o with parts := o.parts ++ r.2.1 }
      | _ => s

/-! ### The determinism buffer (R240, R295) -/

/-- The additions of an entry, in order: physical addresses of the bytes, the addend, and whether it is poisoned. -/
def DetEntry.adds : DetEntry → List (List Loc × BitVec 32 × Bool)
  | .lane _ pas x => [(pas.map Loc.dev, x, false)]
  | .tile _ _ pas vals pois => (pas.zip vals).zipIdx.filterMap fun p =>
      p.1.1.map fun a => ((List.range 4).map fun i => Loc.dev (a + i), p.1.2, pois.contains p.2)

/-- The group of an entry. -/
def DetEntry.group : DetEntry → Nat
  | .lane g _ _ => g
  | .tile g _ _ _ _ => g

/-- An entry with the values that its bytes in the buffer hold (R295). (DESIGN CHOICE, log entry 26) -/
def DetEntry.ofBytes (e : DetEntry) (bs : List Byte) : DetEntry :=
  match e with
  | .lane g _ _ => .lane g ((List.range 4).map (leNat (bs.take 8) + ·)) (BitVec.ofNat 32 (leNat ((bs.drop 8).take 4)))
  | .tile g op pas _ pois => .tile g op pas (MatKind.apply.pairWords (halves (bs.drop 64))) pois

/-- A block's entries as the context area holds them, the first at byte `off` of its buffer. -/
def State.readDet (s : State) (x : Launch) (b : Block) : Nat → List DetEntry → List DetEntry
  | _, [] => []
  | off, e :: t =>
    e.ofBytes (s.areaRead x.lrec.jobId (e.bytes / 16) (x.lrec.detAt b.area + off) e.encode)
      :: State.readDet s x b (off + e.bytes) t

/-- A block's entries by ascending group index, each group's in issue order. -/
def State.detOrder (s : State) (x : Launch) (b : Block) : List DetEntry :=
  let es := s.readDet x b (s.detBase b) b.detBuf
  (List.range b.ngrp).flatMap fun g => es.filter fun e => e.group == g

/-- One buffered addition, as an ATOM.F32 (R240); poison stays, and travels with a tile's elements (R210). -/
def State.applyAdd (s : State) (x : List Loc × BitVec 32 × Bool) : State :=
  let old := BitVec.ofNat 64 (leNat (s.readLocs x.1))
  let pois := if x.2.2 then x.1 else x.1.filter s.poisoned
  pois.foldl State.addPoison (s.placeBy none none none x.1 (leBytes 4 (atomNew .f32 32 old (x.2.1.setWidth 64)).toNat))

/-- All blocks of a launch have completed (R172). -/
def Launch.blocksTotal (l : Launch) : Nat := l.lrec.gx.toNat * l.lrec.gy.toNat * l.lrec.gz.toNat

/-- DETERMINISM_BUFFER_APPLY (R240): at launch end the buffers are applied, block by block. -/
def execDeterminismBufferApply (l : Nat) (s : State) : Host.Outcome State Fault Refusal :=
  event s fun s =>
    match s.launch? l with
    | none => s
    | some x =>
      let ended := x.done == x.blocksTotal && x.final.isNone && x.state == 2
      if !ended then s
      else
        let adds := (List.range x.blocksTotal).flatMap fun i =>
          match s.block? l i with | some b => (s.detOrder x b).flatMap DetEntry.adds | none => []
        let s := adds.foldl State.applyAdd s
        { s with blocks := s.blocks.map fun (b : Block) => if b.l == l then { b with detBuf := [] } else b }

end Sys2Proof.Machine
end

