-- ==== Sys2Proof/Machine/Tables.lean ====
section
/-! DEFINITION. Rows by reference, point operations, scans, transactions and rebalancing of keyed tables
(12_keyed_tables.md, 13_memory_and_table_instructions.md R248 to R255). -/

namespace Sys2Proof.Machine

/-! ### Tables in the state -/

/-- bad table: the table number (R213, R249). (DEDUCED, log entry 14) -/
def excTable (num : BitVec 16) (act : Mask) : Exc := { code := 15, addr := num.setWidth 64, mask := act, info := 0 }

/-- Replace a bound table; the record's fields that the device keeps are written to the directory (R212). ROOT names a new
node when the height changes; which node is open. -/
def State.putTable (s : State) (t : Table) : State :=
  let old := s.tables.find? fun x => x.job == t.job && x.num == t.num
  if old = some t then s
  else
    let t := if old.map Table.height = some t.height then t
      else { t with root := t.primaryPages + Config.freeChoice s.fresh 2 % (t.ipages - t.primaryPages) }
    let s : State := { s with tables := s.tables.map fun (x : Table) => if x.job == t.job && x.num == t.num then t else x }
    match s.job? t.job with
    | some j => s.sysWrite t.job (j.tdir.toNat + 64 * t.num.toNat + 40) t.roBytes
    | none => s

/-- The key that an operation of a transaction has touched. -/
def TxOp.touches (o : TxOp) (num : BitVec 16) (k : BitVec 64) : Bool :=
  match o with
  | .look t x | .ins t x _ | .repl t x | .del t x => t == num && x == k

/-- A change of a key by party `by_` aborts other groups' transactions that track it (R230). (DEDUCED, log entry 37) -/
def State.conflictKey (s : State) (by_ : Option GroupId) (job : BitVec 32) (num : BitVec 16) (k : BitVec 64) : State :=
  s.mapGroups fun g =>
    match g.tx with
    | some t => if some g.id != by_ && g.job == job && t.cause == 0 && t.ops.any (·.touches num k) then g.doom 1 else g
    | none => g

/-- Deleting or replacing a key invalidates what the block translation caches hold of it (R316). -/
def State.dropBtc (s : State) (job : BitVec 32) (num : BitVec 16) (k : BitVec 64) : State :=
  { s with btc := s.btc.filter fun e => !(e.job == job && e.table == num && e.key == k) }

/-- A deterministic launch (R168 FLAGS). -/
def LaunchRec.det (r : LaunchRec) : Bool := r.flags.getLsbD 3
/-- The deterministic launches that use the table: what they free is not used again until they complete (R226). -/
def State.frozenBy (s : State) (t : Table) : List Nat :=
  t.users.filter fun u => match s.launch? u with | some l => l.lrec.det | none => false

/-! ### What an operation acts on: the tables, or the issuing group's transaction (R229) -/

/-- The table as a transaction sees it; `freeze`: the deterministic launches that use the table (R226). -/
def Table.under (t : Table) (freeze : List Nat) (ops : List TxOp) : Table :=
  ops.foldl (fun t o => match o with
    | .ins n k slot => if n == t.num then (t.insert k slot).getD t else t
    | .del n k => if n == t.num then t.delete k freeze else t
    | _ => t) t

/-- The table as the operation sees it. -/
def State.seeTable (s : State) (tx : Bool) (t : Table) : Table :=
  if tx then t.under (s.frozenBy t) ((s.grp.tx.map Tx.ops).getD []) else t

/-- Row bytes as the operation sees them; `n` numbers the first in this occurrence. -/
def State.seeRow (s : State) (tx : Bool) (n : Nat) (ps : List Loc) : List Byte :=
  let bs := s.laneBytes n ps
  if tx then
    let held := s.grp.tx.map fun t => { t with stores := t.rows }
    (ps.zip bs).map fun p => Tx.overlay held p.1 p.2
  else bs

/-- Row bytes written by a group's table operation, at their home (R218). -/
def State.putRow (s : State) (tx : Bool) (i : GroupId) (ps : List Loc) (vs : List Byte) : State :=
  if tx then s.setGrp fun g => { g with tx := g.tx.map fun t => { t with rows := overlay t.rows ps vs } }
  else (s.spoil false (some i) none ps).putBytes (some i) none ps vs

/-- The row bytes of a deleted key: undefined (R216). -/
def State.freeRow (s : State) (tx : Bool) (i : GroupId) (slot : Nat) (ps : List Loc) : State :=
  s.putRow tx i ps ((List.range ps.length).map fun i => Config.freeByte s.fresh (512 * (slot + 1) + i))

/-- Record an operation in the transaction. (DEDUCED, log entry 37) -/
def State.txPush (s : State) (o : TxOp) : State :=
  s.setGrp fun g => { g with tx := g.tx.map fun t => { t with ops := t.ops ++ [o] } }

/-- The index changes: in the transaction's view, or in the table (R230, R316). (DEDUCED, log entry 39) -/
def State.change (s : State) (tx : Bool) (by_ : GroupId) (t : Table) (o : TxOp) : State :=
  if tx then s.txPush o
  else
    match o with
    | .look .. => s
    | .ins n k slot => ((t.insert k slot).map fun t => (s.putTable t).conflictKey (some by_) t.job n k).getD s
    | .repl n k => (s.conflictKey (some by_) t.job n k).dropBtc t.job n k
    | .del n k => ((s.putTable (t.delete k (s.frozenBy t))).conflictKey (some by_) t.job n k).dropBtc t.job n k

/-! ### Slots for inserts (R225, R226) -/

/-- The number of slots of its run that a group has consumed. -/
def Launch.runUsed (l : Launch) (num : BitVec 16) (g : Nat) : Nat :=
  ((l.detUsed.find? fun x => x.1 == num && x.2.1 == g).map fun x => x.2.2).getD 0

/-- The slot's row lies on a retired page: it is never allocated again (R211). (DEDUCED, log entry 21) -/
def State.slotRetired (s : State) (t : Table) (slot : Nat) : Bool :=
  !s.retired.isEmpty && [t.rowVa slot 0, t.rowVa slot (t.rowBytes - 1)].any fun va =>
    match s.walk t.job va with
    | some p => s.retired.contains (physOf va p / 4096)
    | none => false

/-- The value that a selector of TSTAT names: retired slots are not free (R211, R253). -/
def State.tableStat (s : State) (t : Table) (sel : StatSel) : Nat :=
  if sel = .freeSlots ∧ !s.retired.isEmpty then
    ((List.range t.rcap).filter fun x => t.slotFree x && !s.slotRetired t x).length
  else t.stat sel

/-- A slot may be allocated: it holds no key, no deterministic launch has freed it and still runs (R226), and its row lies on no
retired page (R211). -/
def State.slotOpen (s : State) (t : Table) (slot : Nat) : Bool :=
  t.slotFree slot && !t.isFrozen slot && !s.slotRetired t slot

/-- The slot that the next insert takes: any free one, or the next of the group's run. (DEDUCED, log entry 38) -/
def State.insertSlot (s : State) (i : GroupId) (t : Table) (lane : Nat) : Option Nat :=
  match s.launch? i.l with
  | none => none
  | some l =>
    if l.lrec.det then
      let g := i.linear l.lrec.ngrp
      let used := l.runUsed t.num g
      let slot := ((l.detF.find? (·.1 == t.num)).map Prod.snd).getD 0 + g * t.detres + used
      if used < t.detres ∧ s.slotOpen t slot then some slot else none
    else t.anySlot (s.slotRetired t) (4096 * s.retired.length) (Config.freeChoice s.fresh (16 + lane))

/-- An insert with the outcome inserted consumes a slot of its run (R226). (DEDUCED, log entry 37) -/
def State.useSlot (s : State) (i : GroupId) (num : BitVec 16) : State :=
  s.updLaunch i.l fun l =>
    let g := i.linear l.lrec.ngrp
    { l with detUsed := (num, g, l.runUsed num g + 1) :: l.detUsed.filter fun x => !(x.1 == num && x.2.1 == g) }

/-! ### One lane of a point operation (R219, R250) -/

/-- What one lane comes to: its outcome bit, reference and words, the fault of the plain form, a poisoned byte it
read, and the bytes of the row that it has touched, or what kept it from them. -/
structure LaneRes where
  lane : Nat
  key : BitVec 64
  hit : Bool
  ref : BitVec 64
  words : List (BitVec 32)
  fault : Option Nat
  bad : Option Nat
  reach : RowReach
  deriving DecidableEq, Repr

/-- Words of bytes. -/
def wordsOf (bs : List Byte) : Nat → List (BitVec 32)
  | 0 => []
  | n + 1 => BitVec.ofNat 32 (leNat (bs.take 4)) :: wordsOf (bs.drop 4) n

/-- The words that a descriptor moves, read from their bytes, with the offset of a poisoned one. -/
def State.rowWords (s : State) (tx : Bool) (desc : TDesc) (lane : Nat) (ps : List Loc) : List (BitVec 32) × Option Nat :=
  (wordsOf (s.seeRow tx (64 * lane) ps) desc.m, (ps.zipIdx.find? fun p => s.poisoned p.1).map fun p => 4 * desc.w + p.2)

/-- Bytes of words. -/
def wordBytes (ws : List (BitVec 32)) : List Byte := ws.flatMap fun w => leBytes 4 w.toNat

/-- An insert of an absent key (R216): the row zero-filled, then the words. (DEDUCED, log entry 38) -/
def State.insertRow (s : State) (tx : Bool) (i : GroupId) (t : Table) (desc : TDesc) (x : KeyLane) (slot : Nat)
    (ps : List Loc) : State :=
  let zero := List.replicate t.rowBytes (0 : Byte)
  let bs := zero.take (4 * desc.w) ++ wordBytes x.words ++ zero.drop (4 * (desc.w + desc.m))
  ((s.change tx i t (.ins t.num x.key slot)).useSlot i t.num).putRow tx i ps bs

/-- The bytes of a slot's row that a point operation touches (R250): all of them where the row is made or given up (R216). -/
def State.pointLocs (s : State) (l : Nat) (p : PointOp) (t : Table) (desc : TDesc) (slot : Nat) : RowReach :=
  match p with
  | .find | .repl => s.rowLocs l t slot (4 * desc.w) (4 * desc.m)
  | .ins | .del => s.rowLocs l t slot 0 t.rowBytes

/-- What a point operation makes of a slot whose bytes `ps` it has reached (R216, R219, R250); `t0` is the table, `slot` of the
present key, or the one that an insert takes. -/
def State.pointSlot (s : State) (tx : Bool) (i : GroupId) (p : PointOp) (t0 : Table) (desc : TDesc) (x : KeyLane) (slot : Nat)
    (ps : List Loc) : State × List (BitVec 32) × Option Nat :=
  match p with
  | .find => (s.change tx i t0 (.look t0.num x.key), s.rowWords tx desc x.lane ps)
  | .ins => (s.insertRow tx i t0 desc x slot ps, [], none)
  | .repl => ((s.change tx i t0 (.repl t0.num x.key)).putRow tx i ps (wordBytes x.words), [], none)
  | .del => ((s.change tx i t0 (.del t0.num x.key)).freeRow tx i slot ps,
             s.rowWords tx desc x.lane ((ps.drop (4 * desc.w)).take (4 * desc.m)))

/-- One lane of a point operation at its place in table order. A lane that cannot reach its row changes nothing. -/
def State.pointLane (s : State) (tx : Bool) (i : GroupId) (job : BitVec 32) (p : PointOp) (desc : TDesc) (x : KeyLane) :
    State × LaneRes :=
  let zeros := List.replicate desc.m (0 : BitVec 32)
  let res (hit : Bool) (ref : BitVec 64) (ws : List (BitVec 32)) (fault bad : Option Nat) (r : RowReach) : LaneRes :=
    { lane := x.lane, key := x.key, hit := hit, ref := ref, words := ws, fault := fault, bad := bad, reach := r }
  match s.tableOf job desc.table i.l with
  | none => (s, res false 0 zeros none none (.ok []))
  | some t0 =>
    let t := s.seeTable tx t0
    let look := s.change tx i t0 (.look t.num x.key)
    let act (slot : Nat) : State × LaneRes :=
      match s.pointLocs i.l p t desc slot with
      | .ok ps =>
        let r := s.pointSlot tx i p t0 desc x slot ps
        (r.1, res true (t.ref slot) r.2.1 none r.2.2 (.ok ps))
      | r => (s, res false 0 zeros none none r)
    match p, t.find x.key with
    | .find, none | .repl, none | .del, none => (look, res false 0 zeros none none (.ok []))
    | .ins, some slot => (look, res false (t.ref slot) [] (some 18) none (.ok []))
    | .ins, none =>
      match (s.insertSlot i t x.lane).filter fun slot => (t.insert x.key slot).isSome with
      | none => (look, res false 0 [] (some 19) none (.ok []))
      | some slot => act slot
    | .find, some slot | .repl, some slot | .del, some slot => act slot

/-- The lanes in ascending order (R218). -/
def State.pointLanes (s : State) (tx : Bool) (i : GroupId) (job : BitVec 32) (p : PointOp) (desc : TDesc) :
    List KeyLane → State × List LaneRes
  | [] => (s, [])
  | x :: t =>
    let r := s.pointLane tx i job p desc x
    let q := State.pointLanes r.1 tx i job p desc t
    (q.1, r.2 :: q.2)

/-- The operation writes its data names (R250). -/
def PointOp.returns (p : PointOp) : Bool := p == .find || p == .del

/-- Register results of a point operation: data names, then the reference pair, which is written last where they overlap, then
the predicate (R250). -/
def pointResults (p : PointOp) (d : Nat) (desc : TDesc) (rs : List LaneRes) : List RegWrite :=
  let m := maskOf (rs.map LaneRes.lane)
  let data : List RegWrite := if p.returns && !rs.isEmpty then
      ((List.range desc.m).filter fun j => desc.x + j != d && desc.x + j != d + 1).map fun j =>
      ({ cls := .vec, name := desc.x + j, mask := m, word := 0,
         comps := [Vector.ofFn fun l => match rs.find? (·.lane == l.val) with | some r => r.words.getD j 0 | none => 0] } :
         RegWrite)
    else []
  data ++ laneResults d true (rs.map fun r => (r.lane, r.ref)) ++ predResult desc.q (rs.map fun r => (r.lane, r.hit))

/-! ### Descriptors (R249) -/

/-- The fields of a descriptor. -/
def TDesc.ofWord (x : BitVec 64) : TDesc :=
  { q := x.toNat / 2 ^ 33 % 8, w := x.toNat / 2 ^ 26 % 2 ^ 7, m := x.toNat / 2 ^ 21 % 2 ^ 5, x := x.toNat / 2 ^ 16 % 2 ^ 5,
    table := x.setWidth 16 }

/-- A descriptor is invalid for any table: reserved bits, M, or data names past v31 for `rows` rows. (DEDUCED, log
entry 38) -/
def TDesc.bad (t : TDesc) (word : BitVec 64) (rows : Nat) : Bool :=
  word.toNat / 2 ^ 36 != 0 || decide (16 < t.m) || (t.m != 0 && decide (31 < t.x + rows * t.m - 1))

/-- The words moved pass the row. -/
def TDesc.passes (t : TDesc) (x : Table) : Bool := decide ((x.rsz + 1) * 4 < t.w + t.m)

/-- Data names of a descriptor. -/
def TDesc.names (t : TDesc) (n : Nat) : List Reg := (List.range n).map fun j => BitVec.ofNat 5 (t.x + j)

/-! ### Point operations at issue -/

/-- An access that is performed at issue may not be yet: an operation of the group that it must follow is still to be performed, or
another group's window is closed to it (R235, R257). -/
def State.heldBack (s : State) (k : OpKind) : Bool := !s.mayPerform (s.newOp none k)

/-- Results that are all undefined: those of a doomed transaction (R231). -/
def freeResults (s : State) (act : Mask) (names : List Reg) (q : Nat) : List RegWrite :=
  if act = 0 then []
  else
    names.eraseDups.map (fun n =>
        ({ cls := .vec, name := n.toNat, mask := act, word := 0, comps := [freeLanes s.fresh (256 + 8 * n.toNat)] } : RegWrite))
      ++ (if q = 0 then [] else [{ cls := .pred, name := q, mask := act, comps := [], word := Config.freeWord s.fresh (64 + q) }])

/-- Issue a table operation on ld, once the CU's table queue has a slot (R293): `s0` before it, `s` after what is decided at
issue. -/
def tableIssue (s0 s : State) (act : Mask) (dsts : List Reg) (q : Nat) (k : State → Op) : Eff :=
  if s0.queueFull s0.grp.place.part.cu .table then .stall s0
  else match loadLikeAt s0 s act dsts [] k with
  | .done t => .done (t.pendK s.nextId (BitVec.ofNat 3 q) act)
  | e => e

/-- The fault of a plain form (R250): duplicate key before table full. -/
def plainFault (rs : List LaneRes) : Option Exc :=
  let of (c : Nat) := (rs.filter fun r => r.fault == some c).map fun r => (r.lane, r.key.toNat)
  if !(of 18).isEmpty then some (laneExc 18 (of 18)) else if !(of 19).isEmpty then some (laneExc 19 (of 19)) else none

/-- uncorrectable data in the rows that lanes read (R210). (DEDUCED, log entry 32) -/
def rowPoison (rs : List LaneRes) : Option Exc :=
  let bad := rs.filterMap fun r => r.bad.map fun o => (r.lane, o)
  if bad.isEmpty then none else some (laneExc 22 bad)

/-- Rows whose page the host has still to walk (R406); lanes whose rows lie on a page that they may not, TADDR the key (R203); else a lease violation of any (R205); else the
watchpoints on their keys (R331, R339): what comes before a point operation's own faults. (DEDUCED, log entry 14) -/
def State.pointChecks (s : State) (desc : TDesc) (t : Table) (lanes : List KeyLane) (rs : List LaneRes) : Option Eff :=
  let prot := (rs.filter fun r => r.reach == .protectedPage).map fun r => (r.lane, r.key.toNat)
  match rs.findSome? fun r => r.reach.waits with
  | some va => some (.stall (s.askWalk t.hdie none t.job va))
  | none =>
  if !prot.isEmpty then some (.trap (laneExc 8 prot))
  else if (rs.any fun r => r.reach == .lease) || (!lanes.isEmpty && !s.indexLeased s.grp.id.l t) then some .lease
  else
    match s.watchKeys desc.table (lanes.map fun x => (x.lane, x.key, x.key)) with
    | .trap e => some (.trap e)
    | .stop m w => some (.stay (s.debugStop m w))
    | .clear => none

/-- The rows that lanes have touched. -/
def rowsTouched (rs : List LaneRes) : List Loc := rs.flatMap fun r => r.reach.places

/-- Lane operations of the transaction after `n` more; the 65th aborts it with cause 2 (R227). -/
def Group.txCount (g : Group) (n : Nat) : Group :=
  match g.tx with
  | none => g
  | some t =>
    let g := { g with tx := some { t with count := t.count + n } }
    if 64 < t.count + n then g.doom 2 else g

/-- The group's transaction is doomed. (DEDUCED, log entry 37) -/
def Group.doomed (g : Group) : Bool := match g.tx with | some t => t.cause != 0 | none => false

/-- A point operation whose outcomes are decided at issue: a plain form, or any form inside a transaction (R219, R255). -/
def pointNow (s : State) (q : Bool) (p : PointOp) (act : Mask) (desc : TDesc) (tab : Table) (d : Reg) (dsts reads : List Reg)
    (lanes : List KeyLane) : Eff :=
  let k := OpKind.point p d.toNat desc lanes
  let s1 := s.touch reads
  let t := if s.inTx then s1.setGrp fun g => g.txCount lanes.length else s1
  let op (rs : List RegWrite) (t : State) : Op := { t.newOp (some .ld) .results with results := rs }
  let doomed := t.grp.doomed
  let (t, rs) := if doomed then (t, []) else (t.opening (s.newOp none k)).pointLanes s.inTx s.grp.id s.grp.job p desc lanes
  if s.heldBack k then .stall s
  else
    match s.pointChecks desc tab lanes rs with
    | some e => e
    | none =>
      if doomed then tableIssue s t act dsts desc.q (op (freeResults s act dsts desc.q))
      else
        match if q then none else plainFault rs with
        | some e => .trap e
        | none =>
          match rowPoison rs with
          | some e => .trap e
          | none =>
            tableIssue s ((t.seeL2 s.grp.id (rowsTouched rs)).opening (t.newOp none k)) act dsts desc.q (op (pointResults p d.toNat desc rs))

/-- A .Q form outside a transaction: the engine performs it later (R250). -/
def pointLater (s : State) (p : PointOp) (act : Mask) (desc : TDesc) (tab : Table) (d : Reg) (dsts reads : List Reg)
    (lanes : List KeyLane) : Eff :=
  let rs := (s.pointLanes false s.grp.id s.grp.job p desc lanes).2
  match s.pointChecks desc tab lanes rs with
  | some e => e
  | none =>
    match rowPoison rs with
    | some e => .trap e
    | none => tableIssue s (s.touch reads) act dsts desc.q fun t => t.newOp (some .ld) (.point p d.toNat desc lanes)

/-- A point operation (R249, R250). -/
def pointOp (p : PointOp) (q : Bool) (g : PReg) (d a b : Reg) (s : State) : Eff :=
  let act := s.active g
  let word := s.readS b
  let desc := TDesc.ofWord word
  match s.tableOf s.grp.job desc.table s.grp.id.l with
  | none => .trap (excTable desc.table act)
  | some t =>
    if desc.bad word 1 || desc.passes t then .trap (excTable desc.table act)
    else
      let names := desc.names desc.m
      let lanes := (lanesOf act).map fun l =>
        ({ lane := l, key := s.readPair a l, words := if p.returns then [] else names.map fun n => (s.readV n).get l } : KeyLane)
      let dsts := [d, d + 1] ++ (if p.returns then names else [])
      let reads := [a, a + 1] ++ (if p.returns then [] else names)
      if q && !s.inTx then pointLater s p act desc t d dsts reads lanes else pointNow s q p act desc t d dsts reads lanes

/-- TFIND (R250). -/
def execTfind (g : PReg) (d a b : Reg) (s : State) : Host.Outcome State Fault Refusal := issue s (pointOp .find false g d a b)
/-- TINS (R250). -/
def execTins (g : PReg) (d a b : Reg) (s : State) : Host.Outcome State Fault Refusal := issue s (pointOp .ins false g d a b)
/-- TREPL (R250). -/
def execTrepl (g : PReg) (d a b : Reg) (s : State) : Host.Outcome State Fault Refusal := issue s (pointOp .repl false g d a b)
/-- TDEL (R250). (DEDUCED, log entry 38) -/
def execTdel (g : PReg) (d a b : Reg) (s : State) : Host.Outcome State Fault Refusal := issue s (pointOp .del false g d a b)
/-- TFIND_Q (R250). -/
def execTfindQ (g : PReg) (d a b : Reg) (s : State) : Host.Outcome State Fault Refusal := issue s (pointOp .find true g d a b)
/-- TINS_Q (R250). -/
def execTinsQ (g : PReg) (d a b : Reg) (s : State) : Host.Outcome State Fault Refusal := issue s (pointOp .ins true g d a b)
/-- TREPL_Q (R250). -/
def execTreplQ (g : PReg) (d a b : Reg) (s : State) : Host.Outcome State Fault Refusal := issue s (pointOp .repl true g d a b)
/-- TDEL_Q (R250). -/
def execTdelQ (g : PReg) (d a b : Reg) (s : State) : Host.Outcome State Fault Refusal := issue s (pointOp .del true g d a b)

/-! ### Rows by reference (R248) -/

/-- The reference and byte offset of a lane. -/
structure RefLane where
  lane : Nat
  ref : BitVec 64
  off : Nat
  deriving DecidableEq, Repr

/-- Lanes that fail a check. (DEDUCED, log entry 38) -/
def refBad (f : RefLane → Bool) (xs : List RefLane) (tell : RefLane → Nat) : List (Nat × Nat) :=
  (xs.filter f).map fun x => (x.lane, tell x)

/-- What the checks of LDR and STR come to (R248): bad table first; then stale row and segment limit in the plain form, in
which every lane is checked; segment limit alone in the .Q form. (DEDUCED, log entry 38) -/
def refCheck (tab : RefLane → Option Table) (stale : RefLane → Bool) (plain : Bool) (n : Nat) (xs : List RefLane) :
    Option Exc :=
  let noTable := refBad (fun x => (tab x).isNone) xs fun x => (refTable x.ref).toNat
  let old := if plain then refBad stale xs fun x => x.ref.toNat else []
  let past := refBad (fun x => match tab x with | some t => decide (t.rowBytes < x.off + n) | none => false) xs RefLane.off
  if !noTable.isEmpty then some (laneExc 15 noTable)
  else if !old.isEmpty then some (laneExc 17 old)
  else if !past.isEmpty then some (laneExc 7 past)
  else none

/-- The bytes of the lanes that are not stale, as a lane access (R203, R205, R339). -/
def State.refAccess (s : State) (k : AccKind) (n : Nat) (xs : List (RefLane × Nat)) (wr : Bool) : Checked :=
  let g := s.grp
  let rs := xs.map fun x => (x, (List.range n).map fun i => s.reachVa g.id.l g.place.part.cu g.job (x.2 + i))
  let prot := (rs.filter fun r => r.2.contains .protectedPage).map fun r => (r.1.1.lane, r.1.2)
  match s.myMissing (xs.flatMap fun x => (List.range n).map fun i => x.2 + i) with
  | some va => .stop (.stall (s.myWalk va))
  | none =>
  if !prot.isEmpty then .stop (.trap (laneExc 8 prot))
  else if rs.any fun r => r.2.contains .lease then .stop .lease
  else
    let accs : List Acc := rs.map fun r =>
      { lane := r.1.1.lane, off := r.1.1.off, data := [],
        locs := r.2.filterMap fun b => match b with | .ok pa _ => some (Loc.dev pa) | _ => none }
    match s.watchWith (fun w i => match xs.find? (·.1.lane == i) with | some x => w.hit k x.2 n | none => none)
        (xs.map fun x => x.1.lane) false with
    | .trap e => .stop (.trap e)
    | .stop m w => .stop (.stay (s.debugStop m w))
    | .clear =>
      match if wr then none else s.poisonCheck accs with
      | some e => .stop (.trap e)
      | none => .ok accs

/-- The issuing fragment's plain STR, in the injector's buffer or out of it again. -/
def State.heldStr (s : State) : Option Op :=
  s.ops.find? fun o => o.plainStr && o.gid == s.grp.id && o.addr == s.latch.start && o.lanes &&& ~~~s.frag.lanes == 0

/-- LDR and STR (R248); `out`: a plain STR that has left the injector's buffer. (DEDUCED, log entry 16; DEDUCED, log entry 51) -/
def refOp (wr out : Bool) (g : PReg) (q : PReg) (wd : Width) (d a b : Reg) (s : State) : Eff :=
  let act := s.active g
  let n := Width.bytes wd
  let wide := wd == .w64
  let xs := (lanesOf act).map fun l => ({ lane := l, ref := s.readPair a l, off := ((s.readV b).get l).toNat } : RefLane)
  let tab (x : RefLane) : Option Table := (s.tableOf s.grp.job (refTable x.ref) s.grp.id.l).map (s.seeTable s.inTx)
  let live (x : RefLane) : Option Nat := (tab x).bind fun t => (t.slotOfRef x.ref).map fun slot => t.rowVa slot x.off
  match refCheck tab (fun x => (live x).isNone) (q = 0) n xs with
  | some e => .trap e
  | none =>
    match s.refAccess (if wr then .wr else .rd) n (xs.filterMap fun x => (live x).map fun va => (x, va)) wr with
    | .stop e => e
    | .ok accs =>
      let s1 := s.touch ([a, a + 1, b] ++ (if wr then Width.names wd d else []))
      let accs := accs.map fun c => { c with data := if wr then s.dataBytes wd d c.lane else [] }
      let bits := xs.map fun x => (x.lane, (live x).isSome)
      let rows : List RowLane := xs.map fun x =>
        { lane := x.lane, ref := x.ref, off := x.off, len := n,
          locs := match accs.find? (·.lane == x.lane) with | some c => c.locs | none => [],
          data := if wr then s.dataBytes wd d x.lane else [] }
      let ps := accs.flatMap Acc.locs
      let parts := xs.filterMap fun x => (live x).map fun va => (x.lane, va, n)
      if !(q = 0) && !s.inTx then
        let k := OpKind.row wr wide d.toNat q.toNat rows
        if wr then
          match s1.holdParts (s1.newOp (some .st) k) parts with
          | none => .stall s
          | some op => if s.counterFull (some .st) then .stall s else .done ((s1.enqueue op).pendK s.nextId q act)
        else tableIssue s s1 act (Width.names wd d) q.toNat fun t => t.newOp (some .ld) k
      else if s.heldBack (if wr then .store accs none else .load (.vec 0 false) accs none false) then .stall s
      else if wr then
        let store := { s.newOp none (.row true wide d.toNat 0 rows) with performed := true }
        if s.counterFull (some .st) then .stall s
        else match if s.inTx || out then some store else s.holdParts store parts with
        | none => .stall s
        | some held =>
        if held.hold then .stall (s.enqueue held)
        else
          let t := if s.inTx then s1.txHold ps (accs.flatMap Acc.data)
            else (s1.opening (s.newOp none (.store accs none))).storeBy (some s.grp.id) s.grp.place.part.cu ps (accs.flatMap Acc.data)
          let rs := if t.grp.doomed then freeResults s act [] q.toNat else predResult q.toNat bits
          let op := { t.newOp (some .st) .results with act := act, results := rs }
          .done ((t.enqueue op).pendK s.nextId q act)
      else
        let vals := xs.map fun x => (x.lane, match accs.find? (·.lane == x.lane) with
          | some c => s.seeRow s.inTx (8 * x.lane) c.locs
          | none => [])
        let rs := if s.grp.doomed then freeResults s act (Width.names wd d) q.toNat
          else loadResults (.vec d.toNat wide) vals ++ predResult q.toNat bits
        tableIssue s ((s1.opening (s.newOp none (.load (.vec 0 false) accs none false))).seeL2 s.grp.id ps) act (Width.names wd d) q.toNat fun t =>
          { t.newOp (some .ld) .results with results := rs }

/-- LDR (R248). (DEDUCED, log entry 16) -/
def execLdr (g : PReg) (q : PReg) (wd : Width) (d a b : Reg) (s : State) : Host.Outcome State Fault Refusal :=
  issue s (refOp false false g q wd d a b)
/-- A plain STR that the injector has let go takes its effect, or raises its fault, without the buffer's entry `o`. -/
def State.letGo (s : State) (o : Op) (f : State → Eff) : Eff :=
  let s1 : State := { s with ops := s.ops.filter fun p => p.id != o.id }
  match f s1 with
  | .trap e => .trapWith e s1
  | .stall _ => .stall s
  | x => x

/-- STR (R248). In the plain form the injector holds the group at it, and its lanes are checked again at their home when it is let
go (R364). (DEDUCED, log entry 16; DEDUCED, log entry 51) -/
def execStr (g : PReg) (q : PReg) (wd : Width) (d a b : Reg) (s : State) : Host.Outcome State Fault Refusal :=
  issue s fun s =>
    match if q = 0 then s.heldStr else none with
    | none => refOp true false g q wd d a b s
    | some o => if o.hold then .stall s else s.letGo o (refOp true true g q wd d a b)

/-! ### Scans (R251, R252) and TSTAT (R253) -/

/-- A TNEXT of the group on this cursor slot is still to be performed. -/
def State.cursorBusy (s : State) (cur : BitVec 2) : Bool :=
  s.ops.any fun p => p.gid == s.grp.id && !p.performed && match p.kind with | .tnext c _ _ _ _ => c == cur | _ => false

/-- Close the cursors of lanes. -/
def Group.closeCursors (g : Group) (cur : BitVec 2) (act : Mask) : Group :=
  { g with cursors := g.cursors.filter fun c => !(c.slot == cur && act.getLsbD c.lane) }

/-- TSCAN (R252). -/
def execTscan (g : PReg) (cur : BitVec 2) (a b c : Reg) (s : State) : Host.Outcome State Fault Refusal :=
  issue s fun s =>
    let act := s.active g
    let num := (s.readS b).setWidth 16
    if s.inTx then .trap excTx
    else
      match (s.tableOf s.grp.job num s.grp.id.l).filter Table.ordered with
      | none => .trap (excTable num act)
      | some _ =>
        let xs := (lanesOf act).map fun l => (l, s.readPair a l, s.readPair c l)
        match s.watchKeys num (xs.filter fun x => decide (x.2.1.toNat ≤ x.2.2.toNat)) with
        | .trap e => .trap e
        | .stop m w => .stay (s.debugStop m w)
        | .clear =>
          if s.cursorBusy cur then .stall s
          else
            let new := xs.map fun x =>
              ({ slot := cur, lane := x.1, table := num, hi := x.2.2, last := x.2.1, returned := false, exhausted := false } :
                Cursor)
            .done ((s.touch [a, a + 1, c, c + 1]).setGrp fun g =>
              let g := g.closeCursors cur act
              { g with cursors := g.cursors ++ new })

/-- TCLOSE (R252). -/
def execTclose (g : PReg) (cur : BitVec 2) (s : State) : Host.Outcome State Fault Refusal :=
  issue s fun s =>
    if s.cursorBusy cur then .stall s else .done (s.setGrp fun x => x.closeCursors cur (s.active g))

/-- What one lane of a TNEXT returns: keys with references and words, exhausted or not, and the bytes of the rows it has read. -/
structure ScanRes where
  lane : Nat
  rows : List (BitVec 64 × BitVec 64 × List (BitVec 32))
  exhausted : Bool
  bad : Option Nat
  locs : List Loc
  deriving DecidableEq, Repr

/-- A lane of a TNEXT whose cursor is closed (R252). -/
def ScanRes.closed (lane : Nat) : ScanRes := { lane := lane, rows := [], exhausted := true, bad := none, locs := [] }

/-- Why lanes of a TNEXT stop: a page that a row may not lie on, with lane and key, a lease violation, or a wait for the host's walk of
a page. -/
inductive ScanStop where
  | prot (lane : Nat) (key : BitVec 64)
  | lease
  | wait (die : BitVec 2) (va : Nat)
  deriving DecidableEq, Repr

/-- One lane of a TNEXT at its place in table order. -/
def State.scanLane (s : State) (i : GroupId) (job : BitVec 32) (cur : BitVec 2) (n : Nat) (desc : TDesc)
    (x : Nat × Option (BitVec 16)) : Except ScanStop (State × ScanRes) :=
  match x.2.bind fun num => s.tableOf job num i.l,
      (s.group? i).bind fun g => g.cursors.find? fun c => c.slot == cur && c.lane == x.1 with
  | some t, some c =>
    let ks := t.scan c n
    let at_ := ks.map fun k => (k, s.rowLocs i.l t k.2 (4 * desc.w) (4 * desc.m))
    match at_.findSome? (fun r => r.2.waits), at_.find? fun r => r.2 == .protectedPage with
    | some va, _ => .error (.wait t.hdie va)
    | none, some r => .error (.prot x.1 r.1.1)
    | none, none =>
      if (at_.any fun r => r.2 == .lease) || !s.indexLeased i.l t then .error .lease
      else
        let ws := at_.map fun r => s.rowWords false desc x.1 r.2.places
        let c' := { c with
          last := (ks.getLast?.map Prod.fst).getD c.last,
          returned := c.returned || !ks.isEmpty,
          exhausted := c.exhausted || decide (ks.length < n) }
        .ok (s.updGroup i fun g => { g with cursors := g.cursors.map fun y => if y == c then c' else y },
          { lane := x.1, rows := (ks.zip ws).map fun r => (r.1.1, t.ref r.1.2, r.2.1), exhausted := c'.exhausted,
            bad := ws.findSome? Prod.snd, locs := at_.flatMap fun r => r.2.places })
  | _, _ => .ok (s, ScanRes.closed x.1)

/-- The lanes of a TNEXT, ascending. (DEDUCED, log entry 38) -/
def State.scanLanes (s : State) (i : GroupId) (job : BitVec 32) (cur : BitVec 2) (n : Nat) (desc : TDesc) :
    List (Nat × Option (BitVec 16)) → Except ScanStop (State × List ScanRes)
  | [] => .ok (s, [])
  | x :: t =>
    match s.scanLane i job cur n desc x with
    | .error e => .error e
    | .ok r =>
      match State.scanLanes r.1 i job cur n desc t with
      | .error e => .error e
      | .ok q => .ok (q.1, r.2 :: q.2)

/-- The lanes of a TNEXT whose rows lie on a page that they may not lie on, each with the key of the first such row; else, if a
row or the index is not leased, a lease violation (R331, rank 11). -/
def State.scanStops (s : State) (i : GroupId) (job : BitVec 32) (cur : BitVec 2) (n : Nat) (desc : TDesc)
    (lanes : List (Nat × Option (BitVec 16))) : Option Eff :=
  let stops := lanes.filterMap fun x => match s.scanLane i job cur n desc x with | .error e => some e | .ok _ => none
  let prot := stops.filterMap fun e => match e with | .prot l k => some (l, k.toNat) | _ => none
  match stops.findSome? fun e => match e with | .wait d va => some (d, va) | _ => none with
  | some x => some (.stall (s.askWalk x.1 none job x.2))
  | none =>
  if !prot.isEmpty then some (.trap (laneExc 8 prot))
  else if stops.isEmpty then none else some .lease

/-- Register results of a TNEXT (R252). -/
def scanResults (n d : Nat) (desc : TDesc) (rs : List ScanRes) : List RegWrite :=
  let m := maskOf (rs.map ScanRes.lane)
  let at_ (name : Nat) (f : ScanRes → BitVec 32) : RegWrite :=
    { cls := .vec, name := name, mask := m, word := 0,
      comps := [Vector.ofFn fun l => match rs.find? (·.lane == l.val) with | some r => f r | none => 0] }
  let row (r : ScanRes) (i : Nat) := r.rows.getD i (0, 0, [])
  let data := (List.range n).flatMap fun i => (List.range desc.m).map fun j =>
    at_ (desc.x + i * desc.m + j) fun r => (row r i).2.2.getD j 0
  let keys := (List.range n).flatMap fun i => [at_ (d + 2 * i) fun r => (row r i).1.setWidth 32,
    at_ (d + 2 * i + 1) fun r => (row r i).1.extractLsb' 32 32]
  let refs := (List.range n).flatMap fun i => [at_ (d + 2 * n + 2 * i) fun r => (row r i).2.1.setWidth 32,
    at_ (d + 2 * n + 2 * i + 1) fun r => (row r i).2.1.extractLsb' 32 32]
  if rs.isEmpty then []
  else data ++ keys ++ refs ++ predResult desc.q (rs.map fun r => (r.lane, r.exhausted))

/-- TNEXT (R252). (DEDUCED, log entry 38) -/
def execTnext (g : PReg) (cur : BitVec 2) (n1 : BitVec 3) (d b : Reg) (s : State) : Host.Outcome State Fault Refusal :=
  issue s fun s =>
    let act := s.active g
    let n := n1.toNat + 1
    let word := s.readS b
    let desc := TDesc.ofWord word
    let tab (l : Nat) : Option (BitVec 16) :=
      (s.grp.cursors.find? fun c => c.slot == cur && c.lane == l).map Cursor.table
    let lanes := (lanesOf act).map fun l => (l, tab l)
    let first := (lanes.findSome? Prod.snd).getD desc.table
    let passes := (lanes.filterMap Prod.snd).any fun t =>
      match s.tableOf s.grp.job t s.grp.id.l with | some t => desc.passes t | none => false
    if s.inTx then .trap excTx
    else if desc.bad word n || passes then .trap (excTable first act)
    else if s.cursorBusy cur then .stall s
    else
      match s.scanStops s.grp.id s.grp.job cur n desc lanes with
      | some e => e
      | none =>
        let rs := match s.scanLanes s.grp.id s.grp.job cur n desc lanes with | .ok r => r.2 | .error _ => []
        let bad := rs.filterMap fun r => r.bad.map fun o => (r.lane, o)
        if !bad.isEmpty then .trap (laneExc 22 bad)
        else
          let names := (List.range (4 * n)).map (fun i => d + BitVec.ofNat 5 i) ++ desc.names (n * desc.m)
          tableIssue s s act names desc.q fun t => t.newOp (some .ld) (.tnext cur n d.toNat desc lanes)

/-- TSTAT (R253), once the CU's table queue has a slot (R293): inside a transaction it sees the transaction's own operations (R229). -/
def execTstat (sel : StatSel) (d b : Reg) (s : State) : Host.Outcome State Fault Refusal :=
  issue s fun s =>
    let num := (s.readS b).setWidth 16
    let k := OpKind.tstat sel d.toNat num
    match s.tableOf s.grp.job num s.grp.id.l with
    | none => .trap (excTable num (s.active 0))
    | some t =>
      if s.counterFull (some .ld) || s.queueFull s.grp.place.part.cu .table then .stall s
      else if s.inTx then
        if s.heldBack k then .stall s
        else
          let x := if s.grp.doomed then Config.freeWord s.fresh 72 else BitVec.ofNat 64 (s.tableStat (s.seeTable true t) sel)
          let op := { s.newOp (some .ld) .results with
            results := [{ cls := .scalar, name := d.toNat, mask := 0, comps := [], word := x }] }
          .done ((s.enqueue op).pendS op.id d)
      else
        let op := s.newOp (some .ld) k
        .done ((s.enqueue op).pendS op.id d)

/-- A table operation is performed at its place in table order (R218, R270); a row that its engine may not reach then ends the
launch (R205), and one whose page the host has still to walk makes it wait (R406). (DEDUCED, log entry 56) -/
def State.performTable (s : State) (o : Op) : State :=
  let done (s : State) (rs : List RegWrite) : State :=
    { s.setOp { o with performed := true, instant := s.fresh, results := rs } with counts := s.counts.more s.fresh }
  match o.kind with
  | .point p d desc lanes =>
    let r := s.pointLanes false o.gid o.job p desc lanes
    match r.2.findSome? (fun x => x.reach.waits), s.tableOf o.job desc.table o.gid.l with
    | some va, some t => s.askWalk t.hdie none o.job va
    | _, _ =>
    if r.2.all fun x => match x.reach with | .ok _ => true | _ => false then
      done (r.1.seeL2 o.gid (rowsTouched r.2)) (pointResults p d desc r.2)
    else s.violate o
  | .tnext cur n d desc lanes =>
    match s.scanLanes o.gid o.job cur n desc lanes with
    | .error (.wait die va) => s.askWalk die none o.job va
    | .error _ => s.violate o
    | .ok (s, rs) => done (s.seeL2 o.gid (rs.flatMap ScanRes.locs)) (scanResults n d desc rs)
  | .tstat sel d num =>
    let x := match s.tableOf o.job num o.gid.l with | some t => s.tableStat t sel | none => 0
    done s [{ cls := .scalar, name := d, mask := 0, comps := [], word := BitVec.ofNat 64 x }]
  | _ => s

/-- TABLE_OPERATION (R218): the engine performs one queued table operation. -/
def execTableOperation (op : Nat) (s : State) : Host.Outcome State Fault Refusal :=
  event s fun s =>
    match s.op? op with
    | none => s
    | some o => if !o.performed && s.mayPerform o then s.performTable o else s

/-! ### Transactions (R227 to R232, R254, R255) -/

/-- TXB (R254). -/
def execTxb (s : State) : Host.Outcome State Fault Refusal :=
  issue s fun s =>
    if s.inTx then .trap excTx
    else .done ((s.setGrp fun g =>
      { g with tx := some { cause := 0, count := 0, ops := [], stores := [], rows := [], lines := [] } }).acquire s.grp.id
        s.grp.place.part.cu true)

/-- The transaction ends with a cause, 0 if it committed. -/
def Group.endTx (g : Group) (cause : Nat) : Group := { g with tx := none, txCause := cause }

/-- One operation of a transaction is performed at its commit; none if the pool lacks what it needs (R229). -/
def State.commitOp (s : State) (i : GroupId) (job : BitVec 32) (o : TxOp) : Option State :=
  let on (n : BitVec 16) (f : Table → Option State) : Option State :=
    match s.tableOf job n i.l with | none => none | some t => f t
  match o with
  | .look .. => some s
  | .ins n k slot => on n fun t =>
      if s.slotOpen t slot && (t.insert k slot).isSome then some (s.change false i t o) else none
  | .repl n _ => on n fun t => some (s.change false i t o)
  | .del n _ => on n fun t => some (s.change false i t o)

/-- All operations of a transaction. (DEDUCED, log entry 37) -/
def State.commitOps (s : State) (i : GroupId) (job : BitVec 32) : List TxOp → Option State
  | [] => some s
  | o :: t => match s.commitOp i job o with | none => none | some s => State.commitOps s i job t

/-- Keys that a transaction has touched (R230). -/
def TxOp.key : TxOp → BitVec 16 × BitVec 64
  | .look t k | .ins t k _ | .repl t k | .del t k => (t, k)

/-- The commit of the issuing group's live transaction (R229, R230): none if it aborts for want of room. (DEDUCED,
log entry 37) -/
def State.commit (s : State) (t : Tx) : Option State :=
  (s.commitOps s.grp.id s.grp.job t.ops).map fun s' =>
    let me := some s.grp.id
    let s' := s'.storeBy me s.grp.place.part.cu (t.stores.map fun c => .dev c.1) (t.stores.map Prod.snd)
    let rows := t.rows.map fun c => Loc.dev c.1
    let s' := ((s'.spoil false me none rows).putBytes me (some s.grp.place.part.cu) rows (t.rows.map Prod.snd)).conflictLines me t.lines
    (t.ops.map TxOp.key).foldl (fun s x => s.conflictKey me s.grp.job x.1 x.2) s'

/-- Commit records of a job still to be followed, with launch and linear group index (R363). (DEDUCED, log entry 21) -/
def State.commitsToFollow (s : State) (job : BitVec 32) : List ((BitVec 32 × Nat) × Bool) :=
  s.follow.filterMap fun r => match r with | .commit j l g ok => if j == job then some ((l, g), ok) else none | _ => none

/-- What a replay says of the group's commit: wait, abort, or nothing against it (R232, R363). -/
inductive ReplayVerdict where | wait | abort | go
  deriving DecidableEq, Repr

/-- The verdict for the issuing group: it waits for the successful commits that precede its own record. (DEDUCED, log entry
21) -/
def State.replayVerdict (s : State) : ReplayVerdict :=
  let cs := s.commitsToFollow s.grp.job
  let me := s.replayName s.grp.id
  match cs.find? fun c => c.1 == me with
  | none => .go
  | some c =>
    if !s.grp.det then .go
    else if (cs.takeWhile fun x => x.1 != me).any Prod.snd then .wait
    else if c.2 then .go else .abort

/-- The record of a commit: added to the log, taken from a log that is followed (R232, R362). (DEDUCED, log entry 21) -/
def State.logCommit (s : State) (ok : Bool) : State :=
  let n := s.replayName s.grp.id
  let mine (r : ReplayRec) : Bool := match r with | .commit j l g _ => j == s.grp.job && (l, g) == n | _ => false
  { s with
    replay := s.replay ++ [.commit s.grp.job n.1 n.2 ok],
    follow := match s.follow.findIdx? mine with | some i => s.follow.eraseIdx i | none => s.follow }

/-- TXC ends with a cause. -/
def txEnd (s : State) (d : Reg) (cause : Nat) : Eff :=
  .done (((s.logCommit (cause == 0)).setGrp fun g => g.endTx cause).writeS d (BitVec.ofNat 64 cause) 2)

/-- TXC (R255); one that commits is a release, which waits for the group's earlier accesses, those that an injector holds among
them (R229, R365). (DEDUCED, log entry 37) -/
def execTxc (d : Reg) (s : State) : Host.Outcome State Fault Refusal :=
  issue s fun s =>
    match s.grp.tx with
    | none => .trap excTx
    | some t =>
      if s.grp.ld ≠ 0 ∨ s.grp.st ≠ 0 then .stall s
      else
        match s.replayVerdict with
        | .wait => .stall s
        | .abort => txEnd s d (if t.cause = 0 then 1 else t.cause)
        | .go =>
          if t.cause ≠ 0 then txEnd s d t.cause
          else if !s.quiet ∨ s.queueFull s.grp.place.part.cu .table then .stall s
          else
            match s.commit t with
            | none => txEnd s d 2
            | some s' => txEnd (s'.releaseL2 s.grp.id false) d 0

/-- TXA (R254): it waits for earlier loads of bytes that the transaction holds back. (DEDUCED, log entry 37) -/
def execTxa (s : State) : Host.Outcome State Fault Refusal :=
  issue s fun s =>
    match s.grp.tx with
    | none => .trap excTx
    | some t =>
      if s.busyLocs (t.stores.map fun c => .dev c.1) then .stall s
      else .done (s.setGrp fun g => g.endTx (if t.cause = 0 then 5 else t.cause))

/-- TXST (R254): its result is readable after 2 cycles, as a scalar result of R21's integer class. (DESIGN CHOICE, log entry 61) -/
def execTxst (d : Reg) (s : State) : Host.Outcome State Fault Refusal :=
  issue s fun s =>
    let c := match s.grp.tx with | some t => t.cause | none => s.grp.txCause
    .done (s.writeS d (BitVec.ofNat 64 c) 2)

end Sys2Proof.Machine
end

