-- ==== Sys2Proof/Machine/Reed.lean ====
section
/-! DEFINITION. The KV cache and decode attention inside the memory stacks (R313 to R328). -/

namespace Sys2Proof.Machine

/-! ### Cache records (R313, R314) -/

/-- The fields of a cache record. -/
structure Cache where
  pool : Nat
  lbsz : Nat
  kf : Bool
  dh : Nat
  table : BitVec 16
  nh : Nat
  nblk : Nat
  free : Nat
  refs : Nat
  reserved : Bool
  deriving DecidableEq, Repr

/-- The fields of 512 bits. -/
def Cache.of (x : BitVec 512) : Cache :=
  let f := recField x.toNat
  { pool := f 0 52, lbsz := f 52 5, kf := f 57 1 == 1, dh := if f 58 1 = 1 then 128 else 64, table := BitVec.ofNat 16 (f 64 16),
    nh := f 80 6, nblk := f 96 24, free := f 128 52, refs := f 192 52,
    reserved := f 59 5 != 0 || f 86 10 != 0 || f 120 8 != 0 || f 180 12 != 0 || f 244 268 != 0 }

/-- Bytes of an element (R314). -/
def Cache.esz (c : Cache) : Nat := if c.kf then 1 else 2
/-- HB (R314). -/
def Cache.hb (c : Cache) : Nat := 32 * c.dh * c.esz + (if c.kf then 128 else 0)
/-- Names that a row takes (R324). -/
def Cache.nk (c : Cache) : Nat := max 1 (c.dh * c.esz / 128)
/-- RS (R320). -/
def Cache.rs (c : Cache) : Nat := 16 + 4 * c.dh
/-- Scale blocks of a row. -/
def Cache.nq (c : Cache) : Nat := c.dh / 32
/-- Virtual address of a block. -/
def Cache.blockVa (c : Cache) (b : Nat) : Nat := c.pool + b * 2 ^ c.lbsz

/-- The record breaks a rule of R313 that does not name its table. -/
def Cache.bad (c : Cache) : Bool :=
  c.reserved || c.pool % 2 ^ 21 != 0 || decide (c.lbsz < 12 ∨ 21 < c.lbsz) || decide (2 ^ c.lbsz < (c.nh + 1) * c.hb)
    || c.nblk == 0 || c.free % 4 != 0 || c.refs % 4 != 0

/-- Byte offset in a head segment of the K (or V) row of a token (R314). -/
def Cache.rowOff (c : Cache) (v : Bool) (t : Nat) : Nat := (if v then 16 * c.dh * c.esz else 0) + t * c.dh * c.esz
/-- Byte offset of the scales of a row. -/
def Cache.scaleOff (c : Cache) (v : Bool) (t : Nat) : Nat := 32 * c.dh + (if v then 64 else 0) + t * c.nq

/-- The key of a logical block (R315). -/
def blockKey (seq : BitVec 32) (lb : Nat) : BitVec 64 := seq ++ BitVec.ofNat 32 lb

/-- Read and check the cache record that S(a) names; `ill` is an illegal encoding that depends on the record, which ranks before
transaction misuse (R297, R313, R323 to R325). With no lane active nothing is read (R296). (DEDUCED, log entry 44) -/
def withCache (s : State) (g : PReg) (a : Reg) (ill : Cache → Bool) (k : BitVec 512 → Cache → Table → Eff) : Eff :=
  if s.active g = 0 then .done s
  else
    let x := s.readS a
    match s.checkAccess .unwatched (segOf x) (baseHigh x) [0, 4] 1 64 [{ lane := 0, off := x.toNat % 2 ^ 52 }] true with
    | .stop e => if s.inTx then .trap excTx else e
    | .ok accs =>
      let ps := accs.flatMap Acc.locs
      if s.busyLocs ps then .stall s
      else
        let r := BitVec.ofNat 512 (leNat (s.readNow ps))
        let c := Cache.of r
        let tab := (s.tableOf s.grp.job c.table s.grp.id.l).filter Table.ordered
        if ill c then .trap excIllegal
        else if s.inTx then .trap excTx
        else
          match tab with
          | none => .trap (excTable c.table (s.active g))
          | some t => if c.bad then .trap (excTable c.table (s.active g)) else k r c t

/-! ### Words in memory that the device keeps (R315) -/

/-- Where a launch's engines find `n` bytes at an address; none if one lies outside the lease (R205). -/
def State.engineLocs (s : State) (l : Nat) (die : BitVec 2) (job : BitVec 32) (va n : Nat) : Option (List Loc) :=
  let rs := (List.range n).map fun i => s.engineVa l die job (va + i)
  if rs.all fun r => match r with | .ok _ _ => true | _ => false then
    some (rs.filterMap fun r => match r with | .ok pa _ => some (Loc.dev pa) | _ => none)
  else none

/-- A word of the issuing launch. -/
def State.word? (s : State) (die : BitVec 2) (va : Nat) : Option Nat :=
  (s.engineLocs s.grp.id.l die s.grp.job va 4).map fun ps => leNat (s.readLocs ps)

/-- Write a word of the issuing launch; none if it lies outside the lease (R205). -/
def State.putWord (s : State) (die : BitVec 2) (va x : Nat) : Option State :=
  (s.engineLocs s.grp.id.l die s.grp.job va 4).map fun ps =>
    (s.placeBy none (some s.grp.id) none ps (leBytes 4 x)).seeL2 s.grp.id ps

/-- The physical address of a block, if it is mapped. -/
def State.blockPa (s : State) (die : BitVec 2) (job : BitVec 32) (va : Nat) : Option (Nat × BitVec 64) :=
  (s.translate die none job va).map fun p => (physOf va p, p.2.2)

/-! ### KVAPP (R324) -/

/-- The bytes of a token with their addresses: K row, V row, scales (R314, R324). -/
def State.tokenBytes (s : State) (c : Cache) (blk h t : Nat) (d b : Reg) : List (Nat × List Byte) :=
  let base := c.blockVa blk + h * c.hb
  let names (k : Nat) : List Byte := (List.range c.nk).flatMap fun i => lanesBytes (s.readV (d + BitVec.ofNat 5 (k + i)))
  let n := c.dh * c.esz
  let sc := leBytes 8 (s.readS (b + 2)).toNat
  [(base + c.rowOff false t, (names 0).take n), (base + c.rowOff true t, (names c.nk).take n)]
    ++ (if c.kf then [(base + c.scaleOff false t, sc.take c.nq), (base + c.scaleOff true t, (sc.drop 4).take c.nq)] else [])

/-- The places of a token's bytes: pages of lane accesses, since the rows are class St (R203, R205, R260). -/
def State.tokenAccs (s : State) (xs : List (Nat × List Byte)) : Checked :=
  let rs := xs.map fun x => (x, (List.range x.2.length).map fun i => s.reachVa s.grp.id.l s.grp.place.part.cu s.grp.job (x.1 + i))
  match s.myMissing (xs.flatMap fun x => (List.range x.2.length).map fun i => x.1 + i) with
  | some va => .stop (.stall (s.myWalk va))
  | none =>
  match rs.find? fun r => r.2.contains .protectedPage with
  | some r => .stop (.trap { code := 8, addr := BitVec.ofNat 64 r.1.1, mask := 0, info := 0 })
  | none =>
    if rs.any fun r => r.2.contains .lease then .stop .lease
    else .ok (rs.map fun r =>
      { lane := 0, off := 0, data := r.1.2, locs := r.2.filterMap fun b => match b with | .ok pa _ => some (Loc.dev pa) | _ => none })

/-- table full of KVAPP: the key. (DEDUCED, log entry 44) -/
def excKvFull (key : BitVec 64) (act : Mask) : Exc := { code := 19, addr := key, mask := act, info := 0 }

/-- A row on a page that a row may not lie on: the key, as for a point operation (R203). (DEDUCED, log entry 44) -/
def excKvPage (key : BitVec 64) (act : Mask) : Exc := { code := 8, addr := key, mask := act, info := 0 }

/-- The places of a row's first bytes, or what keeps the device from them. -/
def State.kvRow (s : State) (t : Table) (slot n : Nat) (key : BitVec 64) (act : Mask) : Except Eff (List Loc) :=
  match s.rowLocs s.grp.id.l t slot 0 n with
  | .ok ps => .ok ps
  | .protectedPage => .error (.trap (excKvPage key act))
  | .lease => .error .lease
  | .wait va => .error (.stall (s.askWalk t.hdie none t.job va))

/-- Pop the free list, which holds `n` blocks, and bind block `b` to the key in a slot whose row's places are `ps` (R324); none is
a lease violation. -/
def State.kvBind (s : State) (c : Cache) (t : Table) (key : BitVec 64) (slot : Nat) (ps : List Loc) (n b : Nat) :
    Option State :=
  let x : KeyLane := { lane := 0, key := key, words := [BitVec.ofNat 32 b] }
  let s := (s.insertRow false s.grp.id t { q := 0, w := 0, m := 1, x := 0, table := t.num } x slot ps).seeL2 s.grp.id ps
  (s.putWord t.hdie c.free (n - 1)).bind fun s => s.putWord t.hdie (c.refs + 4 * b) 1

/-- The block of a token: the key's, or the top of the free list, which the device then pops and binds to the key. The
block, and the state after the pop and the insert (R324). -/
def State.kvBlock (s : State) (c : Cache) (t : Table) (key : BitVec 64) (act : Mask) : Except Eff (Nat × State) :=
  if !s.indexLeased s.grp.id.l t then .error .lease
  else
    match t.find key with
    | some slot => (s.kvRow t slot 4 key act).map fun ps => (leNat (s.readLocs ps), s)
    | none =>
      match s.word? t.hdie c.free with
      | none => .error .lease
      | some n =>
        let full := Except.error (Eff.trap (excKvFull key act))
        match (s.insertSlot s.grp.id t 0).filter fun slot => n != 0 && (t.insert key slot).isSome with
        | none => full
        | some slot =>
          match s.kvRow t slot t.rowBytes key act, s.word? t.hdie (c.free + 4 * n) with
          | .error e, _ => .error e
          | .ok _, none => .error .lease
          | .ok ps, some b =>
            match s.kvBind c t key slot ps n b with
            | none => .error .lease
            | some s' => .ok (b, s')

/-- The page of the device's own words of a cache, for `b` the block that a key has or gets, whose walk the host has still to make
(R315, R406). -/
def State.kvMissing (s : State) (c : Cache) (t : Table) (key : BitVec 64) : Option Nat :=
  let n := (s.word? t.hdie c.free).getD 0
  let b := match t.find key with
    | some slot => leNat (s.readLocs ((s.rowLocs s.grp.id.l t slot 0 4).places))
    | none => (s.word? t.hdie (c.free + 4 * n)).getD 0
  s.walkMissing t.hdie none t.job [c.free, c.free + 4 * n, c.free + 4 * (n + 1), c.refs + 4 * b]

/-- KVAPP or KVAPP.DROP waits: for what precedes it in table order, for its counter, or for a slot of the table queue (R218, R293,
R323). -/
def State.kvWaits (s : State) (t : Table) : Bool :=
  s.heldBack (.tstat .rows 0 t.num) || s.counterFull (some .st) || s.queueFull s.grp.place.part.cu .table

/-- KVAPP (R324): its place decided, it leaves the table queue, and its row bytes follow. (DEDUCED, log entry 44; DEDUCED, log
entry 51) -/
def execKvapp (g : PReg) (d a b : Reg) (s : State) : Host.Outcome State Fault Refusal :=
  issue s fun s => withCache s g a (fun c => decide (31 < d.toNat + 2 * c.nk - 1)) fun _ c t =>
    let act := s.active g
    let x := s.readS b
    let hx := (s.readS (b + 1)).toNat
    let token := x.toNat % 2 ^ 32
    let key := blockKey (x.extractLsb' 32 32) (token / 16)
    if 64 ≤ hx ∨ c.nh < hx then .trap (excTable c.table act)
    else if s.kvWaits t then .stall s
    else match s.kvMissing c t key with
    | some va => .stall (s.askWalk t.hdie none t.job va)
    | none =>
      match s.kvBlock c t key act with
      | .error e => e
      | .ok (blk, s') =>
        match s.tokenAccs (s.tokenBytes c blk hx (token % 16) d b) with
        | .stop e => e
        | .ok accs =>
          let t := s'.touch ((List.range (2 * c.nk)).map fun i => d + BitVec.ofNat 5 i)
          let parts := (s.tokenBytes c blk hx (token % 16) d b).map fun r => (0, r.1, r.2.length)
          match t.holdParts { t.newOp (some .st) (.kvapp accs) with started := true } parts with
          | none => .stall s
          | some op => .done (t.enqueue op)

/-- Push a block onto a free list (R315), by the translation of the job. -/
def State.pushFree (s : State) (p : KvPush) : State :=
  let word (va : Nat) : Option Nat := (s.translate p.die none p.job va).map fun q => physOf va q
  match word p.free with
  | none => s
  | some pa =>
    let n := leNat (readBytes s.mem pa 4)
    match word (p.free + 4 * (n + 1)) with
    | none => s
    | some e =>
      let ps := (List.range 4).map fun i => Loc.dev (e + i)
      let qs := (List.range 4).map fun i => Loc.dev (pa + i)
      s.placeBy none none none (ps ++ qs) (leBytes 4 p.block ++ leBytes 4 (n + 1))

/-- The free list's count and the entry that a push writes lie inside the lease (R205, R315). -/
def State.freeLeased (s : State) (c : Cache) (die : BitVec 2) : Bool :=
  match s.word? die c.free with
  | none => false
  | some n => (s.word? die (c.free + 4 * (n + 1))).isSome

/-- A block goes back to the free list once nothing pins it (R317, R324). -/
def State.giveBlock (s : State) (c : Cache) (die : BitVec 2) (blk : Nat) : State :=
  let p : KvPush := { job := s.grp.job, die := die, free := c.free, block := blk }
  let pa := (s.blockPa die s.grp.job (c.blockVa blk)).map Prod.fst
  if s.pins.any fun x => some x.pa == pa then
    { s with pins := s.pins.map fun x => if some x.pa == pa then { x with push := some p } else x }
  else s.pushFree p

/-- A block's reference count falls by 1, unless it is 0; from 1 the block goes back to the free list (R324). None is a lease
violation. -/
def State.unrefBlock (s : State) (c : Cache) (die : BitVec 2) (blk : Nat) : Option State :=
  match s.word? die (c.refs + 4 * blk) with
  | none => none
  | some 0 => some s
  | some 1 =>
    if s.freeLeased c die then (s.putWord die (c.refs + 4 * blk) 0).map fun s => s.giveBlock c die blk else none
  | some (n + 2) => s.putWord die (c.refs + 4 * blk) (n + 1)

/-- A key's row is deleted, its bytes left undefined (R216), and its block's count falls (R324). -/
def State.dropKey (s : State) (c : Cache) (t : Table) (slot : Nat) (key : BitVec 64) (ps : List Loc) : Option State :=
  (s.unrefBlock c t.hdie (leNat (s.readLocs (ps.take 4)))).map fun s =>
    ((s.change false s.grp.id t (.del t.num key)).freeRow false s.grp.id slot ps).seeL2 s.grp.id ps

/-- KVAPP_DROP (R324). (DEDUCED, log entry 44) -/
def execKvappDrop (g : PReg) (a b : Reg) (s : State) : Host.Outcome State Fault Refusal :=
  issue s fun s => withCache s g a (fun _ => false) fun _ c t =>
    let key := s.readS b
    if s.kvWaits t then .stall s
    else if !s.indexLeased s.grp.id.l t then .lease
    else match s.kvMissing c t key with
    | some va => .stall (s.askWalk t.hdie none t.job va)
    | none =>
      let out (s : State) : Eff := .done (s.enqueue (s.newOp (some .st) .results))
      match t.find key with
      | none => out s
      | some slot =>
        match s.kvRow t slot t.rowBytes key (s.active g) with
        | .error e => e
        | .ok ps => match s.dropKey c t slot key ps with | none => .lease | some s => out s

/-! ### QPOST (R325) and resolution (R316, R317) -/

/-- QPOST (R325). -/
def execQpost (g : PReg) (c : BitVec 5) (d a b : Reg) (s : State) : Host.Outcome State Fault Refusal :=
  issue s fun s => withCache s g a (fun r => r.dh == 128 && decide (30 < d.toNat)) fun x r _ =>
    let y := (s.readS (b + 1)).toNat
    let h := y / 2 ^ 32 % 64
    let dest := y / 2 ^ 40 % 2 ^ 23
    let i := s.grp.id
    if y / 2 ^ 38 % 4 ≠ 0 ∨ y / 2 ^ 63 ≠ 0 ∨ r.nh < h then .trap (excTable r.table (s.active g))
    else if dest % 16 ≠ 0 ∨ s.grp.limit 1 < dest + 8 * r.rs then
      .trap { code := 7, addr := BitVec.ofNat 64 dest, mask := 0, info := 0 }
    else
      let bar := if c = 31 then none else s.namedBar i.blk c.toNat
      if c ≠ 31 ∧ bar.isNone then .trap (excBarrier c.toNat)
      else
        let z := s.readS b
        let names := if r.dh = 128 then [d, d + 1] else [d]
        let q : Query := { crec := x, seq := z.extractLsb' 32 32, n := z.toNat % 2 ^ 32, h := h, sigma := BitVec.ofNat 32 y,
                           q := names.map s.readV, dest := dest, l := i.l, blk := i.blk, die := s.grp.place.part.cu.die }
        let o := { s.newOp (some .cp) (.query q) with
          bar := bar, bytes := 8 * r.rs, img := [(i.blk, dest, 8 * r.rs)] }
        match engineIssue s o none with
        | .done t => .done ((t.touch names).holdSources o.id names [])
        | e => e

/-- What the lookup of a key comes to (R316): a missing block, a block, a lease violation, or a wait for the host's walk of a page
(R406). -/
inductive BlockLook where
  | missing
  | block (e : BtcEntry)
  | lease
  | wait (die : BitVec 2) (va : Nat)
  deriving DecidableEq, Repr

/-- Fill an entry of a die's cache, in place of its oldest when it is full (R316). (DEDUCED, log entry 44) -/
def State.fillBtc (s : State) (e : BtcEntry) : State :=
  let mine := s.btc.filter fun x => x.die == e.die
  let old := if mine.length < 4096 then [] else mine.take 1
  { s with btc := (s.btc.filter fun x => !old.contains x) ++ [e] }

/-- The entry that the table gives for a key: the block that its row names, and where that lies (R315, R316). A row that its engine
may not read, and a number at or above NBLK, give a missing block. (DEDUCED, log entry 44) -/
def State.tableBlock (s : State) (l : Nat) (die : BitVec 2) (job : BitVec 32) (c : Cache) (key : BitVec 64) : BlockLook :=
  match s.tableOf job c.table l with
  | none => .missing
  | some t =>
    if !s.indexLeased l t then .lease
    else
      match (t.find key).map fun slot => s.rowLocs l t slot 0 4 with
      | none | some .protectedPage => .missing
      | some .lease => .lease
      | some (.wait va) => .wait t.hdie va
      | some (.ok ps) =>
        let b := leNat (s.readLocs ps)
        if c.nblk ≤ b then .missing
        else
          match s.walkMissing die none job [c.blockVa b], s.blockPa die job (c.blockVa b) with
          | some va, _ => .wait die va
          | none, none => .lease
          | none, some (pa, pte) =>
            .block { die := die, job := job, table := c.table, key := key, block := b, pa := pa, prot := pteProt pte }

/-- The block of a key: from the die's block translation cache, else from the table, which fills an entry (R316). -/
def State.lookBlock (s : State) (l : Nat) (die : BitVec 2) (job : BitVec 32) (c : Cache) (key : BitVec 64) :
    State × BlockLook :=
  match s.btc.find? fun e => e.die == die && e.job == job && e.table == c.table && e.key == key with
  | some e => (s, if c.nblk ≤ e.block then .missing else .block e)
  | none =>
    match s.tableBlock l die job c key with
    | .block e => (s.fillBtc e, .block e)
    | r => (s, r)

/-- The stack of a physical address, 0 to 7 (R200). -/
def stackOf (pa : Nat) : Nat := pa / 2 ^ 36 % 8

/-- A Reed unit has reported ready (R403). (DEDUCED, log entry 44) -/
def State.reedReady (s : State) (stack : Nat) : Bool := s.ready.getLsbD (28 + stack)

/-- Take a pin. -/
def State.pin (s : State) (pa : Nat) : State :=
  if s.pins.any fun p => p.pa == pa then
    { s with pins := s.pins.map fun p => if p.pa == pa then { p with count := p.count + 1 } else p }
  else { s with pins := s.pins ++ [{ pa := pa, count := 1, push := none }] }

/-- Drop a pin; with the last one a waiting push takes place (R317). -/
def State.unpin (s : State) (pa : Nat) : State :=
  match s.pins.find? fun p => p.pa == pa with
  | none => s
  | some p =>
    if 1 < p.count then { s with pins := s.pins.map fun x => if x.pa == pa then { x with count := x.count - 1 } else x }
    else
      let s := { s with pins := s.pins.filter fun x => x.pa != pa }
      match p.push with | some q => s.pushFree q | none => s

/-- Logical blocks of a query. -/
def Query.blocks (q : Query) : Nat := (q.n + 15) / 16

/-- What one logical block resolves to: none is a lease violation, an error a page that the host has still to walk (R406). (DEDUCED, log
entry 44) -/
def State.resolveOne (s : State) (o : Op) (q : Query) (lb : Nat) : Except (BitVec 2 × Nat) (State × Option Resolved) :=
  let c := Cache.of q.crec
  let r := s.lookBlock o.gid.l q.die o.job c (blockKey q.seq lb)
  let missing : Resolved := { lb := lb, block := none, prot := false }
  match r.2 with
  | .wait die va => .error (die, va)
  | .lease => .ok (r.1, none)
  | .missing => .ok (r.1, some missing)
  | .block e =>
    let leased := match s.launch? o.gid.l with
      | some l => l.covers (c.blockVa e.block + q.h * c.hb) c.hb
      | none => false
    if !leased then .ok (r.1, none)
    else if !s.reedReady (stackOf e.pa) then .ok (r.1, some missing)
    else .ok (r.1.pin e.pa, some { lb := lb, block := some (e.block, e.pa), prot := e.prot })

/-- Drop every pin that a query still holds. (DEDUCED, log entry 56) -/
def State.dropAllPins (s : State) (o : Op) : State :=
  (o.resolved.filter fun r => !o.parts.contains r.lb).foldl
    (fun (s : State) r => match r.block with | some b => s.unpin b.2 | none => s) s

/-- BLOCK_RESOLVE (R316, R317): the oldest query of its CU's queue, or one that has started, resolves its next logical
block, after the acquires of its group that precede it (R267 note 4); the first resolution is its start. -/
def execBlockResolve (op : Nat) (s : State) : Host.Outcome State Fault Refusal :=
  event s fun s =>
    match s.op? op with
    | none => s
    | some o =>
      match o.kind with
      | .query q =>
        let first := !((opsBefore s.ops op).any fun p => p.cu == o.cu && p.kind.queue == .reed && !p.started)
        if !s.mayPerform o || (!o.started && !first) then s
        else if o.resolved.length < q.blocks then
          match s.resolveOne o q o.resolved.length with
          | .error x => s.askWalk x.1 none o.job x.2
          | .ok (_, none) => (s.dropAllPins o).violate o
          | .ok (s, some r) => s.setOp { o with started := true, resolved := o.resolved ++ [r] }
        else s.setOp { o with started := true }
      | _ => s

/-! ### The query in a stack (R318, R320) -/

/-- A cache element: its value. -/
def Cache.elem (c : Cache) (raw i : Nat) : Num :=
  if c.kf then codeVal 0x2C (raw / 2 ^ (8 * i) % 256) else codeVal 0x0A (raw / 2 ^ (16 * i) % 2 ^ 16)

/-- The bytes of an element as a Reed unit reads them from the stack (R271): those of the last write-back, or newer ones, whichever;
the querying group's own KVAPPs, and what has reached it by releases and acquires at .MEM or wider, are always seen (R321).
(DEDUCED, log entry 17) -/
def State.stackBytes (s : State) (i : GroupId) (pa n : Nat) : List Byte :=
  let newer := Config.freeBit s.fresh (2 ^ 42 + pa)
  (List.range n).map fun k =>
    match s.dirty.find? fun d => d.pa == pa + k with
    | some d => if newer || d.by_ == some i || d.sure.contains i then readByte s.mem (pa + k) else d.old
    | none => readByte s.mem (pa + k)

/-- One row of the cache as a group's query reads it: elements with their scales, and whether a scale is 0xFF. -/
def State.cacheRow (s : State) (i : GroupId) (c : Cache) (seg : Nat) (v : Bool) (t : Nat) : List Num × Bool :=
  let raw := leNat ((List.range c.dh).flatMap fun e => s.stackBytes i (seg + c.rowOff v t + e * c.esz) c.esz)
  let scs := if c.kf then (List.range c.nq).flatMap fun e => s.stackBytes i (seg + c.scaleOff v t + e) 1 else []
  let scale (i : Nat) : Num := match scs[i / 32]? with | some x => codeVal 0x0B x.toNat | none => Num.ofNat 1
  ((List.range c.dh).map fun i => (c.elem raw i).mul (scale i), scs.contains 0xFF)

/-- The elements of a query vector as values. -/
def Query.values (q : Query) (dh : Nat) : List Num :=
  let raw := leNat (q.q.flatMap lanesBytes)
  (List.range dh).map fun i => codeVal 0x0A (raw / 2 ^ (16 * i) % 2 ^ 16)

/-- A scored token: its score and the weighted values of its V row, not yet weighted. -/
structure Scored where
  s : BitVec 32
  v : List Num
  bad : Bool
  deriving DecidableEq, Repr

/-- Score one token (R318). -/
def State.scoreToken (s : State) (i : GroupId) (c : Cache) (q : Query) (seg t : Nat) : Scored :=
  let k := s.cacheRow i c seg false t
  let v := s.cacheRow i c seg true t
  let dot := numSum (((q.values c.dh).zip k.1).map fun p => p.1.mul p.2)
  { s := round32 .rne 0 ((val32 (round32 .rne 0 dot)).mul (val32 q.sigma)), v := v.1, bad := k.2 || v.2 }

/-- The factor of a score against the largest: 1 if equal, else FEXP2 of the difference (R318, R328). -/
def expFactor (x m : BitVec 32) : Num :=
  if x = m then Num.ofNat 1 else val32 (fexp2Rne (round32 .rne 0 ((val32 x).add false (val32 m).neg)))

/-- The triple of a stack's tokens: m, l and a (R318). -/
def triple (dh : Nat) (xs : List Scored) : BitVec 32 × BitVec 32 × List (BitVec 32) :=
  match xs with
  | [] => (0xFF800000, 0, List.replicate dh 0)
  | x :: t =>
    let m := t.foldl (fun m y => fmax32 m y.s) x.s
    let ps := xs.map fun y => expFactor y.s m
    let prods := xs.zip ps |>.map fun y => y.1.v.map fun v => y.2.mul v
    let nan := xs.any (fun y => y.bad || isNan32 y.s) || prods.any fun r => r.contains .nan
    if nan then (0x7FC00000, 0x7FC00000, List.replicate dh 0x7FC00000)
    else
      (m, round32 .rne 0 (numSum ps),
       (List.range dh).map fun i => round32 .rne 0 (numSum (prods.map fun r => r.getD i (Num.zero false))))

/-- The tokens of a query that one resolved block holds: positions 0 to n − 1. -/
def Query.tokensIn (q : Query) (lb : Nat) : Nat := min 16 (q.n - 16 * lb)

/-- The ranges of bytes that a query reads in a head segment for `n` tokens (R314). -/
def Cache.readRanges (c : Cache) (seg n : Nat) : List (Nat × Nat) :=
  [(seg, n * c.dh * c.esz), (seg + c.rowOff true 0, n * c.dh * c.esz)]
    ++ (if c.kf then [(seg + c.scaleOff false 0, n * c.nq), (seg + c.scaleOff true 0, n * c.nq)] else [])

/-- Poisoned codewords among ranges. -/
def State.poisonIn (s : State) (rs : List (Nat × Nat)) : List Nat :=
  s.poison.filter fun w => rs.any fun r => decide (0 < r.2 ∧ r.1 < 64 * w + 64 ∧ 64 * w < r.1 + r.2)

/-- The record of a stack (R320). Whether the reads meet a correctable error is open. (DEDUCED, log entry 44) -/
def State.stackRecord (s : State) (o : Op) (q : Query) (stack : Nat) : List Byte :=
  let c := Cache.of q.crec
  let here := o.resolved.filterMap fun r => r.block.bind fun b => if stackOf b.2 = stack then some (r, b.2) else none
  let scored := here.filter fun x => !x.1.prot
  let seg (pa : Nat) : Nat := pa + q.h * c.hb
  let toks := scored.flatMap fun x => (List.range (q.tokensIn x.1.lb)).map fun t => (seg x.2, t)
  let bad := s.poisonIn (scored.flatMap fun x => c.readRanges (seg x.2) (q.tokensIn x.1.lb))
  let tri := triple c.dh (toks.map fun x => s.scoreToken o.gid c q x.1 x.2)
  let nan : BitVec 32 := 0x7FC00000
  let tri := if bad.isEmpty then tri else (nan, nan, List.replicate c.dh nan)
  let miss := (o.resolved.filter fun r => r.block.isNone).length
  let status := (if c.dh = 128 then 256 else 0) + stack * 32 + (if here.any fun x => x.1.prot then 16 else 0)
    + (if stack = 0 ∧ 0 < miss then 8 else 0) + (if !toks.isEmpty && Config.freeBit s.fresh (2 ^ 43 + stack) then 4 else 0)
    + (if toks.isEmpty then 2 else 0) + (if bad.isEmpty then 0 else 1)
  let bank := ((bad.map fun w => Config.bankOf (64 * w) % 1024).min?).getD 0
  leBytes 4 tri.1.toNat ++ leBytes 4 tri.2.1.toNat ++ leBytes 4 status ++ leBytes 2 bank
    ++ leBytes 2 (if stack = 0 then min miss 0xFFFF else 0) ++ tri.2.2.flatMap fun w => leBytes 4 w.toNat

/-- STACK_QUERY (R318): stack `stack` returns its record, once every block is resolved and the group's own earlier
KVAPPs have completed (R321). (DEDUCED, log entry 17) -/
def execStackQuery (op stack : Nat) (s : State) : Host.Outcome State Fault Refusal :=
  event s fun s =>
    match s.op? op with
    | none => s
    | some o =>
      match o.kind with
      | .query q =>
        let waits := (opsBefore s.ops op).any fun p => p.gid == o.gid && match p.kind with | .kvapp _ => true | _ => false
        if !o.started || o.resolved.length < q.blocks || 8 ≤ stack || o.records.contains stack || waits || !s.mayPerform o then s
        else
          s.setOp { o with records := o.records ++ [stack],
                           buf := o.buf ++ [{ i := stack, bytes := s.stackRecord o q stack, fate := .ok }] }
      | _ => s

/-- The pins of an operation on blocks whose stacks have returned their records are dropped (R317). -/
def State.dropPins (s : State) (o : Op) : State :=
  let done := o.resolved.filterMap fun r => r.block.bind fun b =>
    if o.records.contains (stackOf b.2) && !o.parts.contains r.lb then some (r.lb, b.2) else none
  let s := done.foldl (fun (s : State) x => s.unpin x.2) s
  s.updOp o.id fun o => { o with parts := o.parts ++ done.map Prod.fst }

/-- PIN_RELEASE (R317). -/
def execPinRelease (op : Nat) (s : State) : Host.Outcome State Fault Refusal :=
  event s fun s => match s.op? op with | some o => s.dropPins o | none => s

/-- QUERY_COMPLETE (R325): all eight records are written in parts, as a copy's image is, and with the last it completes as a copy does
(R268, R280). (DEDUCED, log entry 44) -/
def execQueryComplete (op : Nat) (s : State) : Host.Outcome State Fault Refusal :=
  event s fun s =>
    match s.op? op with
    | none => s
    | some o =>
      match o.kind with
      | .query q =>
        let recs := (List.range 8).flatMap fun i => match o.buf.find? (·.i == i) with | some d => d.bytes | none => []
        let places := scratchPlaces o.gid.l q.blk q.dest recs.length
        if !((List.range 8).all o.records.contains) || !s.engineMay o true places then s
        else
          let s := s.dropPins o
          let parts := o.parts ++ match s.op? op with | some p => p.parts | none => []
          let r := s.writeImage { o with parts := parts } q.blocks q.blk q.dest recs (recs.map fun _ => false)
          if r.2.2 then
            let lost := if s.sourceLost o then places else []
            (r.1.writeLocs lost (lost.zipIdx.map fun x => Config.freeByte s.fresh x.2)).settleCopy o
          else r.1.updOp op fun o => { o with parts := o.parts ++ r.2.1 }
      | _ => s

/-- PER_BANK_REFRESH (R319): a refresh of a bank suspends the reads of queries in it and changes no value. -/
def execPerBankRefresh (_stack : BitVec 3) (_bank : BitVec 10) (s : State) : Host.Outcome State Fault Refusal :=
  event s fun s => s

/-! ### QGET, BTLD, XMERGE (R326 to R328) -/

/-- QGET (R326): the record is read at issue and its results are defined after a WAIT. (DEDUCED, log entry 44) -/
def execQget (g : PReg) (q : PReg) (d a b : Reg) (s : State) : Host.Outcome State Fault Refusal :=
  issue s fun s => single s g [] <|
    let o := (s.readS a).toNat
    let i := s.grp.id
    let limit := s.grp.limit 1
    let out : Eff := .trap { code := 7, addr := BitVec.ofNat 64 o, mask := 0, info := 0 }
    let locs (n : Nat) : List Loc := (List.range n).map fun j => Loc.scr i.l i.blk (o + j)
    let poison (n : Nat) : Option Exc := (s.poisonCheck [{ lane := 0, off := o, locs := locs n, data := [] }]).map fun e => { e with mask := 0 }
    if o % 16 ≠ 0 ∨ limit < o + 16 then out
    else if s.busyLocs (locs 16) then .stall s
    else
      let head := s.readNow (locs 16)
      let status := leNat ((head.drop 8).take 4)
      let dh := if status / 256 % 2 = 1 then 128 else 64
      let n := 16 + 4 * dh
      if limit < o + n then out
      else if s.busyLocs (locs n) then .stall s
      else
        match poison n with
        | some e => .trap e
        | none =>
          let bs := s.readNow (locs n)
          let w (j : Nat) : BitVec 32 := BitVec.ofNat 32 (leNat ((bs.drop (4 * j)).take 4))
          let all : Mask := BitVec.allOnes 32
          let acc (k : Nat) : Lanes := Vector.ofFn fun l => if 32 * k + l.val < dh then w (4 + 32 * k + l.val) else 0
          let vecs := [Lanes.splat (w 0), Lanes.splat (w 1), acc 0, acc 1, acc 2, acc 3]
          let names := (List.range 6).map fun k => d + BitVec.ofNat 5 k
          let rs : List RegWrite := (names.zip vecs).map fun p =>
            { cls := .vec, name := p.1.toNat, mask := all, comps := [p.2], word := 0 }
          let rs := rs ++ [{ cls := .scalar, name := b.toNat, mask := 0, comps := [], word := BitVec.ofNat 64 (leNat ((bs.drop 8).take 8)) }]
            ++ predResult q.toNat ((List.range 32).map fun l => (l, status % 2 == 1))
          match loadLike s all names [] fun t => { t.newOp (some .ld) .results with results := rs } with
          | .done t => .done ((t.pendS s.nextId b).pendK s.nextId q all)
          | e => e

/-- The lookups of BTLD, or what they stop at: a lease violation, or a page that the host has still to walk (R406). -/
def State.loadBlocks (s : State) (c : Cache) (seq : BitVec 32) (lb : BitVec 32) : Nat → Except BlockLook State
  | 0 => .ok s
  | n + 1 =>
    let r := s.lookBlock s.grp.id.l s.grp.place.part.cu.die s.grp.job c (seq ++ lb)
    match r.2 with
    | .lease | .wait .. => .error r.2
    | _ => State.loadBlocks r.1 c seq (lb + 1) n

/-- BTLD (R327). (DEDUCED, log entry 44) -/
def execBtld (g : PReg) (n1 : BitVec 5) (a b : Reg) (s : State) : Host.Outcome State Fault Refusal :=
  issue s fun s => withCache s g a (fun _ => false) fun _ c _ =>
    let x := s.readS b
    match s.loadBlocks c (x.extractLsb' 32 32) (x.setWidth 32) (n1.toNat + 1) with
    | .ok s => .done s
    | .error (.wait die va) => .stall (s.askWalk die none s.grp.job va)
    | .error _ => .lease

/-- The empty triple: (−∞, +0, +0). -/
def emptyTriple (x : List (BitVec 32)) : Bool := x.getD 0 0 == 0xFF800000 && (x.drop 1).all (· == 0)
/-- A binary32 code of a finite number. -/
def finite32 (x : BitVec 32) : Bool := x.toNat / 2 ^ 23 % 2 ^ 8 != 255

/-- One lane of XMERGE: m, l and accumulators from two triples of as many words (R328); the empty one leaves a triple with a finite
m as it is, bit for bit. (DEDUCED, log entry 44) -/
def mergeLane (x y : List (BitVec 32)) : List (BitVec 32) :=
  let m1 := x.getD 0 0
  let m2 := y.getD 0 0
  if (x ++ y).any isNan32 then List.replicate x.length 0x7FC00000
  else if m1 = 0xFF800000 ∧ m2 = 0xFF800000 then 0xFF800000 :: List.replicate (x.length - 1) 0
  else if emptyTriple x && finite32 m2 then y
  else if emptyTriple y && finite32 m1 then x
  else
    let m := fmax32 m1 m2
    let f1 := expFactor m1 m
    let f2 := expFactor m2 m
    m :: ((x.drop 1).zip (y.drop 1)).map fun p =>
      round32 .rne 0 (((val32 p.1).mul f1).add false ((val32 p.2).mul f2))

/-- XMERGE (R328). (DEDUCED, log entry 44) -/
def execXmerge (g : PReg) (d a b : Reg) (s : State) : Host.Outcome State Fault Refusal :=
  issue s fun s =>
    if s.inTx then .trap excTx
    else
      let six (r : Reg) : List Reg := (List.range 6).map fun k => r + BitVec.ofNat 5 k
      lanewise s g (six a ++ six b) [] (six d) fun act t =>
        let lane (l : Nat) : List (BitVec 32) :=
          mergeLane ((six a).map fun r => (s.readV r).get l) ((six b).map fun r => (s.readV r).get l)
        let rs := (lanesOf act).map fun l => (l, lane l)
        (six d).zipIdx.foldl (fun (t : State) (p : Reg × Nat) =>
          t.writeV p.1 act (plain t (Vector.ofFn fun l => match rs.find? (·.1 == l.val) with
            | some r => r.2.getD p.2 0
            | none => 0)) 16) t

end Sys2Proof.Machine
end

