-- ==== Sys2Proof/Machine/Launch.lean ====
section
/-! DEFINITION. Launch records, queues, completion counters, LAUNCH, CANCEL, CNTRD, CNTWT, lease setup and the ends of
launches (10_work_hierarchy_and_scheduling.md R168 to R175, R181, R185 to R188; R192, R196, R205, R226, R362, R363). -/

namespace Sys2Proof.Machine

/-! ### Launch records (R168, R169) -/

/-- `n` fields of `w` bits from bit 0. -/
def fieldsOf (x n w : Nat) : List Nat := (List.range n).map fun i => x / 2 ^ (w * i) % 2 ^ w

/-- The record of 256 bytes (R168). -/
def LaunchRec.ofBytes (bs : List Byte) : LaunchRec :=
  let f (o n : Nat) : Nat := leNat ((bs.drop o).take n)
  { kaddr := BitVec.ofNat 64 (f 0x00 8), gx := BitVec.ofNat 32 (f 0x08 4), gy := BitVec.ofNat 32 (f 0x0C 4),
    gz := BitVec.ofNat 32 (f 0x10 4), ngrp := f 0x14 1, flags := BitVec.ofNat 8 (f 0x15 1), regs := f 0x16 2,
    scratch := f 0x18 4, acc := f 0x1C 4, em := BitVec.ofNat 32 (f 0x20 4), clb := f 0x24 1,
    fmt := BitVec.ofNat 64 (f 0x28 8), trapVec := BitVec.ofNat 64 (f 0x30 8), roles := fieldsOf (f 0x38 12) 32 3,
    bbar := fieldsOf (f 0x44 16) 16 8, cbar := fieldsOf (f 0x54 16) 8 16, lbar := fieldsOf (f 0x64 8) 4 16,
    segt := BitVec.ofNat 64 (f 0x70 8), leasel := BitVec.ofNat 64 (f 0x78 8), nlease := f 0x80 2, nsucc := f 0x82 2,
    preds := f 0x84 2, succl := BitVec.ofNat 64 (f 0x88 8), launchId := BitVec.ofNat 32 (f 0x90 4),
    graphId := BitVec.ofNat 32 (f 0x94 4), phaseId := BitVec.ofNat 32 (f 0x98 4), jobId := BitVec.ofNat 32 (f 0x9C 4),
    ctxa := BitVec.ofNat 64 (f 0xA0 8), bytes := bs }

/-- Accumulator tiles of a block (R195). -/
def LaunchRec.tiles (r : LaunchRec) : Nat := (r.acc + 16383) / 16384
/-- The partition that group i of a block is placed in (R146). -/
def partitionOf (i : Nat) : Nat := i / 2 % 4
/-- Groups of a block in partition p. -/
def LaunchRec.inPart (r : LaunchRec) (p : Nat) : Nat := ((List.range r.ngrp).filter fun i => partitionOf i == p).length
/-- A launch barrier is configured. -/
def LaunchRec.usesLaunchBar (r : LaunchRec) : Bool := r.lbar.any (· != 0)

/-- Blocks of the launch that an idle CU holds (R179). -/
def LaunchRec.perCu (r : LaunchRec) : Nat :=
  let fits (c : Nat) : Bool := decide (c * r.slots ≤ 512 ∧ c * r.tiles ≤ 16) &&
    (List.range 4).all fun p => decide (c * r.inPart p ≤ 16 ∧ c * r.inPart p * r.regs ≤ 1024)
  ((List.range 17).filter fits).length - 1

/-- The whole grid can be resident at once on an idle device of 20 clusters of 8 CUs (R1, R169, R171, R179). -/
def LaunchRec.gridFits (r : LaunchRec) : Bool :=
  let c := 8 * r.perCu
  if r.clb = 0 then decide (r.blocks ≤ 20 * c)
  else
    let full := r.blocks / r.clb
    let short := r.blocks % r.clb
    let each := c / r.clb
    decide (full ≤ 20 * each ∧ (short = 0 ∨ full < 20 * each ∨ short ≤ c % r.clb))

/-- Bytes of the record that must be 0 (R168). -/
def LaunchRec.reservedOk (r : LaunchRec) : Bool :=
  [(0x25, 3), (0x6C, 4), (0x86, 2), (0xA8, 88)].all fun x => ((r.bytes.drop x.1).take x.2).all (· == 0)

/-- The record is valid (R168, R169). -/
def LaunchRec.valid (r : LaunchRec) : Bool :=
  let tv := r.trapVec.toNat
  r.bytes.length == 256 && r.reservedOk
    && r.kaddr.toNat % 32 == 0 && decide (r.kaddr.toNat < 2 ^ 52)
    && r.gx != 0 && r.gy != 0 && r.gz != 0
    && decide (1 ≤ r.ngrp ∧ r.ngrp ≤ 32) && decide (r.flags.toNat % 8 ≤ 4 ∧ r.flags.toNat < 16)
    && decide (1 ≤ r.regs ∧ r.regs ≤ 1024) && decide (r.scratch ≤ 524288 ∧ r.acc ≤ 262144 ∧ r.clb ≤ 8)
    && r.fmt.toNat / 2 ^ 23 % 2 ^ 9 == 0
    && (tv == 0 || (tv % 2 == 0 && decide (tv < 2 ^ 52) && tv % 32 != 0 && tv % 32 != 2))
    && r.roles.zipIdx.all (fun x => decide (x.1 ≤ 4) && (decide (x.2 < r.ngrp) || x.1 == 0))
    && r.bbar.all (fun x => decide (x ≤ r.ngrp)) && r.cbar.all (fun x => decide (x ≤ r.clb * r.ngrp))
    && r.lbar.all (fun x => decide (x ≤ r.blocks * r.ngrp))
    && r.segt.toNat % 16 == 0 && r.leasel.toNat % 16 == 0 && decide (r.nlease ≤ 1024 ∧ r.nsucc ≤ 64)
    && r.succl.toNat % 4 == 0 && r.ctxa.toNat % 4096 == 0
    && (List.range 4).all (fun p => decide (r.regs * r.inPart p ≤ 1024))
    && (!r.usesLaunchBar || r.gridFits)

/-! ### Completion counters (R174) -/

/-- A launch of a job by its LAUNCHID: the live one, else the one placed last, whose counter stays readable for ever. (DESIGN CHOICE,
log entry 67) -/
def State.launchOf (s : State) (job id : BitVec 32) : Option Launch :=
  let xs := s.launches.filter fun x => x.lrec.jobId == job && x.lrec.launchId == id
  match xs.find? fun x => decide (x.state < 3) with
  | some x => some x
  | none => xs.getLast?

/-- The counter word of its fields (R174). -/
def counterWord (state cause done : Nat) : BitVec 64 :=
  BitVec.ofNat 64 (state % 8 * 2 ^ 61 + cause % 256 * 2 ^ 48 + done % 2 ^ 48)

/-- The counter word of a launch. -/
def Launch.word (l : Launch) : BitVec 64 := counterWord l.state l.cause l.done

/-- A graph, phase or job counter of a job. -/
def State.counter? (s : State) (lvl : Level) (job id : BitVec 32) : Option Counter :=
  s.counters.find? fun c => c.lvl == lvl && c.id == id && c.job == job

/-- The counter word of a level and identifier, looked up in one job (R185); 7 if unknown. (DEDUCED, log entry 23) -/
def State.readCounter (s : State) (lvl : Level) (job id : BitVec 32) : BitVec 64 :=
  match lvl with
  | .launch => match s.launchOf job id with | some l => l.word | none => counterWord 7 0 0
  | _ => match s.counter? lvl job id with | some c => counterWord c.state c.cause c.done | none => counterWord 7 0 0

/-- STATE of a counter word. -/
def wordState (w : BitVec 64) : Nat := w.toNat / 2 ^ 61
/-- DONE of a counter word. -/
def wordDone (w : BitVec 64) : Nat := w.toNat % 2 ^ 48
/-- The state is terminal (R174). -/
def terminal (st : Nat) : Bool := st == 3 || st == 4 || st == 5 || st == 7

/-- The counter of a level counts the launch. (DEDUCED, log entry 23) -/
def Counter.counts (c : Counter) (r : LaunchRec) : Bool :=
  c.job == r.jobId &&
    match c.lvl with
    | .launch => false
    | .graph => c.id == r.graphId
    | .phase => c.id == r.phaseId
    | .job => c.id == r.jobId

/-- A counter of a level that contains a launch, when the launch starts running (2), completes (3), or ends in state 4
or 5 with a cause: a job's counter stays at 2 (R174). -/
def Counter.member (c : Counter) (st cause : Nat) : Counter :=
  if terminal c.state then c
  else if st = 2 then { c with state := 2 }
  else if st = 3 then
    let done := c.done + 1
    { c with done := done, state := if c.lvl != .job && done == c.expected.toNat then 3 else c.state }
  else if c.lvl = .job then c
  else { c with state := st, cause := cause }

/-- The counters above a launch see it change state. (DEDUCED, log entry 23) -/
def State.tellCounters (s : State) (r : LaunchRec) (st cause : Nat) : State :=
  { s with counters := s.counters.map fun c => if c.counts r then c.member st cause else c }

/-- CNTNEW (R174, R407): a graph, phase or job counter with its expected count; a job's stands at STATE 2. (DEDUCED,
log entry 23) -/
def execCntnew (lvl : Level) (id job : BitVec 32) (expected : BitVec 48) (s : State) : Host.Outcome State Fault Refusal :=
  event s fun s =>
    if lvl = .launch then s
    else
      let c : Counter :=
        { lvl := lvl, id := id, job := job, expected := expected, cause := 0, done := 0,
          state := if lvl = .job then 2 else if expected = 0 then 3 else 0 }
      { s with counters := (s.counters.filter fun x => !(x.lvl == lvl && x.id == id && x.job == job)) ++ [c] }

/-! ### Placing a record (R170, R186) -/

/-- A queue of the 256. -/
def State.queue (s : State) (q : Nat) : Queue :=
  s.queues.toList.getD q { level := 0, tickets := 0, pq := false, job := 0, pass := 0, order := [], places := [] }

/-- Change a queue. -/
def State.updQueue (s : State) (q : Nat) (f : Queue → Queue) : State :=
  if h : q < 256 then { s with queues := s.queues.set q (f s.queues[q]) h } else s

/-- The lowest PASS among the non-empty queues of a level other than q. -/
def State.lowestPass (s : State) (q : Nat) (level : BitVec 6) : Option Nat :=
  ((s.queues.toList.zipIdx.filter fun x => x.2 != q && x.1.level == level && !x.1.order.isEmpty).map
    fun x => x.1.pass.toNat).min?

/-- A queue that becomes non-empty re-enters with at least the lowest PASS of its level (R177). -/
def State.reenter (s : State) (q : Nat) : State :=
  if (s.queue q).order.isEmpty then
    match s.lowestPass q (s.queue q).level with
    | some p => s.updQueue q fun x => { x with pass := BitVec.ofNat 48 (max x.pass.toNat p) }
    | none => s
  else s

/-- A launch joins the tail of its queue's dispatch order (R170). -/
def State.queueLaunch (s : State) (q l : Nat) : State := (s.reenter q).updQueue q fun x => { x with order := x.order ++ [l] }

/-- The barrier of an expected count. -/
def Barrier.of (n : Nat) : Barrier := { Barrier.none with expected := BitVec.ofNat 16 n }

/-- The status of a record for a queue, in the order of R186; `job` is that of the launch that issues LAUNCH. -/
def State.placeStatus (s : State) (job : Option (BitVec 32)) (q : Nat) (r : LaunchRec) : Nat :=
  let x := s.queue q
  if x.job = 0 ∨ (job.isSome ∧ job ≠ some x.job) ∨ x.job ≠ r.jobId then 3
  else if !r.valid then 2
  else if s.launches.any fun l => l.lrec.jobId == r.jobId && l.lrec.launchId == r.launchId && decide (l.state < 3) then 4
  else if 64 ≤ x.places.length then 1
  else 0

/-- The record is accepted: parked, or queued (R170); the replay log notes it (R362). -/
def State.accept (s : State) (q : Nat) (r : LaunchRec) : State :=
  let l : Launch :=
    { uid := s.nextId, lrec := r, queue := q, state := if r.preds = 0 then 1 else 0, cause := 0, done := 0,
      preds := r.preds, next := 0, ready := false, pins := false, leases := [], seg := [], qcfg := [], detF := [],
      detUsed := [], lbars := Vector.ofFn fun i => Barrier.of (r.lbar.getD i.val 0), final := none, priv := false,
      prot := false, hosted := [] }
  let s : State := { s with
    launches := s.launches ++ [l], nextId := s.nextId + 1,
    replay := s.replay ++ [.launch r.jobId r.bytes] }
  let s := s.updQueue q fun x => { x with places := x.places ++ [l.uid] }
  if r.preds = 0 then s.queueLaunch q l.uid else s

/-- The device is in its fatal state or not in D0: nothing is set up or dispatched (R405, R409). (DESIGN CHOICE, log entry 33) -/
def State.asleep (s : State) : Bool := s.ready.getLsbD 63 || s.power != .d0

/-- A TDI of the job in RUN accepts its launches, which run then only; an ordinary job needs none (R379). -/
def State.placementAllowed (s : State) (job : BitVec 32) : Bool :=
  match s.job? job with
  | some j => !j.prot || s.tdis.any fun t => t.job == job && t.st == .run && !t.stopping
  | none => true

/-- PLACE_LAUNCH_RECORD (R170): system software places a record on a queue. -/
def execPlaceLaunchRecord (q : BitVec 8) (image : List (BitVec 8)) (s : State) : Host.Outcome State Fault Refusal :=
  event s fun s =>
    let r := LaunchRec.ofBytes image
    if s.placeStatus none q.toNat r = 0 ∧ s.placementAllowed r.jobId then s.accept q.toNat r else s

/-! ### LAUNCH, CANCEL, CNTRD, CNTWT (R185 to R188) -/

/-- LAUNCH (R186): the record's bytes are read like SHAPE's, from an address of any alignment; it is a release at .DEV, and waits
for the group's earlier accesses (R173). (DEDUCED, log entry 22; DESIGN CHOICE, log entry 62) -/
def execLaunch (d a b : Reg) (s : State) : Host.Outcome State Fault Refusal :=
  issue s fun s =>
    if s.inTx then .trap excTx
    else
      let x := s.readS a
      match s.checkRecord x 256 with
      | .stop e => e
      | .ok accs =>
        if !s.quiet then .stall s
        else
          let r := LaunchRec.ofBytes (s.readNow (accs.flatMap Acc.locs))
          let q := (s.readS b).toNat % 256
          let st := match s.placeStatus (some s.grp.job) q r with
            | 0 => if s.placementAllowed s.grp.job then 0 else 3
            | n => n
          let t := s.writeS d (BitVec.ofNat 64 st) 2
          .done ((if st = 0 then t.accept q r else t).releaseL2 s.grp.id false)

/-- The launches that a level contains. -/
def State.members (s : State) (lvl : Level) (job id : BitVec 32) : List Nat :=
  (s.launches.filter fun x => x.lrec.jobId == job && decide (x.state < 3) &&
    match lvl with
    | .launch => x.lrec.launchId == id
    | .graph => x.lrec.graphId == id
    | .phase => x.lrec.phaseId == id
    | .job => x.lrec.jobId == id).map Launch.uid

/-- The status of a cancel (R187). (DEDUCED, log entry 23) -/
def State.cancelStatus (s : State) (lvl : Level) (job id : BitVec 32) : Nat :=
  let st := wordState (s.readCounter lvl job id)
  if st = 7 then 2 else if terminal st then 1 else 0

/-- Cancel a level in one step (R175): its launches stop; a graph or phase without a live launch records STATE 4 at
once. (DEDUCED, log entry 23) -/
def State.cancelLevel (s : State) (lvl : Level) (job id : BitVec 32) : State :=
  if s.cancelStatus lvl job id ≠ 0 then s
  else
    let ls := s.members lvl job id
    let s := ls.foldl (fun (s : State) l => s.stopLaunch l (4, 0)) s
    if ls.isEmpty ∧ (lvl = .graph ∨ lvl = .phase) then
      { s with counters := s.counters.map fun c =>
          if c.lvl == lvl && c.id == id && c.job == job then { c with state := 4 } else c }
    else s

/-- CANCEL (R175, R187): it returns at once; the issuing group stops after it if the level contains its launch. -/
def execCancel (lvl : Level) (d a : Reg) (s : State) : Host.Outcome State Fault Refusal :=
  issue s fun s =>
    if s.inTx then .trap excTx
    else
      let id := (s.readS a).setWidth 32
      let st := s.cancelStatus lvl s.grp.job id
      .stay (((s.writeS d (BitVec.ofNat 64 st) 2).goesOn s.latch.next).cancelLevel lvl s.grp.job id)

/-- A counter word returned to the issuing group: STATE 3 is an acquire at .DEV (R173, R188). -/
def State.giveCounter (s : State) (d : Reg) (w : BitVec 64) : State :=
  let t := s.writeS d w 2
  if wordState w = 3 then t.acquire s.grp.id s.grp.place.part.cu true else t

/-- CNTRD (R185). -/
def execCntrd (lvl : Level) (d a : Reg) (s : State) : Host.Outcome State Fault Refusal :=
  issue s fun s => .done (s.giveCounter d (s.readCounter lvl s.grp.job ((s.readS a).setWidth 32)))

/-- CNTWT (R188). -/
def execCntwt (lvl : Level) (d a b : Reg) (s : State) : Host.Outcome State Fault Refusal :=
  issue s fun s =>
    if s.inTx then .trap excTx
    else
      let w := s.readCounter lvl s.grp.job ((s.readS a).setWidth 32)
      if terminal (wordState w) ∨ (s.readS b).toNat % 2 ^ 48 ≤ wordDone w then .done (s.giveCounter d w)
      else .stall s

/-! ### Lease setup (R181, R190, R192, R196, R205) -/

/-- The lease list of its bytes; none if an entry breaks a rule of R205. -/
def leaseList (bs : List Byte) : Nat → Option (List Lease)
  | 0 => some []
  | n + 1 =>
    let base := leNat (bs.take 8)
    let len := leNat ((bs.drop 8).take 8)
    if base / 2 ^ 52 % 2 ^ 11 ≠ 0 ∨ base % 4096 ≠ 0 ∨ len = 0 ∨ len % 4096 ≠ 0 then none
    else (leaseList (bs.drop 16) n).map fun t => { lo := base % 2 ^ 52, len := len, host := decide (2 ^ 63 ≤ base) } :: t

/-- Pages of a range. -/
def Lease.pages (r : Lease) : List Nat := (List.range (r.len / 4096)).map fun i => r.lo + 4096 * i

/-- The segment table of its 128 bytes as the launch's groups get it, but for sg3's base per group; none if it breaks a
rule of R192, or sg5 gives more than the 8 queues of R190. (DEDUCED, log entry 24) -/
def segTable (r : LaunchRec) (bs : List Byte) : Option (List Seg) :=
  let xs := (List.range 8).map fun i => (leNat ((bs.drop (16 * i)).take 8), leNat ((bs.drop (16 * i + 8)).take 8))
  let at_ (i : Nat) : Nat × Nat := xs.getD i (0, 0)
  let bad := xs.any (fun x => decide (2 ^ 52 ≤ x.1) || decide (2 ^ 52 ≤ x.2))
    || [0, 3, 4, 6, 7].any (fun i => decide (2 ^ 52 < (at_ i).1 + (at_ i).2))
    || decide (2 ^ 52 < (at_ 3).1 + r.blocks * r.ngrp * (at_ 3).2)
    || at_ 1 != (0, 0) || at_ 2 != (0, 0) || (at_ 3).2 % 16 != 0
    || decide (8 < (at_ 5).2) || ((at_ 5).2 != 0 && r.clb == 0)
  if bad then none
  else some (xs.zipIdx.map fun x =>
    { base := BitVec.ofNat 52 x.1.1,
      limit := BitVec.ofNat 52 (if x.2 = 1 then r.slots * 1024 else if x.2 = 2 then r.tiles * 16384 else x.1.2) })

/-- The queue configuration record of `n` queues; none if it is invalid (R196). Reserved bits of an entry are ignored (R5). -/
def queueRecord (r : LaunchRec) (bs : List Byte) (n : Nat) : Option (List (BitVec 64)) :=
  let es := (List.range 8).map fun i => BitVec.ofNat 64 (leNat ((bs.drop (8 * i)).take 8))
  let used := es.take n
  let slot (e : BitVec 64) : Nat × Nat := (e.toNat % 2 ^ 9, e.toNat / 2 ^ 9 % 2 ^ 10)
  let bad := (es.drop n).any (· != 0)
    || used.any (fun e => decide (4 < e.toNat / 2 ^ 19 % 8)
        || decide ((slot e).2 < 1 ∨ 512 < (slot e).2) || decide (r.slots < (slot e).1 + (slot e).2)
        || queueCapacity e / r.clb == 0)
    || used.zipIdx.any fun x => used.zipIdx.any fun y => decide (x.2 < y.2) &&
        decide ((slot x.1).1 < (slot y.1).1 + (slot y.1).2 ∧ (slot y.1).1 < (slot x.1).1 + (slot x.1).2)
  if bad then none else some used

/-- The entry at which a job's page table ends for an address, valid or not. -/
def State.lastEntry (s : State) (va : Nat) : Nat → Nat → BitVec 64
  | 0, t => s.pteAt (t + 8 * (va / 2 ^ 12 % 512))
  | lv + 1, t =>
    let e := s.pteAt (t + 8 * (va / 2 ^ (12 + 9 * (lv + 1)) % 512))
    if pteV e && !pteLeaf e then State.lastEntry s va lv (ptePA e) else e

/-- The page is owned by the host (R208): the job runs without ATS, and the page's entry has V = 0 and HOST = 1. (DEDUCED, log entry
24) -/
def State.hostOwned (s : State) (job : BitVec 32) (va : Nat) : Bool :=
  match (s.job? job).filter fun j => !j.ats with
  | none => false
  | some j =>
    let e := s.pteAt (j.ptroot.toNat + 8 * (va / 2 ^ 48 % 16))
    if pteV e then
      let x := s.lastEntry va 3 (ptePA e)
      !pteV x && x.getLsbD 5
    else !pteV e && e.getLsbD 5

/-- What making a page resident comes to. -/
inductive Residency where | ok | wait | fail
  deriving DecidableEq, Repr

/-- A device page (R205, R208, R404): a stack that is not ready and a page that the host owns delay it. (DEDUCED, log
entry 24) -/
def State.residency (s : State) (job : BitVec 32) (va : Nat) : Residency :=
  match s.walk job va with
  | some p => if s.ready.getLsbD (physOf va p / 2 ^ 36) then .ok else .wait
  | none => if s.hostOwned job va then .wait else .fail

/-- A device access at setup to a page that the host owns faults: the host is told, once (R208). (DEDUCED, log entry 24) -/
def State.tellOwned (s : State) (job : BitVec 32) (va : Nat) : State :=
  let x := HostOut.pageFault job (BitVec.ofNat 40 (va / 4096))
  if !s.hostOwned job va || s.out.contains x then s else { s with out := s.out ++ [x] }

/-- Host pages of a lease. -/
def hostPages (rs : List Lease) : List (BitVec 40) :=
  (rs.filter Lease.host).flatMap fun r => r.pages.map fun va => BitVec.ofNat 40 (va / 4096)

/-- The pages of a launch's host ranges whose translation this setup has obtained (R207), however few of them the cache still
holds. -/
def State.hostedBy (s : State) (x : Launch) (pasid : BitVec 20) (rs : List Lease) : List (BitVec 40) :=
  (hostPages rs).filter fun q => x.hosted.contains q || s.atc.contains (pasid, q)

/-- A record of a job's table directory (R212). (DESIGN CHOICE, log entry 35) -/
def State.tableRecord (s : State) (j : Job) (n : Nat) : Option (List Byte) := s.sysBytes j.id (j.tdir.toNat + 64 * n) 64

/-- Pages of a table's index pool that have been retired (R211). -/
def State.lostPages (s : State) (t : Table) : Nat :=
  if s.retired.isEmpty then 0
  else ((List.range t.ipages).filter fun i => match s.walk t.job (t.ipool + 4096 * i) with
    | some p => s.retired.contains (physOf (t.ipool + 4096 * i) p / 4096)
    | none => false).length

/-- A table bound anew: it starts at generation 0, counts its splits and merges on from the record's, and has the rows that it had
when it was last bound if its record still counts them (R212, R216). (DESIGN CHOICE, log entry 35) -/
def Table.anew (t : Table) (bs : List Byte) (old : Option Table) : Table :=
  let t := { t with splits := (recordCounts bs).1, merges := (recordCounts bs).2 }
  match old.filter fun x => recordRows bs != 0 && recordRows bs == x.rows.length with
  | some x => { t with rows := x.rows, leaves := x.leaves, inner := x.inner, buckets := x.buckets, root := x.root }
  | none => t

/-- Bind table `n` of a job for launch `l`, if its record is valid: a table that is bound keeps its state; the record of one bound
anew gets the fields that the device keeps (R212, R216). (DESIGN CHOICE, log entry 35) -/
def State.bindTable (s : State) (j : Job) (l n : Nat) : State :=
  match s.tableRecord j n with
  | none => s
  | some bs =>
    match Table.ofRecord j.id (BitVec.ofNat 16 n) bs with
    | none => s
    | some t =>
      let old := s.tables.find? fun x => x.job == t.job && x.num == t.num
      let rest := s.tables.filter fun x => !(x.job == t.job && x.num == t.num)
      match old.filter fun x => !x.users.isEmpty with
      | some x => { s with tables := rest ++ [{ x with users := x.users ++ [l] }] }
      | none =>
        let now := t.anew bs old
        let s : State := { s with tables := rest ++ [{ now with users := [l], lost := s.lostPages t }] }
        s.sysWrite j.id (j.tdir.toNat + 64 * n + 40) now.roBytes

/-- Bind every table of a job's directory that has a valid record; pages of the directory that are not mapped hold none, and an address
0, its reset value, is no directory. (DESIGN CHOICE, log entry 35) -/
def State.bindTables (s : State) (j : Job) (l : Nat) : State :=
  if j.tdir = 0 then s
  else
    let pages := (List.range 1024).filter fun i => (s.sysByte j.id (j.tdir.toNat + 4096 * i)).isSome
    (pages.flatMap fun i => (List.range 64).map fun k => 64 * i + k).foldl (fun (s : State) n => s.bindTable j l n) s

/-- The runs of a deterministic launch (R226): F of each bound table that has one; none if a run passes RCAP. -/
def State.runBases (s : State) (r : LaunchRec) (l : Nat) : Option (List (BitVec 16 × Nat)) :=
  if !r.det then some []
  else
    let ts := s.tables.filter fun t => t.users.contains l
    if ts.any fun t => t.detres != 0 && decide (t.rcap < r.blocks * r.ngrp * t.detres + t.runBase) then none
    else some (ts.map fun t => (t.num, t.runBase))

/-- Tables of a launch are unbound (R212): the freeze of a deterministic launch ends, and what the block translation
caches hold of a table nobody uses any more goes. (DESIGN CHOICE, log entry 35) -/
def State.unbindTables (s : State) (l : Nat) : State :=
  let s : State := { s with tables := s.tables.map fun t =>
    { t with users := t.users.filter (· != l),
             frozen := (t.frozen.map fun x => (x.1, x.2.filter (· != l))).filter fun x => !x.2.isEmpty } }
  { s with
    btc := s.btc.filter fun e => s.tables.any fun t => t.job == e.job && t.num == e.table && !t.users.isEmpty }

/-- Physical pages of a launch's device ranges. -/
def State.leasedPages (s : State) (l : Launch) : List Nat :=
  (l.leases.filter fun r => !r.host).flatMap fun r => r.pages.filterMap fun va =>
    (s.walk l.lrec.jobId va).map fun p => physOf va p / 4096

/-- The job's memory that a host read may bring out: the unprotected pages that its launches have leased (R374). (DEDUCED, log
entry 34) -/
def State.noteJobPages (s : State) (l : Launch) : State :=
  let pages := (l.leases.filter fun r => !r.host).flatMap fun r => r.pages.filterMap fun va =>
    (s.walk l.lrec.jobId va).bind fun p => if pteProt p.2.2 then none else some (l.lrec.jobId, physOf va p / 4096)
  { s with jobPages := s.jobPages ++ pages.eraseDups.filter fun p => !s.jobPages.contains p }

/-- The digest of a page. -/
def State.digestOf (s : State) (page : Nat) : BitVec 256 := Config.sha256 (readBytes s.mem (4096 * page) 4096)

/-- Digests of the leased pages that the host has written since the job's previous dispatch (R362). -/
def State.pageDigests (s : State) (l : Launch) : List (Nat × BitVec 256) :=
  let last := (s.job? l.lrec.jobId).bind Job.dispatched
  let since (n : Nat) : Bool := match last with | some d => decide (d < n) | none => true
  (s.leasedPages l).eraseDups.filterMap fun p =>
    if s.hostWritten.any fun w => w.1 == p && since w.2 then some (p, s.digestOf p) else none

/-- The digests that a followed log holds of a launch's next dispatch (R363). -/
def followed (job launch : BitVec 32) : List ReplayRec → Option (List (Nat × BitVec 256))
  | [] => none
  | .dispatch j l ds :: t => if j == job && l == launch then some ds else followed job launch t
  | _ :: t => followed job launch t

/-- A digest that a followed log holds differs from the page's (R363). -/
def State.digestDiffers (s : State) (ds : List (Nat × BitVec 256)) : Bool := ds.any fun d => s.digestOf d.1 != d.2

/-- At a launch's dispatch the replay log gets the digests of its pages, and a followed log gives up its own (R362, R363). -/
def State.logDispatch (s : State) (x : Launch) : State :=
  let job := x.lrec.jobId
  let launch := x.lrec.launchId
  { s with
    replay := s.replay ++ [.dispatch job launch (s.pageDigests x)],
    follow := (match followed job launch s.follow with
      | some ds => s.follow.erase (.dispatch job launch ds)
      | none => s.follow),
    jobs := s.jobs.map fun j => if j.id == job then { j with dispatched := some s.fresh } else j }

/-- Job registers written while the job was live take effect (R407). -/
def State.applyJobRegs (s : State) (job : BitVec 32) : State :=
  match s.jobsNext.find? fun j => j.id == job with
  | none => s
  | some n =>
    { s with
      jobsNext := s.jobsNext.filter fun j => j.id != job,
      jobs := s.jobs.map fun j =>
        if j.id == job then { n with retired := j.retired, dispatched := j.dispatched, sealed := j.sealed } else j }

/-- Pages of a job that the device is to read at setup lie in a stack that is not ready (R404). -/
def State.sysWaits (s : State) (job : BitVec 32) (va n : Nat) : Bool :=
  (List.range ((va % 4096 + n + 4095) / 4096)).any fun i =>
    match s.walk job (va + 4096 * i) with
    | some p => !s.ready.getLsbD (physOf (va + 4096 * i) p / 2 ^ 36)
    | none => false

/-- Lease setup of a launch once nothing else delays it: segment table, queues, tables, runs; what a stack that is not ready holds of
them delays it (R404). (DEDUCED, log entry 24) -/
def State.setUpLaunch (s : State) (x : Launch) (j : Job) (leases : List Lease) : State :=
  let r := x.lrec
  let l := x.uid
  let fail (s : State) : State := s.stopLaunch l (5, 2)
  match (s.sysBytes j.id r.segt.toNat 128).bind (segTable r) with
  | none => fail s
  | some seg =>
    let sg5 := seg.getD 5 { base := 0, limit := 0 }
    if (sg5.limit != 0 && s.sysWaits j.id sg5.base.toNat 64) || (j.tdir != 0 && s.sysWaits j.id j.tdir.toNat (2 ^ 22)) then s
    else
    let q := if sg5.limit = 0 then some []
      else (s.sysBytes j.id sg5.base.toNat 64).bind fun bs => queueRecord r bs sg5.limit.toNat
    match q with
    | none => fail s
    | some qcfg =>
      let s := s.bindTables j l
      match s.runBases r l with
      | none => fail (s.unbindTables l)
      | some fs =>
        let y := { x with leases := leases }
        let s : State := { s with out := s.out.filter fun o => match o with | .pageFault x _ => x != j.id | _ => true }
        (s.noteJobPages y).updLaunch l fun x => { x with
          ready := true, hosted := [], pins := true, leases := leases, seg := seg, qcfg := qcfg, detF := fs, priv := j.priv,
          prot := j.prot }

/-- LEASE_SETUP (R181, R205): of the launch at the head of its queue's dispatch order; of a protected job only while its TDI is in RUN
(R379). (DEDUCED, log entry 24) -/
def execLeaseSetup (l : Nat) (s : State) : Host.Outcome State Fault Refusal :=
  event s fun s =>
    match s.launch? l with
    | none => s
    | some x =>
      if x.state ≠ 1 ∨ x.ready ∨ x.final.isSome ∨ (s.queue x.queue).order.head? ≠ some l ∨ s.asleep
          ∨ !s.placementAllowed x.lrec.jobId then s
      else
        match s.job? x.lrec.jobId with
        | none => s.stopLaunch l (5, 2)
        | some j =>
          if s.sysWaits j.id x.lrec.leasel.toNat (16 * x.lrec.nlease) || s.sysWaits j.id x.lrec.segt.toNat 128 then s
          else match (s.sysBytes j.id x.lrec.leasel.toNat (16 * x.lrec.nlease)).bind fun bs => leaseList bs x.lrec.nlease with
          | none => s.stopLaunch l (5, 2)
          | some leases =>
            let s := s.updLaunch l fun x => { x with leases := leases }
            let req := s.request? taskLease [l]
            let host := req.isSome || !s.modeSplit.getLsbD taskLease
            match host, req with
            | true, none => s.postRequest taskLease j.id [l]
            | true, some { answered := none, .. } => s
            | true, some { answered := some false, .. } =>
              ({ s with hostReqs := s.hostReqs.filter fun y => some y != req } : State).stopLaunch l (5, 2)
            | _, _ =>
              let vas := (leases.filter fun r => !r.host).flatMap Lease.pages
              let rs := vas.map fun va => s.residency j.id va
              let hosted := s.hostedBy x j.pasid leases
              let absent := ((hostPages leases).filter fun q => !hosted.contains q).take 4096
              if rs.contains .fail then s.stopLaunch l (5, 2)
              else if rs.contains .wait then vas.foldl (fun (s : State) va => s.tellOwned j.id va) s
              else if !absent.isEmpty then
                absent.foldl (fun (s : State) q => s.askAts j.pasid q) (s.updLaunch l fun x => { x with hosted := hosted })
              else ({ s with hostReqs := s.hostReqs.filter fun y => some y != req } : State).setUpLaunch x j leases

/-! ### How launches end (R170, R172, R174, R175) -/

/-- Pages whose retirement waited for pins and that no launch pins any more are retired (R211). -/
def State.retireUnpinned (s : State) : State :=
  if s.retiring.isEmpty then s
  else
    let held := (s.launches.filter Launch.pins).flatMap s.leasedPages
    { s with
      retiring := s.retiring.filter held.contains,
      retired := s.retired ++ s.retiring.filter fun p => !held.contains p && !s.retired.contains p }

/-- One predecessor of the parked launches of this name has completed (R170). -/
def State.lowerPreds (s : State) (job id : BitVec 32) : State :=
  match s.launches.find? fun x => x.lrec.jobId == job && x.lrec.launchId == id && x.state == 0 && x.final.isNone with
  | none => s
  | some x =>
    let s := s.updLaunch x.uid fun x => { x with preds := x.preds - 1 }
    if x.preds ≤ 1 then (s.updLaunch x.uid fun x => { x with state := 1 }).queueLaunch x.queue x.uid else s

/-- The parked launches of this name are cancelled with CAUSE 4 (R170). -/
def State.cancelSuccessor (s : State) (job id : BitVec 32) : State :=
  match s.launches.find? fun x => x.lrec.jobId == job && x.lrec.launchId == id && x.state == 0 && x.final.isNone with
  | none => s
  | some x => s.stopLaunch x.uid (4, 4)

/-- The LAUNCHIDs of a launch's successor list. (DEDUCED, log entry 22) -/
def State.successors (s : State) (r : LaunchRec) : List (BitVec 32) :=
  match s.sysBytes r.jobId r.succl.toNat (4 * r.nsucc) with
  | none => []
  | some bs => (List.range r.nsucc).map fun i => BitVec.ofNat 32 (leNat ((bs.drop (4 * i)).take 4))

/-- The launch records its terminal state: what it held goes, its pins are released, counters, successors, trace and the
interrupt of its queue follow (R170, R172, R174, R361, R402). (DEDUCED, log entry 22) -/
def State.endLaunch (s : State) (x : Launch) (st cause : Nat) : State :=
  let l := x.uid
  let r := x.lrec
  let names := s.successors r
  let s := if st = 3 then s.releaseLaunch l else s
  let s := s.updLaunch l fun x => { x with state := st, cause := cause, final := none, pins := false, ready := false, leases := [], hosted := [] }
  let s : State := { s with
    queues := s.queues.map fun (q : Queue) => q.drop l,
    blocks := s.blocks.filter fun (b : Block) => b.l != l,
    groups := s.groups.filter fun (g : Group) => g.id.l != l,
    clusterLaunches := s.clusterLaunches.filter fun c => c.l != l,
    hostReqs := s.hostReqs.filter fun y =>
      !(y.task == taskLease && y.args == [l]) && !(y.task == taskWalk && y.job == r.jobId && y.answered.isSome),
    l1 := s.l1.filter fun x => x.const != some l }
  let s := ((s.unbindTables l).traceHolds.retireUnpinned).tellCounters r st cause
  let s := s.traceRecord (some r.jobId) 6 0 (leBytes 8 r.launchId.toNat ++ leBytes 8 (counterWord st cause x.done).toNat)
  let s : State := { s with out := s.out ++ [.msix x.queue] }
  names.foldl (fun (s : State) id => if st = 3 then s.lowerPreds r.jobId id else s.cancelSuccessor r.jobId id) s

/-- Operations of a launch are still in flight. -/
def State.launchBusy (s : State) (l : Nat) : Bool := s.ops.any fun o => o.gid.l == l

/-- LAUNCH_COMPLETE (R172). -/
def execLaunchComplete (l : Nat) (s : State) : Host.Outcome State Fault Refusal :=
  event s fun s =>
    match s.launch? l with
    | none => s
    | some x =>
      let open_ := s.blocks.any fun b => b.l == l && (!b.complete || !b.detBuf.isEmpty)
      if x.state = 2 ∧ x.final.isNone ∧ x.done = x.blocksTotal ∧ !open_ ∧ !s.launchBusy l then s.endLaunch x 3 0 else s

/-- Operations of a launch that stops may still complete: all but entries whose start condition waits for a phase that nothing in
flight completes (R175, R294). (DEDUCED, log entry 22) -/
def State.stopBusy (s : State) (l : Nat) : Bool := s.ops.any fun o => o.gid.l == l && !(o.deferred.any fun c => !s.startHolds c)

/-- A cluster of the job is being cleared (R367, R382). -/
def State.jobClearing (s : State) (job : BitVec 32) : Bool := s.clusters.any fun p => p.clearing && p.job == some job

/-- CANCEL_COMPLETE (R175): of a launch that stops, once its issued operations have completed, but for entries that can never start;
after entry to ERROR the clear of the job's clusters comes first (R382). (DEDUCED, log entry 22) -/
def execCancelComplete (l : Nat) (s : State) : Host.Outcome State Fault Refusal :=
  event s fun s =>
    match s.launch? l with
    | none => s
    | some x =>
      match x.final with
      | none => s
      | some (st, cause) =>
        if s.stopBusy l || (cause == 3 && s.jobClearing x.lrec.jobId) then s
        else ({ s with ops := s.ops.filter fun o => o.gid.l != l } : State).endLaunch x st cause

end Sys2Proof.Machine
end

