-- ==== Sys2Proof/Machine/Links.lean ====
section
/-! DEFINITION. Tether and Bridle links: TSEND, TRECV, RATOM, ARED, the flits that carry them, and the Bridle links
(23_dies_devices_and_links.md). -/

namespace Sys2Proof.Machine

/-! ### Local buffers (R396, R276) -/

/-- What a 16-byte part of a local buffer meets. -/
inductive LocalPart where
  | ok (ps : List Loc)
  | fail (f : PartEnd)
  | lease
  deriving DecidableEq, Repr

/-- The places of part i of an operation's local buffer: index pages are out of range (R276), protected pages have no
key for a link transfer. -/
def State.localPart (s : State) (o : Op) (b : LocalBuf) (i : Nat) : LocalPart :=
  let a := b.base + 16 * i
  if b.scr then .ok ((List.range 16).map fun k => .scr o.gid.l o.gid.blk (a + k))
  else
    match s.engineVa o.gid.l o.cu.die o.job a with
    | .ok pa pte =>
      if pteKind pte ≠ 0 then .fail .range
      else if pteProt pte then .fail .key
      else .ok ((List.range 16).map fun k => .dev (pa + k))
    | _ => .lease

/-- Parts of a buffer. -/
def LocalBuf.parts (b : LocalBuf) : List Nat := List.range ((b.len + 15) / 16)

/-- The virtual addresses of parts of a buffer, which need a translation. -/
def LocalBuf.vas (b : LocalBuf) (parts : List Nat) : List Nat := if b.scr then [] else parts.map fun i => b.base + 16 * i

/-- Parts of a buffer for which an operation has no data yet. -/
def Op.unread (o : Op) (b : LocalBuf) : List Nat := b.parts.filter fun i => !o.buf.any (·.i == i)

/-- The bytes of part i; those that another party has written meanwhile in sg1 are free (R268). None is a lease
violation. (DEDUCED, log entry 45) -/
def State.readLocal (s : State) (o : Op) (b : LocalBuf) (i : Nat) : Option PartData :=
  match s.localPart o b i with
  | .lease => none
  | .fail f => some { i := i, bytes := List.replicate 16 0, fate := f }
  | .ok ps => some
      { i := i, fate := if ps.any s.poisoned then .poison else .ok,
        bytes := ps.zipIdx.map fun p => if o.spoilt.contains p.1 then Config.freeByte s.fresh (16 * i + p.2) else s.readLoc p.1 }

/-- Part i of a local buffer is written: versions advance at completion (R396). -/
def State.writeLocal (s : State) (o : Op) (b : LocalBuf) (d : PartData) : Option (State × BitVec 4) :=
  match s.localPart o b d.i with
  | .lease => none
  | .fail f => some (s, f.cst)
  | .ok ps =>
    let ps := ps.take (b.len - 16 * d.i)
    let s := s.engineWrite o ps d.bytes
    let s := match ps with
      | .scr l blk x :: _ => s.updBlock l blk fun y => y.markPoison x (List.replicate ps.length (d.fate == .poison))
      | _ => s
    some (if d.fate == .poison then ps.foldl State.addPoison s else s, d.fate.cst)

/-- The bytes of parts of a local buffer. -/
def State.bufLocs (s : State) (o : Op) (b : LocalBuf) (parts : List Nat) : List Loc :=
  parts.flatMap fun i => match s.localPart o b i with | .ok ps => ps.take (b.len - 16 * i) | _ => []

/-- The ranges of an operation's local buffer that it writes. -/
def State.bufRanges (s : State) (o : Op) (b : LocalBuf) : List (Nat × Nat) :=
  b.parts.filterMap fun i => match s.localPart o b i with | .ok (.dev pa :: _) => some (pa, 16) | _ => none

/-! ### Bytes named from another device (R393) -/

/-- Pinned by a running launch of the job or by an export pin. -/
def State.pinnedVa (s : State) (job : BitVec 32) (va : Nat) : Bool :=
  (s.launches.any fun l => l.lrec.jobId == job && l.state == 2 && l.pins && l.leased va)
    || s.exportPins.any fun p => p.1 == job && decide (p.2.1 ≤ va ∧ va < p.2.2)

/-- The places of `n` bytes that a remote access names, if it is accepted: one page holds them. -/
def State.remoteLocs (s : State) (job : BitVec 32) (va n : Nat) : Option (List Loc) :=
  match s.walk job va with
  | some p =>
    if pteKind p.2.2 = 0 ∧ !pteProt p.2.2 ∧ !s.firmwareOnly (physOf va p) ∧ (List.range n).all (fun i => s.pinnedVa job (va + i)) then
      some ((List.range n).map fun i => .dev (physOf va p + i))
    else none
  | none => none

/-- Bytes written by a party outside the device's CUs: memory, poison, transactions, engines (R210, R230, R268). -/
def State.outsideWrite (s : State) (ps : List Loc) (vs : List Byte) : State := s.placeBy none none none ps vs

/-- An atomic update of a remote word at its home slice (R239, R397): the old value. -/
def State.remoteAtom (s : State) (ps : List Loc) (w64 : Bool) (f : AtomOp) (x : BitVec 64) : State × BitVec 64 :=
  let old := BitVec.ofNat 64 (leNat (s.readLocs ps))
  let new := atomNew f (if w64 then 64 else 32) old (if w64 then x else (x.setWidth 32).setWidth 64)
  (s.outsideWrite ps (leBytes ps.length new.toNat), old)

/-! ### Ports and routes (R389 to R392) -/

/-- Port i is up: enabled, trained, its TIER valid, its READY bit set (R390, R404). -/
def State.portUp (s : State) (i : Nat) : Bool :=
  match s.ports.toList[i]? with
  | some p => p.en && (p.st == 2 || p.st == 3) && decide (p.tier.toNat < 3) && s.ready.getLsbD (8 + i)
  | none => false

/-- Up ports of which `f` holds, ascending. -/
def State.upPorts (s : State) (f : Port → Bool) : List Nat :=
  (s.ports.toList.zipIdx.filter fun x => s.portUp x.2 && f x.1).map Prod.snd

/-- The pod number of a device (R391). -/
def podOf (d : BitVec 21) : Nat := d.toNat / 512

/-- The hash of a stream's identifiers (R392). (DEDUCED, log entry 45) -/
def streamHash (g : GroupId) (dev : BitVec 21) : Nat :=
  (Config.sha256 (leBytes 8 g.l ++ leBytes 8 g.blk ++ leBytes 4 g.g ++ leBytes 4 dev.toNat)).toNat % 2 ^ 16

/-- The port of a stream (R392). (DEDUCED, log entry 45) -/
def State.route (s : State) (g : GroupId) (dev : BitVec 21) : Option Nat :=
  let direct := s.upPorts fun p => p.tier == 0 && p.peer == dev
  let pod := if podOf dev = podOf s.devId then s.upPorts fun p => p.tier == 1 else []
  let fabric := s.upPorts fun p => p.tier == 2
  let ways := if !direct.isEmpty then direct else if !pod.isEmpty then pod else fabric
  ways[streamHash g dev % ways.length]?

/-- Change a port. -/
def State.updPort (s : State) (i : Nat) (f : Port → Port) : State :=
  if h : i < 16 then { s with ports := s.ports.set i (f s.ports[i]) h } else s

/-- The next stream sequence number of a group toward a device, and the stream's number. -/
def State.streamSeq (s : State) (g : GroupId) (dev : BitVec 21) : State × Nat :=
  match s.txStreams.find? fun x => x.1 == g && x.2.1 == dev with
  | some x => ({ s with txStreams := s.txStreams.map fun y => if y.1 == g && y.2.1 == dev then (g, dev, y.2.2 + 1) else y }, x.2.2)
  | none => ({ s with txStreams := s.txStreams ++ [(g, dev, 1)] }, 0)

/-- The outgoing stream of a port, if it has been given keys (R371). -/
def State.portStream (s : State) (port : Nat) : Option Stream := s.streams.find? fun x => x.ref == .tether (BitVec.ofNat 4 port) true

/-- The key of a port's outgoing stream under an index (R371, R372). -/
def State.portKey (s : State) (port : Nat) (index : Bool) : Option (BitVec 256) :=
  ((s.portStream port).bind fun x => if index then x.set1 else x.set0).bind fun n =>
    (s.kslots.find? fun k => k.n == n && k.live).map fun k => k.key.setWidth 256

/-- A port whose outgoing stream has the key of an index; one that has been given no keys carries nothing of a protected job (R371,
R393). (DEDUCED, log entry 49) -/
def State.portKeyed (s : State) (port : Nat) (index prot : Bool) : Bool :=
  match s.portStream port with
  | some _ => (s.portKey port index).isSome
  | none => !prot

/-- Bytes 0 to 239 of a flit: type, key index, destination, source, payload bytes used, link sequence number, payload (R389). The
payload is encrypted under the key that the flit names (R371). (DEDUCED, log entry 45; DEDUCED, log entry 49) -/
def State.flitOf (s : State) (port type : Nat) (key : Bool) (dev : BitVec 21) (seq : Nat) (payload : List Byte) : List Byte :=
  let head := leBytes 1 type ++ leBytes 1 (if key then 1 else 0) ++ leBytes 3 dev.toNat ++ leBytes 3 s.devId.toNat
    ++ leBytes 2 payload.length ++ leBytes 2 seq
  let body := payload ++ List.replicate (228 - payload.length) 0
  head ++ match s.portKey port key with
    | none => body
    | some k => let x := Config.gcmSeal k head body; (x ++ List.replicate (228 - x.length) 0).take 228

/-- The group of an operation in flight; none of an answer to another device. -/
def State.opGid (s : State) (op : Option Nat) : GroupId :=
  match op.bind s.op? with | some o => o.gid | none => { l := 0, blk := 0, g := 0 }

/-- The payload of a flit: of a request, its header of stream, stream sequence and address, then its data; else its data (R389). -/
def State.payload (s : State) (f : Flit) : List Byte :=
  if f.op.isNone then f.data
  else
    let g := s.opGid f.op
    leBytes 4 (s.txStreams.findIdx fun x => x.1 == g && x.2.1 == f.dev) ++ leBytes 4 f.sseq ++ leBytes 8 f.va ++ f.data

/-- A request that is issued on a port now carries the key index that is current there (R372); an answer keeps that of its request. -/
def State.issueFlit (s : State) (port : Nat) (f : Flit) : Flit :=
  if f.op.isNone then f else { f with key := match s.portStream port with | some x => x.cur | none => false }

/-- A flit leaves by a port, with the port's next link sequence number; a request is in flight until its destination answers. -/
def State.putFlit (s : State) (port : Nat) (f : Flit) : State :=
  match s.ports.toList[port]? with
  | none => s
  | some p =>
    let f := { f with seq := p.seq, bytes := s.flitOf port f.type f.key f.dev p.seq (s.payload f) }
    let s := s.updPort port fun p =>
      { p with seq := (p.seq + 1) % 2 ^ 16, unacked := p.unacked ++ [f],
               inFlight := if f.op.isSome then p.inFlight ++ [f] else p.inFlight }
    { s with out := s.out ++ [.linkFlit port f.bytes] }

/-- A port whose replay buffer of 512 flits has room (R390). -/
def State.portRoom (s : State) (port : Nat) : Bool :=
  match s.ports.toList[port]? with | some p => decide (p.unacked.length < 512) | none => false

/-- The job of an operation is protected. -/
def State.protJob (s : State) (job : BitVec 32) : Bool := (s.job? job).any Job.prot

/-- A request may leave by a port: the replay buffer has room, and the stream its key. -/
def State.portTakes (s : State) (port : Nat) (f : Flit) (prot : Bool) : Bool :=
  s.portRoom port && s.portKeyed port (s.issueFlit port f).key prot

/-- Send one flit of an operation if it has a route, by port `only` if one is given, that port takes it, and tokens. (DEDUCED, log entry
45) -/
def State.sendPart (s : State) (only : Option Nat) (o : Op) (part type : Nat) (dev : BitVec 21) (va : Nat) (data : List Byte) : Option State :=
  match s.route o.gid dev with
  | none => none
  | some port =>
    let f : Flit := { seq := 0, op := some o.id, part := part, sseq := 0, type := type, dev := dev, va := va, data := data, key := false, bytes := [] }
    if s.portTakes port f (s.protJob o.job) && only.all (· == port) then
      (s.takeTokens o.job data.length).map fun s =>
        let r := s.streamSeq o.gid dev
        (r.1.putFlit port (r.1.issueFlit port { f with sseq := r.2 })).updOp o.id fun o => { o with records := o.records ++ [part] }
    else none

/-! ### The link-send engine (R293, R395) -/

/-- What a flit of an operation carries: type, destination, address, data, and whether that has been read. -/
structure FlitBody where
  type : Nat
  dev : BitVec 21
  va : Nat
  data : List Byte
  read : Bool
  deriving DecidableEq, Repr

/-- The `n` bytes of an operation's local buffer in flits of 13 parts, since 212 bytes hold no more whole ones (R389, R393). -/
def Op.dataFlits (o : Op) (type : Nat) (dev : BitVec 21) (va n : Nat) : List FlitBody :=
  (List.range ((n + 207) / 208)).map fun i =>
    let parts := (List.range 13).map (13 * i + ·)
    { type := type, dev := dev, va := va + 208 * i, data := (parts.flatMap o.got).take (n - 208 * i),
      read := parts.all fun k => decide (n ≤ 16 * k) || o.buf.any (·.i == k) }

/-- Bytes that an operation has read from its local buffer. -/
def Op.bufBytes (o : Op) (b : LocalBuf) : List Byte := (b.parts.flatMap o.got).take b.len

/-- The flits of an operation but for its signal, in order; an operation on the own device has none. -/
def Op.flits (o : Op) (own : BitVec 21) : List FlitBody :=
  match o.kind with
  | .send src dst dev _ _ => if dev = own then [] else o.dataFlits 1 dev dst src.len
  | .recv b src dev _ _ => if dev = own ∨ b.len = 0 then [] else [{ type := 2, dev := dev, va := src, data := [], read := true }]
  | .ratom _ w64 _ dev lanes =>
    if dev = own then []
    else lanes.map fun x => { type := 4, dev := dev, va := x.off, data := leBytes (if w64 then 8 else 4) x.x.toNat, read := true }
  | .ared b _ _ (some list) _ _ _ _ =>
    (list.filter fun d => d != own.setWidth 32 && decide (d.toNat < 2 ^ 21)).flatMap fun d => o.dataFlits 8 (d.setWidth 21) 0 b.len
  | _ => []

/-- The contribution of this device to an ARED (R398). -/
def Op.contribution (o : Op) (own : BitVec 21) : Option Contribution :=
  match o.kind with
  | .ared b _ _ (some list) op count coll k =>
    some { src := own, job := o.job, coll := coll, k := k, op := op, count := count, list := list, data := o.bufBytes b }
  | _ => none

/-- The participant list that an ARED's engine reads: none if its count or its members are wrong, or a part of it lies outside
its segment; the outer none is a lease violation (R398). (DEDUCED, log entry 45) -/
def State.readList (s : State) (o : Op) (lva lend : Nat) : Option (Option (List (BitVec 32))) :=
  let word (va : Nat) : Option Nat :=
    ((List.range 4).mapM fun i => match s.engineVa o.gid.l o.cu.die o.job (va + i) with
      | .ok pa pte => if pteKind pte ≠ 0 ∨ pteProt pte then some 0 else some (readByte s.mem pa).toNat
      | _ => none).map fun (bs : List Nat) => (bs.zipIdx.map fun (x : Nat × Nat) => x.1 * 256 ^ x.2).sum
  match word lva with
  | none => none
  | some n =>
    if n < 2 ∨ 4096 < n ∨ lend < lva + 4 + 4 * n then some none
    else
      match (List.range n).mapM fun i => word (lva + 4 + 4 * i) with
      | none => none
      | some ids =>
        let ids := ids.map (BitVec.ofNat 32)
        if (ids.filter (· == s.devId.setWidth 32)).length = 1 then some (some ids) else some none

/-- The buffer that the engine reads for an operation. -/
def Op.source (o : Op) (own : BitVec 21) : Option LocalBuf :=
  match o.kind with
  | .send src _ dev _ _ => if dev = own then none else some src
  | .ared b _ _ (some _) _ _ _ _ => some b
  | _ => none

/-- The engine starts an operation once nothing that comes before it is left (R267, R394); of an ARED it reads the list (R398). A lease
violation ends the launch. (DEDUCED, log entry 45) -/
def State.startLink (s : State) (o : Op) : State :=
  if !s.mayPerform o then s
  else
    match o.kind with
    | .ared b lva lend _ op count coll k =>
      s.whenWalked o [lva, min (lend - 1) (lva + 4 * 4097 - 1)] <|
        match s.readList o lva lend with
        | none => s.violate o
        | some none => s.updOp o.id fun o => { o with started := true, performed := true, cst := o.cst ||| PartEnd.cst .range }
        | some (some ids) => s.updOp o.id fun o => { o with started := true, kind := .ared b lva lend (some ids) op count coll k }
    | _ => s.updOp o.id fun o => { o with started := true }

/-- The data of these parts of a buffer; none is a lease violation. -/
def State.readParts (s : State) (o : Op) (b : LocalBuf) (parts : List Nat) : Option (List PartData) := parts.mapM (s.readLocal o b)

/-- The engine reads parts of the buffer of an operation that has started: one of those left, or all (R268); the last makes an ARED's
contribution. (DEDUCED, log entry 45) -/
def State.readSource (s : State) (o : Op) : State :=
  match o.source s.devId with
  | none => s
  | some b =>
    let now := s.nextPieces (o.unread b) (o.unread b)
    if now.isEmpty || !s.engineMay o false (s.bufLocs o b now) then s
    else s.whenWalked o (b.vas now) <|
      match s.readParts o b now with
      | none => s.violate o
      | some ds =>
        let cst := ds.foldl (fun c d => if d.fate == .ok then c else c ||| d.fate.cst)
        let o' := { o with buf := o.buf ++ ds, cst := cst o.cst }
        let s := s.updOp o.id fun _ => o'
        match o'.contribution s.devId with
        | some c => if (o'.unread b).isEmpty then { s with contributions := s.contributions ++ [c] } else s
        | none => s

/-- Send the parts of an operation that have not been sent, in order, until one cannot leave; whether all have left. -/
def State.sendParts (s : State) (only : Option Nat) (o : Op) : List (FlitBody × Nat) → State × Bool
  | [] => (s, true)
  | (f, i) :: t =>
    if o.records.contains i then State.sendParts s only o t
    else if !f.read then (s, false)
    else
      match s.sendPart only o i f.type f.dev f.va f.data with
      | none => (s, false)
      | some s => State.sendParts s only o t

/-- Every part but the signal has been performed at the destination. -/
def Op.partsDone (o : Op) (own : BitVec 21) : Bool :=
  match o.kind with
  | .recv b .. => decide (b.parts.length ≤ o.buf.length)
  | _ => (List.range (o.flits own).length).all o.parts.contains

/-- The signal of an operation: destination and word. -/
def Op.signal (o : Op) : Option (BitVec 21 × Nat) :=
  match o.kind with
  | .send _ _ dev _ (some w) | .recv _ _ dev _ (some w) => some (dev, w)
  | _ => none

/-- The part number of the signal, beyond every other. -/
def signalPart : Nat := 2 ^ 40

/-- The link operations and accesses of its group before one, which a release at .PEER by it waits for (R394). -/
def State.peerWaits (s : State) (o : Op) : Bool :=
  (opsBefore s.ops o.id).any fun p => p.gid == o.gid && (p.kind.link || (!p.performed && !p.kind.async))

/-- The signal may leave: its parts are performed, and it is a release at .PEER, which waits for the group's earlier
accesses and link operations (R394, R396) and writes L2 back (R271). (DEDUCED, log entry 45) -/
def State.signalReady (s : State) (o : Op) : Bool :=
  o.started && o.partsDone s.devId && !o.records.contains signalPart && !s.peerWaits o

/-- Send the signal if it may leave. -/
def State.sendSignal (s : State) (only : Option Nat) (o : Op) : State :=
  match o.signal with
  | none => s
  | some (dev, w) =>
    if s.signalReady o ∧ dev ≠ s.devId then
      match s.sendPart only o signalPart 4 dev w (leBytes 8 1) with
      | some t => t.releaseL2 o.gid true
      | none => s
    else s

/-- A request of an operation has been answered busy: the entry waits for the retry (R390). -/
def State.opBusy (s : State) (op : Nat) : Bool := s.ports.toList.any fun p => p.busy.any fun f => f.op == some op

/-- The engine of a CU works on an operation: it starts it, reads its buffer, sends its parts and its signal; `blocked` are CUs whose
head has not sent everything. -/
def State.pumpOp (only : Option Nat) (x : State × List CuRef) (id : Nat) : State × List CuRef :=
  match x.1.op? id with
  | none => x
  | some o =>
    if !o.kind.link || x.2.contains o.cu then x
    else if x.1.opBusy id then (x.1, o.cu :: x.2)
    else
      let s := if o.started then x.1 else x.1.startLink o
      let s := match s.op? id with | some o => if o.started then s.readSource o else s | none => s
      match s.op? id with
      | none => (s, x.2)
      | some o =>
        if !o.started then (s, o.cu :: x.2)
        else
          let r := s.sendParts only o (o.flits s.devId).zipIdx
          let s := match r.1.op? id with | some o => r.1.sendSignal only o | none => r.1
          (s, if r.2 then x.2 else o.cu :: x.2)

/-- Flits whose port went down go by another once there is one (R392). -/
def State.resendFlits (s : State) : State :=
  s.flits.foldl (fun (s : State) f =>
    match s.route (s.opGid f.op) f.dev with
    | some port =>
      let prot := match f.op.bind s.op? with | some o => s.protJob o.job | none => false
      if s.portTakes port f prot then
        { (s.putFlit port (s.issueFlit port f)) with flits := s.flits.filter (· != f) }
      else s
    | none => s) s

/-- A port is down: its requests that no one has answered, and its answers that have not been acknowledged, wait for another (R390,
R392). -/
def State.dropPort (s : State) (port : Nat) : State :=
  match s.ports.toList[port]? with
  | none => s
  | some p =>
    let s := s.updPort port fun p => { p with unacked := [], inFlight := [], busy := [], replays := 0 }
    { s with flits := s.flits ++ p.inFlight ++ p.busy ++ p.unacked.filter fun f => f.op.isNone }

/-- The link-send engines send what can leave, by one port if one is given (R293, R375, R390). (DEDUCED, log entry 45) -/
def State.pumpVia (s : State) (only : Option Nat) : State :=
  ((s.ops.filter fun o => o.kind.link).map Op.id |>.foldl (State.pumpOp only) (s, [])).1

/-- The link-send engines send what can leave. -/
def State.pumpLinks (s : State) : State := s.resendFlits.pumpVia none

/-- Demands for tokens that stand in one cycle are met in port order (R375). (DEDUCED, log entry 45) -/
def State.pumpPorts (s : State) : State :=
  ((List.range 16).foldl (fun (s : State) i => s.pumpVia (some i)) s.resendFlits).pumpLinks

/-! ### TSEND and TRECV (R396) -/

/-- A single-issue link instruction: its illegal operand values, then a transaction, then `k` (R296, R331). -/
def linkIssue (s : State) (g : PReg) (illegal : Bool) (k : Eff) : Eff :=
  if illegal then .trap excIllegal else single s g [] k

/-- Queue a link operation, and let the engine send what can leave at once. -/
def linkQueue (s : State) (o : Op) : Eff :=
  match engineIssue s o none with
  | .done t => .done t.pumpLinks
  | e => e

/-- The local buffer that a scalar names in the segments `allow`: its segment faults (R396). (DEDUCED, log entry 15) -/
def State.localBuf (s : State) (x : BitVec 64) (allow : List Nat) (n : Nat) : Except Exc LocalBuf :=
  let off := x.toNat % 2 ^ 52 / 16 * 16
  match segCheck s.grp (segOf x) (baseHigh x) allow n [{ lane := 0, off := off }] with
  | some e => .error { e with mask := 0 }
  | none => .ok { scr := segOf x == 1, base := (if segOf x = 1 then 0 else s.grp.segBase (segOf x)) + off, len := n }

/-- The barrier of a link instruction: none for code 31, or the code of one that is not configured (R396). -/
def State.linkBar (s : State) (c : BitVec 5) : Except Nat (Option BarRef) :=
  if c = 31 then .ok none
  else match s.namedBar s.grp.id.blk c.toNat with | some r => .ok (some r) | none => .error c.toNat

/-- TSEND and TRECV (R396). -/
def transferIssue (send : Bool) (g : PReg) (c : BitVec 5) (a b : Reg) (s : State) : Eff :=
  let ra := s.readS (a + 1)
  let y := s.readS b
  let z := s.readS (b + 1)
  let sig := y.getLsbD 21
  let bad := decide (2 ^ 52 ≤ ra.toNat) || y.toNat / 2 ^ 22 % 4 != 0 || y.toNat / 2 ^ 48 != 0 || (sig && z.toNat % 8 != 0)
  linkIssue s g bad <|
    let n := 16 * (y.toNat / 2 ^ 24 % 2 ^ 24)
    match s.localBuf (s.readS a) (if send then [0, 1, 4] else [0, 1]) n with
    | .error e => .trap e
    | .ok buf =>
      match s.linkBar c with
      | .error code => .trap (excBarrier code)
      | .ok bar =>
        let dev := y.setWidth 21
        let remote := ra.toNat / 16 * 16
        let word := if sig then some (z.toNat % 2 ^ 52) else none
        let k : OpKind := if send then .send buf remote dev n word else .recv buf remote dev n word
        let o := { s.newOp (some .cp) k with bar := bar, bytes := n }
        let o := if n = 0 then o
          else if send then (if buf.scr then { o with src := [(buf.base, n)] } else o)
          else if buf.scr then { o with img := [(s.grp.id.blk, buf.base, n)] }
          else { o with dst := s.bufRanges o buf }
        linkQueue s o

/-- TSEND (R396). -/
def execTsend (g : PReg) (c : BitVec 5) (a b : Reg) (s : State) : Host.Outcome State Fault Refusal :=
  issue s (transferIssue true g c a b)

/-- TRECV (R396). -/
def execTrecv (g : PReg) (c : BitVec 5) (a b : Reg) (s : State) : Host.Outcome State Fault Refusal :=
  issue s (transferIssue false g c a b)

/-- The signal of an operation on the own device: a release at .PEER, refused if its word is (R271, R393, R396). -/
def State.ownSignal (s : State) (o : Op) : State × BitVec 4 :=
  match o.signal with
  | none => (s, 0)
  | some (_, w) =>
    let s := s.releaseL2 o.gid true
    match s.remoteLocs o.job w 8 with
    | some ps => ((s.remoteAtom ps true .add 1).1, 0)
    | none => (s, PartEnd.cst .range)

/-- A part of a transfer within the own device, which travels no link (R396): the state after it, its data, what CST takes; none is a
lease violation. -/
def State.ownPart (s : State) (o : Op) (send : Bool) (b : LocalBuf) (far i : Nat) : Option (State × PartData × BitVec 4) :=
  let there := s.remoteLocs o.job (far + 16 * i) 16
  if send then
    match s.readLocal o b i, there with
    | none, _ => none
    | some d, none => some (s, d, d.fate.cst ||| PartEnd.cst .range)
    | some d, some ps =>
      let s := s.engineWrite o ps d.bytes
      some (if d.fate == .poison then ps.foldl State.addPoison s else s, d, d.fate.cst)
  else
    match there with
    | none =>
      let d : PartData := { i := i, bytes := List.replicate 16 0, fate := .ok }
      (s.writeLocal o b d).map fun r => (r.1, d, r.2 ||| PartEnd.cst .range)
    | some ps =>
      let d : PartData := { i := i, bytes := s.readLocs ps, fate := if ps.any s.poisoned then .poison else .ok }
      (s.writeLocal o b d).map fun r => (r.1, d, r.2)

/-- Parts of such a transfer in turn. -/
def State.ownParts (s : State) (o : Op) (send : Bool) (b : LocalBuf) (far : Nat) : List Nat → Option (State × List PartData × BitVec 4)
  | [] => some (s, [], 0)
  | i :: t =>
    match s.ownPart o send b far i with
    | none => none
    | some (s, d, c) => (State.ownParts s o send b far t).map fun r => (r.1, d :: r.2.1, c ||| r.2.2)

/-- The bytes of the own device that a TSEND has written without poison. -/
def State.ownClean (s : State) (o : Op) (far : Nat) : List Loc :=
  (o.buf.filter fun d => d.fate == .ok).flatMap fun d => (s.remoteLocs o.job (far + 16 * d.i) 16).getD []

/-- The end of a TSEND or TRECV (R280, R396): versions of the sg1 slots that a TRECV wrote advance, bytes that others wrote in its
destination are free, then CST, the bytes on its barrier, and cp. -/
def State.settleLink (s : State) (o : Op) : State :=
  match o.kind with
  | .recv b .. =>
    let spoilt := o.spoilt.eraseDups.filter o.writesTo
    let s := s.engineWrite o spoilt (spoilt.zipIdx.map fun x => Config.freeByte s.fresh x.2)
    let s := s.clearPoison (s.bufLocs o b ((o.buf.filter fun d => d.fate == .ok).map PartData.i))
    let s := if b.scr then
        s.advanceSlots ((List.range b.len).map fun i => .scr o.gid.l o.gid.blk (b.base + i))
      else s
    s.settleCopy o
  | .send _ far dev _ _ => (if dev = s.devId then s.clearPoison (s.ownClean o far) else s).settleCopy o
  | _ => s.settleCopy o

/-- RATOM's lanes on the own device (R397): each lane's value, none if refused, and the places updated. -/
def State.ownLanes (s : State) (o : Op) (f : AtomOp) (w64 : Bool) : List AtomLane → State × List (Nat × Option (BitVec 64))
  | [] => (s, [])
  | x :: t =>
    match s.remoteLocs o.job x.off (if w64 then 8 else 4) with
    | none => let q := State.ownLanes s o f w64 t; (q.1, (x.lane, none) :: q.2)
    | some ps =>
      let r := s.remoteAtom ps w64 f x.x
      let q := State.ownLanes r.1 o f w64 t
      (q.1, (x.lane, some r.2) :: q.2)

/-- The replay records of RATOM's lanes on the own device, whose log the order at the word goes to (R362, R397). (DEDUCED, log entry
21) -/
def State.ownRecords (s : State) (o : Op) (w64 : Bool) (lanes : List AtomLane) : List ReplayRec :=
  if (s.group? o.gid).any Group.det then
    (s.atomicRecords o (lanes.map fun x => { x with locs := (s.remoteLocs o.job x.off (if w64 then 8 else 4)).getD [] })).filter
      fun r => !s.replay.contains r
  else []

/-- The results of RATOM: a refused lane returns 0 and sets CST.RANGE (R397). -/
def State.settleRatom (s : State) (o : Op) (d : Nat) (w64 : Bool) (rs : List (Nat × Option (BitVec 64))) : State :=
  let s := if rs.any fun r => r.2.isNone then s.updGroup o.gid fun g => { g with cst := g.cst ||| PartEnd.cst .range } else s
  s.updOp o.id fun o => { o with performed := true, results := laneResults d w64 (rs.map fun r => (r.1, r.2.getD 0)) }

/-- A lane of RATOM has its answer; with the last the operation is performed. -/
def State.laneAnswer (s : State) (o : Op) (d : Nat) (w64 : Bool) (lanes : List AtomLane) (lane : Nat)
    (answer : Option (BitVec 64)) : State :=
  if o.performed || o.buf.any (·.i == lane) || !lanes.any (·.lane == lane) then s
  else
    let x : PartData := { i := lane, bytes := leBytes 8 (answer.getD 0).toNat, fate := if answer.isSome then .ok else .range }
    let o' := { o with buf := o.buf ++ [x] }
    let s := s.updOp o.id fun _ => o'
    if o'.buf.length < lanes.length then s
    else s.settleRatom o' d w64 (o'.buf.map fun x =>
      (x.i, if x.fate == .ok then some (BitVec.ofNat 64 (leNat x.bytes)) else none))

/-- A transfer within the own device performs one of the parts left, or all; with the last it sends its signal and completes (R268,
R396). (DEDUCED, log entry 45) -/
def State.ownTransfer (s : State) (o : Op) (send : Bool) (b : LocalBuf) (far : Nat) : State :=
  let now := s.nextPieces (o.unread b) (o.unread b)
  if !s.engineMay o (!send) (s.bufLocs o b now) then s
  else s.whenWalked o (b.vas now) <|
    match s.ownParts o send b far now with
    | none => s.violate o
    | some (t, ds, c) =>
      let o' := { (t.op? o.id).getD o with buf := o.buf ++ ds, cst := o.cst ||| c }
      let t := t.updOp o.id fun _ => o'
      if !(o'.unread b).isEmpty || (o.signal.isSome && t.peerWaits o') then t
      else
        let r := t.ownSignal o'
        r.1.settleLink { (r.1.op? o.id).getD o' with cst := o'.cst ||| r.2 }

/-- RATOM on the own device performs the first lane that is left, or all, lanes in ascending order (R236, R397); a replay waits for its
turn at the line (R363). (DEDUCED, log entry 45) -/
def State.ownRatom (s : State) (o : Op) (f : AtomOp) (w64 : Bool) (d : Nat) (lanes : List AtomLane) : State :=
  let left := (lanes.filter fun x => !o.buf.any (·.i == x.lane)).map AtomLane.lane
  let now := lanes.filter fun x => (s.nextPieces left (left.take 1)).contains x.lane
  let rs := s.ownRecords o w64 now
  if !s.replayAllows rs then s
  else
    let r := s.ownLanes o f w64 now
    let s : State := { r.1 with replay := r.1.replay ++ rs, follow := r.1.follow.filter fun x => !rs.contains x }
    r.2.foldl (fun (s : State) x => match s.op? o.id with | some o => s.laneAnswer o d w64 lanes x.1 x.2 | none => s) s

/-- LINK_SEND_COMPLETE (R396): a transfer all of whose parts have been performed at the destination, and its signal, completes; one on
the own device is performed. (DEDUCED, log entry 45) -/
def execLinkSendComplete (op : Nat) (s : State) : Host.Outcome State Fault Refusal :=
  event s fun s =>
    let s := s.pumpLinks
    match s.op? op with
    | none => s
    | some o =>
      if !o.started then s
      else
        match o.kind with
        | .send b far dev _ sig | .recv b far dev _ sig =>
          let send := match o.kind with | .send .. => true | _ => false
          if dev = s.devId then s.ownTransfer o send b far
          else if o.partsDone s.devId && (sig.isNone || o.parts.contains signalPart) then s.settleLink o
          else s
        | .ratom f w64 d dev lanes => if dev = s.devId ∧ !o.performed then s.ownRatom o f w64 d lanes else s
        | _ => s

/-! ### RATOM (R397) -/

/-- RATOM (R397). -/
def execRatom (g : PReg) (w64 : Bool) (op : AtomOp) (d a b : Reg) (s : State) : Host.Outcome State Fault Refusal :=
  issue s fun s =>
    let y := s.readS (b + 1)
    let act := s.active g
    let n := if w64 then 8 else 4
    let xs : List LaneOff := (lanesOf act).map fun l =>
      { lane := l, off := (s.readS b).toNat % 2 ^ 52 + ((s.readV a).get l).toNat }
    if y.toNat / 2 ^ 21 ≠ 0 then .trap excIllegal
    else if s.inTx then .trap excTx
    else
      match alignCheck n xs with
      | some e => .trap e
      | none =>
        let names := if w64 then [d, d + 1] else [d]
        if act ≠ 0 && s.queueFull s.grp.place.part.cu .link then .stall s
        else
          let lanes : List AtomLane := xs.map fun x =>
            { lane := x.lane, off := x.off, locs := [], x := s.laneWord w64 d x.lane, cmp := 0 }
          match loadLikeAt s (s.touch (a :: names)) act names [] fun t =>
              { t.newOp (some .ld) (.ratom op w64 d.toNat (y.setWidth 21) lanes) with
                performed := lanes.isEmpty, bytes := t.grp.issued } with
          | .done t => .done t.pumpLinks
          | e => e

/-! ### ARED (R398, R399) -/

/-- OP of a MERGE: bytes of a record. -/
def mergeBytes (op : BitVec 3) : Nat := if op = 3 then 272 else 528

/-- Bytes of an ARED's buffer (R398). -/
def aredBytes (op : BitVec 3) (count : Nat) : Nat := if op.toNat < 3 then 4 * count else count * mergeBytes op

/-- ARED (R398): a release at .FAB (R271, R399). -/
def execAred (g : PReg) (c : BitVec 5) (a b : Reg) (s : State) : Host.Outcome State Fault Refusal :=
  issue s fun s =>
    let y := s.readS b
    let op : BitVec 3 := y.setWidth 3
    let count : BitVec 24 := y.extractLsb' 8 24
    linkIssue s g (decide (4 < op.toNat) || y.toNat / 8 % 32 != 0 || count == 0) <|
      let n := aredBytes op count.toNat
      match s.localBuf (s.readS a) [0, 1] n with
      | .error e => .trap e
      | .ok buf =>
        let x := s.readS (a + 1)
        let off := x.toNat % 2 ^ 52
        match segCheck s.grp (segOf x) (baseHigh x) [0, 4] 4 [{ lane := 0, off := off }] with
        | some e => .trap { e with mask := 0 }
        | none =>
          match s.linkBar c with
          | .error code => .trap (excBarrier code)
          | .ok bar =>
            if !s.quiet || s.linksBusy then .stall s
            else
              let coll : BitVec 32 := y.extractLsb' 32 32
              let k := ((s.aredCount.find? fun z => z.1 == s.grp.job && z.2.1 == coll).map fun z => z.2.2).getD 0
              let base := s.grp.segBase (segOf x)
              let o := { s.newOp (some .cp)
                  (.ared buf (base + off) (base + s.grp.limit (segOf x)) none op count coll k) with
                bar := bar, bytes := n }
              let o := if buf.scr then { o with img := [(s.grp.id.blk, buf.base, n)], src := [(buf.base, n)] }
                else { o with dst := s.bufRanges o buf }
              let others := s.aredCount.filter fun z => !(z.1 == s.grp.job && z.2.1 == coll)
              let s' : State := { s.releaseL2 s.grp.id true with aredCount := (s.grp.job, coll, k + 1) :: others }
              match linkQueue s' o with
              | .stall _ => .stall s
              | e => e

/-- Words of a record merged (R399): m, l and accumulators as XMERGE; STATUS, BANK and MISS as stated; `y` so far, `x` the next
rank. -/
def mergeRecord (y x : List (BitVec 32)) : List (BitVec 32) :=
  let acc (r : List (BitVec 32)) : List (BitVec 32) := r.take 2 ++ r.drop 4
  let m := mergeLane (acc y) (acc x)
  let sy := y.getD 2 0
  let sx := x.getD 2 0
  let status := ((sy ||| sx) &&& 0x1D#32) ||| (sy &&& sx &&& 2#32) ||| (sy &&& 0x1E0#32)
  let miss := min 0xFFFF ((y.getD 3 0).toNat / 2 ^ 16 + (x.getD 3 0).toNat / 2 ^ 16)
  m.take 2 ++ [status, BitVec.ofNat 32 (miss * 2 ^ 16)] ++ m.drop 2

/-- One rank folded into the result (R399). -/
def foldRank (op : BitVec 3) (y x : List (BitVec 32)) : List (BitVec 32) :=
  match op.toNat with
  | 0 => (y.zip x).map fun p => round32 .rne 0 ((val32 p.1).add false (val32 p.2))
  | 1 => (y.zip x).map fun p => minMax true p.1 p.2
  | 2 => (y.zip x).map fun p => minMax false p.1 p.2
  | _ =>
    let n := mergeBytes op / 4
    (List.range (y.length / n)).flatMap fun i => mergeRecord ((y.drop (n * i)).take n) ((x.drop (n * i)).take n)

/-- The result of an instance from its contributions in rank order (R399). -/
def foldRanks (op : BitVec 3) : List (List (BitVec 32)) → List (BitVec 32)
  | [] => []
  | x :: t => t.foldl (foldRank op) x

/-- The contributions of an instance in rank order; none while one is missing (R399). -/
def State.instanceOf (s : State) (job coll : BitVec 32) (k : Nat) (list : List (BitVec 32)) : Option (List Contribution) :=
  list.mapM fun d => s.contributions.find? fun c => c.src.setWidth 32 == d && c.job == job && c.coll == coll && c.k == k

/-- The contributions agree with rank 0's (R399). -/
def agreed (cs : List Contribution) : Bool :=
  match cs with
  | [] => false
  | c :: t => t.all fun x => x.op == c.op && x.count == c.count && x.list == c.list

/-- Write an ARED's buffer; none is a lease violation. -/
def State.writeBuf (s : State) (o : Op) (b : LocalBuf) (bs : List Byte) : List Nat → Option (State × BitVec 4)
  | [] => some (s, 0)
  | i :: t =>
    match s.writeLocal o b { i := i, bytes := (bs.drop (16 * i)).take 16, fate := .ok } with
    | none => none
    | some (s, c) => (State.writeBuf s o b bs t).map fun r => (r.1, c ||| r.2)

/-- An ARED completes without its result (R398, R399). -/
def State.failAred (s : State) (o : Op) : State := s.settleCopy { o with cst := o.cst ||| PartEnd.cst .range }

/-- Part i of an ARED's result as its parts are numbered, beyond its flits. -/
def resultPart (i : Nat) : Nat := 2 ^ 41 + i

/-- An ARED whose instance agrees writes one of the parts of its result that are left, or all (R268, R399); with the last it completes.
(DEDUCED, log entry 45) -/
def State.writeResult (s : State) (o : Op) (b : LocalBuf) (f : BitVec 3) (cs : List Contribution) (coll : BitVec 32) (k : Nat) : State :=
  let left := b.parts.filter fun i => !o.parts.contains (resultPart i)
  let now := s.nextPieces left left
  if !s.engineMay o true (s.bufLocs o b now) then s
  else s.whenWalked o (b.vas now) <|
    let y := foldRanks f (cs.map fun c => wordsOf c.data (c.data.length / 4))
    let bs := if o.clobbered then (List.range b.len).map (Config.freeByte s.fresh) else wordBytes y
    match s.writeBuf o b bs now with
    | none => s.violate o
    | some (s, c) =>
      let o := { (s.op? o.id).getD o with parts := o.parts ++ now.map resultPart, cst := o.cst ||| c }
      let s := s.updOp o.id fun _ => o
      if now.length < left.length then s
      else
        let gone : State := { s with contributions := s.contributions.filter fun c => !(c.job == o.job && c.coll == coll && c.k == k) }
        let ps := (List.range b.len).map fun i => Loc.scr o.gid.l o.gid.blk (b.base + i)
        ((if b.scr then gone.advanceSlots ps else gone).clearPoison (s.bufLocs o b b.parts)).settleCopy o

/-- ARED_COMPLETE (R399): the instance has formed and this device's contribution is acknowledged; or the list was bad. -/
def execAredComplete (op : Nat) (s : State) : Host.Outcome State Fault Refusal :=
  event s fun s =>
    let s := s.pumpLinks
    match s.op? op with
    | none => s
    | some o =>
      match o.kind with
      | .ared b _ _ list f _ coll k =>
        if o.performed then s.failAred o
        else
          match list.bind (s.instanceOf o.job coll k) with
          | none => s
          | some cs =>
            if !o.partsDone s.devId then s
            else if agreed cs then s.writeResult o b f cs coll k
            else
              let gone : State := { s with contributions := s.contributions.filter fun c =>
                !(c.job == o.job && c.coll == coll && c.k == k) }
              gone.failAred o
      | _ => s

/-- ARED_TIMEOUT (R399): the instance has not formed within the job's watchdog limit. (DESIGN CHOICE, log entry 53) -/
def execAredTimeout (op : Nat) (s : State) : Host.Outcome State Fault Refusal :=
  event s fun s =>
    match s.op? op with
    | none => s
    | some o =>
      match o.kind with
      | .ared _ _ _ list _ _ coll k =>
        if (list.bind (s.instanceOf o.job coll k)).isSome then s else s.failAred o
      | _ => s

/-! ### Bridle links (R388) -/

/-- Change a Bridle link. -/
def State.updBridle (s : State) (i : Nat) (f : Bridle → Bridle) : State :=
  if h : i < 6 then { s with bridle := s.bridle.set i (f s.bridle[i]) h } else s

/-- BRIDLE_FLIT_REPLAY (R388). -/
def execBridleFlitReplay (link : BitVec 3) (s : State) : Host.Outcome State Fault Refusal :=
  event s fun s => s.updBridle link.toNat fun b => { b with replays := b.replays + 1 }

/-- BRIDLE_LANE_LOSS (R388): the link retrains on the lanes that remain. -/
def execBridleLaneLoss (link : BitVec 3) (s : State) : Host.Outcome State Fault Refusal :=
  event s fun s => s.updBridle link.toNat fun b => if b.st = 2 then b else { b with st := 1, lost := b.lost + 1 }

end Sys2Proof.Machine
end

