-- ==== Sys2Proof/Machine/Fetch.lean ====
section
/-! DEFINITION. Which fragment issues next and what it fetches (R17 to R25, R182, R334, R344, R352). -/

namespace Sys2Proof.Machine

/-! ### Which fragment issues -/

/-- A partition stopped by debug issues nothing; while it steps, only the slot it steps issues (R352, R354). -/
def DebugPart.holds (d : DebugPart) (g : Group) : Bool :=
  d.part == g.place.part && (d.stopped || (d.stepping && d.slot.toNat != g.place.slot.toNat))

/-- Groups of this block issue: it is resident and not taken (R180, R344). -/
def Block.runs (b : Block) : Bool := b.cu.isSome && !b.stopping && !b.saved && !b.complete

/-- A group may issue; it may not while an injector holds a plain STR of it (R248, R364). -/
def State.groupIssues (s : State) (g : Group) : Bool :=
  !g.ended && g.wait.isNone && !(s.dbg.any fun d => d.holds g) && !(s.ops.any fun o => o.gid == g.id && o.hold && o.plainStr)
    && (match s.block? g.id.l g.id.blk with | some b => b.runs | none => false)

/-- A fragment may issue (R137, R182). -/
def Frag.issues (f : Frag) : Bool := (f.st == .ready || (f.st == .stalled && f.again)) && !f.written

/-- A fragment that may issue: its group's id, its partition, its entry, and its place in the order of choice. -/
structure Ready where
  id : GroupId
  part : Partition
  entry : Nat
  key : Nat
  deriving DecidableEq, Repr

/-- The place of a fragment in the order of choice: a run goes on, else the rotation list decides (R182). -/
def Frag.key (f : Frag) : Nat := if 0 < f.run then 0 else f.rot + 1

/-- The fragments that may issue. -/
def State.readyFrags (s : State) : List Ready :=
  let of (g : Group) (fs : List Frag) : List Ready :=
    if s.groupIssues g then (fs.filter Frag.issues).map fun f =>
      { id := g.id, part := g.place.part, entry := f.entry, key := f.key }
    else []
  (if s.live then of s.grp (s.frag :: s.grp.frags) else []) ++ (s.groups.flatMap fun g => of g g.frags)

/-- The first in the order of choice (R182). -/
def firstReady : List Ready → Option Ready
  | [] => none
  | x :: t => match firstReady t with
    | none => some x
    | some y => if x.key ≤ y.key then some x else some y

/-- The run of a fragment that cannot issue ends: it takes rotation place `rot` (R182). -/
def Frag.endRunAt (f : Frag) (may : Bool) (rot : Nat) : Frag :=
  if 0 < f.run && !(may && f.issues) then { f with rot := rot, run := 0 } else f

/-- The runs of a group's fragments that cannot issue end. -/
def Group.endRuns (g : Group) (may : Bool) (rot : Nat) : Group :=
  { g with frags := g.frags.map fun f => f.endRunAt may rot }

/-- Runs of fragments that are not ready end (R182). Of one partition at most one fragment is in its run. -/
def State.endRuns (s : State) : State :=
  { s with
    frag := s.frag.endRunAt (s.live && s.groupIssues s.grp) s.nextRot,
    grp := s.grp.endRuns (s.groupIssues s.grp) s.nextRot,
    groups := s.groups.map fun g => g.endRuns (s.groupIssues g) s.nextRot,
    nextRot := s.nextRot + 1 }

/-- Issues after which the device takes an event of its own although a fragment is ready, so that a group that polls does not
keep the engines and the scheduler from going on. (DESIGN CHOICE, log entry 3) -/
def issuesPerEvent : Nat := 64

/-- Choose the fragment that issues: in the partition that `turns` names, else in any (R182); none if none is ready, or
if it is the turn of the device's own events. (DESIGN CHOICE, log entry 3) -/
def State.pick (s : State) : Option State :=
  if issuesPerEvent ≤ s.picks then none else
  let s := s.endRuns
  let all := s.readyFrags
  let here := match s.turns with
    | [] => all
    | p :: _ =>
      let some_ := all.filter fun x => x.part == p
      if some_.isEmpty then all else some_
  let s := { s with turns := s.turns.drop 1, picks := s.picks + 1 }
  (firstReady here).map fun x => s.focusOn x.id x.entry

/-! ### The issue-slot tree (R357) -/

/-- The guard whose lanes a lane-wise instruction acts on; none of a group-wide instruction (R31, R78). -/
def Instr.guard : Instr → Option PReg
  | .add g _ _ _ _ | .sub g _ _ _ _ | .mul g _ _ _ _ | .mulhi g _ _ _ _ | .imin g _ _ _ _ | .imax g _ _ _ _
  | .iabs g _ _ _ | .popc g _ _ _ | .and g _ _ _ _ | .or g _ _ _ _ | .xor g _ _ _ _ | .andn g _ _ _ _
  | .shl g _ _ _ _ | .shr g _ _ _ _ | .sar g _ _ _ _ | .rotl g _ _ _ _ | .clz g _ _ _ | .brev g _ _ _
  | .addc g _ _ _ _ | .subb g _ _ _ _ | .mov g _ _ _ | .bcast g _ _ | .laneget g _ _ _ _ | .sread g _ _
  | .imad g _ _ _ _ | .bfx g _ _ _ _ | .bfi g _ _ _ _ | .sel g _ _ _ _ | .addi g _ _ _ _ | .movi g _ _
  | .movhi g _ _ | .icmp g _ _ _ _ _ | .icmpi g _ _ _ _ _ | .kand g _ _ _ | .kor g _ _ _ | .kxor g _ _ _
  | .shflIdx g _ _ _ _ | .shflUp g _ _ _ _ | .shflDown g _ _ _ _ | .shflXor g _ _ _ _ | .knot g _ _
  | .kmov g _ _ | .kfroms g _ _ | .emget g _ | .voteAny g _ _ | .voteAll g _ _ | .voteBal g _ _ | .elect g _
  | .lscan g _ _ | .reduxAdd g _ _ | .reduxMin g _ _ | .reduxMax g _ _ | .reduxAnd g _ _ | .reduxOr g _ _
  | .reduxXor g _ _ | .fadd g _ _ _ _ | .fsub g _ _ _ _ | .fmul g _ _ _ _ | .fmin g _ _ _ _ | .fmax g _ _ _ _
  | .fabs g _ _ _ | .fneg g _ _ _ | .frnd g _ _ _ _ | .ffma g _ _ _ _ | .hfma2 g _ _ _ _ | .fdot4 g _ _ _ _
  | .fcmp g _ _ _ _ _ | .frcp g _ _ _ | .frsq g _ _ _ | .fsqrt g _ _ _ | .fexp2 g _ _ _ | .flog2 g _ _ _
  | .fsin g _ _ _ | .fcos g _ _ _ | .ftanh g _ _ _ | .hadd2 g _ _ _ _ | .hmul2 g _ _ _ _ | .fldexp g _ _ _ _
  | .pack g _ _ _ _ | .unpk g _ _ _ _ | .fcvt g _ _ _ _ | .icvt g _ _ _ _ | .ftoi g _ _ _ _ | .tseed g _ _ _ _
  | .tget g _ _ _ | .tset g _ _ _ | .tzero g _ _ | .ld g _ _ _ _ _ _ | .st g _ _ _ _ _ _ | .lds g _ _ _ _
  | .sts g _ _ _ _ | .ldr g _ _ _ _ _ | .str g _ _ _ _ _ | .atomAddW32 g _ _ _ _ | .atomMinW32 g _ _ _ _
  | .atomMaxW32 g _ _ _ _ | .atomAndW32 g _ _ _ _ | .atomOrW32 g _ _ _ _ | .atomXorW32 g _ _ _ _
  | .atomXchgW32 g _ _ _ _ | .atomF32 g _ _ _ _ | .atomAddW64 g _ _ _ _ | .atomMinW64 g _ _ _ _
  | .atomMaxW64 g _ _ _ _ | .atomAndW64 g _ _ _ _ | .atomOrW64 g _ _ _ _ | .atomXorW64 g _ _ _ _
  | .atomXchgW64 g _ _ _ _ | .arwRd g _ _ _ _ | .arwRdx g _ _ _ _ | .arwWr g _ _ _ _ | .arwWrx g _ _ _ _
  | .acasW32 g _ _ _ _ | .acasW64 g _ _ _ _ | .tfind g _ _ _ | .tins g _ _ _ | .trepl g _ _ _ | .tdel g _ _ _
  | .tfindQ g _ _ _ | .tinsQ g _ _ _ | .treplQ g _ _ _ | .tdelQ g _ _ _ | .tscan g _ _ _ _ | .tnext g _ _ _ _
  | .tclose g _ | .shape g _ _ | .cpyIn g _ _ _ | .cpyOut g _ _ _ | .cpyRem g _ _ _ | .mma g _ _ _ _ _ _
  | .mmag g _ _ _ _ _ _ | .mmaT g _ _ _ _ _ _ | .amld g _ _ | .amst g _ _ | .amzero g _ | .amrow g _ _ _
  | .amscl g _ _ _ _ | .drainSt g _ _ _ | .drainAdd g _ _ _ | .kvapp g _ _ _ | .kvappDrop g _ _
  | .qpost g _ _ _ _ | .qget g _ _ _ _ | .btld g _ _ _ | .xmerge g _ _ _ | .tsend g _ _ _ | .trecv g _ _ _
  | .ratom g _ _ _ _ _ | .ared g _ _ _ => some g
  | .mov16bit _ _ | .movi16bit _ _ | .add16bit _ _ | .addi16bit _ _ | .sub16bit _ _ | .and16bit _ _
  | .or16bit _ _ | .xor16bit _ _ | .shl16bit _ _ | .shr16bit _ _ | .imin16bit _ _ | .imax16bit _ _
  | .fadd16bit _ _ | .fsub16bit _ _ | .fmul16bit _ _ | .fmax16bit _ _ => some 0
  | _ => none

/-- The leaf that the issue of an instruction counts on: 0, or 1 with an empty active set (R357). (DEDUCED, log entry
29) -/
def State.issueLeaf (s : State) (i : Instr) : Nat :=
  match Instr.guard i with
  | some g => if s.active g = 0 then 1 else 0
  | none => 0

/-! ### Fetch and decode -/

/-- The address after an instruction of `len` bytes; the next bundle's slot 0 follows the last slot (R17). -/
def nextAddr (a : VA) (len : Nat) : VA :=
  let n := a + BitVec.ofNat 52 len
  if n.toNat % 32 = 0 then n + 4 else n

/-- What the issuing fragment comes to before its instruction executes. -/
inductive Fetch where
  /-- The instruction to execute, and the state with its latch. -/
  | instr (i : Instr) (s : State)
  /-- The fetch is a lease violation, or waits for the host's walk of its page (R406). -/
  | settled (s : State)

/-- Fetch and decode the instruction at `here` for the fragment in focus. -/
def State.fetchAt (s : State) (here : VA) : Fetch :=
  let dl := s.latch.dl
  let start := if dl.isSome then s.latch.start else here
  let s := { s with latch := { start := start, here := here, next := here, gap := 0, code := 0, dl := dl, leaf := 0, split := false } }
  match s.fetch here with
  | .lease => .settled { (s.leaseViolation s.grp.id.l).stepDone with fresh := s.fresh + 1 }
  | .wait => .settled ((s.myWalk (bundleBase here)).stalled start)
  | .bundle b =>
    if b.ok then
      let i := (here.toNat % 32 - 4) / 2
      let code := b.code i
      let gap := if code = 2 then b.gap else 0
      if here.toNat % 32 < 4 ∨ code = 0 then
        .instr .illegalEncoding s
      else
        match b.instr i with
        | .ok x => .instr x { s with latch := { s.latch with next := nextAddr here x.length, code := code, gap := gap, leaf := s.issueLeaf x } }
        | .error _ => .instr .illegalEncoding s
    else
      .instr .bundleMalformed { s with latch := { s.latch with start := BitVec.ofNat 52 (bundleBase here) + 4 } }

/-- Fetch for the fragment in focus: after a DL the instruction it prefixes, else the one at pc (R27, R129). -/
def State.fetchNext (s : State) : Fetch := s.fetchAt (if s.latch.dl.isSome then s.latch.next else s.frag.pc)

end Sys2Proof.Machine
end

