-- ==== Sys2Proof/Machine/SaveArea.lean ====
section
/-! DEFINITION. A block's save area: its bytes, and the block and groups that they give back (R346, R348). -/

namespace Sys2Proof.Machine

/-- Exactly n bytes. -/
def exactly (n : Nat) (bs : List Byte) : List Byte := (bs ++ List.replicate (n - bs.length) 0).take n

/-- The number in `n` bytes from byte `o`. -/
def numAt (bs : List Byte) (o n : Nat) : Nat := leNat ((bs.drop o).take n)

/-! ### What the area holds (R348) -/

/-- A watchpoint in a group record: lo, hi, table, kind and whether it is set. (DESIGN CHOICE, log entry 26) -/
def Watch.bytes (w : Watch) : List Byte :=
  let kind := match w.kind with | .rd => 0 | .wr => 1 | .rw => 2 | .key => 3
  exactly 30 (leBytes 8 w.lo.toNat ++ leBytes 8 w.hi.toNat ++ leBytes 2 w.table.toNat ++ leBytes 1 kind
    ++ leBytes 1 (if w.en then 1 else 0))

/-- A cursor in a group record: hi, last key, table, flags. (DESIGN CHOICE, log entry 26) -/
def Group.cursorBytes (g : Group) (slot lane : Nat) : List Byte :=
  match g.cursors.find? fun c => c.slot.toNat == slot && c.lane == lane with
  | none => List.replicate 32 0
  | some c => leBytes 8 c.hi.toNat ++ leBytes 8 c.last.toNat ++ leBytes 8 c.table.toNat
      ++ leBytes 8 (1 + (if c.returned then 2 else 0) + (if c.exhausted then 4 else 0))

/-- What a deferred entry comes to (R294): the barrier and generation of its start condition, its instruction. -/
def Op.deferredWords (o : Op) : List Nat :=
  match o.deferred with
  | some (r, gen) => [BarRef.code r, gen.toNat, o.addr.toNat]
  | none => []

/-- A group's record of 5,440 + 128 × HELD bytes (R348) with its deferred entries `defs`, whose layout is the device's own.
(DESIGN CHOICE, log entry 26) -/
def Group.record (g : Group) (defs : List Nat) : List Byte :=
  let one := if g.split? then none else g.frags.head?
  let of (f : Frag → Nat) : Nat := match one with | some x => f x | none => 0
  let gst := match g.frags.head? with | some f => g.gst f | none => 0
  let maps := ((List.range 32).map fun i => if (g.v.toList.getD i none).isSome then 2 ^ i else 0).sum
  let wait := match g.wait with | none => (0, 0, 0) | some w => (if w.regroup then 2 else 1, w.gen.toNat, w.code)
  let tx := match g.tx with | some t => 8 + t.cause | none => g.txCause
  let regs := (g.v.toList.filterMap fun x => x).flatMap fun r => (List.range (g.kt + 1)).flatMap fun j => lanesBytes (compAt r j)
  exactly 0x100 (leBytes 8 (of fun f => f.pc.toNat) ++ leBytes 4 g.em.toNat ++ leBytes 4 g.deferredFree.toNat
      ++ leBytes 8 (of fun f => f.fmt.toNat) ++ leBytes 8 g.sp.toNat ++ leBytes 8 (of fun f => f.jr.toNat)
      ++ leBytes 4 maps ++ leBytes 2 g.quota ++ leBytes 2 g.held ++ leBytes 4 gst.toNat ++ leBytes 1 g.role
      ++ leBytes 1 wait.1 ++ leBytes 2 wait.2.1 ++ leBytes 1 wait.2.2 ++ leBytes 1 tx ++ leBytes 6 0
      ++ exactly 64 (Config.saveLayout 1 defs) ++ leBytes 4 g.cst.toNat)
    ++ g.s.toList.flatMap (fun x => leBytes 8 x.toNat) ++ g.k.toList.flatMap (fun x => leBytes 4 x.toNat)
    ++ leBytes 8 g.tcause.toNat ++ leBytes 8 g.taddr.toNat ++ leBytes 4 g.tmask.toNat ++ leBytes 4 g.tem.toNat
    ++ leBytes 8 g.tepc.toNat
    ++ leBytes 8 ((if g.waitr then 8 else 0) + (if g.pend then 4 else 0) + (if g.supp then 2 else 0) + if g.tmode then 1 else 0)
    ++ g.w.toList.flatMap Watch.bytes
    ++ g.sg.toList.flatMap (fun x => leBytes 8 x.base.toNat ++ leBytes 8 x.limit.toNat)
    ++ g.sh.toList.flatMap (fun x => leBytes 64 x.toNat)
    ++ (List.range 4).flatMap (fun c => (List.range 32).flatMap (g.cursorBytes c))
    ++ exactly (128 * g.held) regs

/-- The state of a barrier as numbers. -/
def Barrier.words (b : Barrier) : List Nat :=
  [b.expected.toNat, b.arrived.toNat, b.target.toNat, b.bytes.toNat, b.gen.toNat]
    ++ b.arrivals.flatMap (fun a => [a.1, a.2]) ++ b.regroups.map Regrouping.g

/-- The state of a remote queue as numbers. -/
def RemoteQueue.words (q : RemoteQueue) : List Nat :=
  q.tail :: q.entries.flatMap (fun e => [e.off, e.src, if e.popped then 1 else 0]) ++ q.credits.flatMap fun c => [c.1, c.2]

/-- Where the group records of a block start in its save area. -/
def recordStarts : List Group → Nat → List Nat
  | [], _ => []
  | g :: t, o => o :: recordStarts t (o + 5440 + 128 * g.held)

/-- The record of a slot: data, slot number, version, swizzle mode. (DESIGN CHOICE, log entry 26) -/
def Block.slotBytes (b : Block) (i : Nat) : List Byte :=
  b.span (1024 * i) 1024 ++ leBytes 8 i ++ leBytes 1 (b.version i).toNat ++ leBytes 7 (if b.swz.getD i false then 1 else 0)

/-- The record of a scale register: data, tag slot, tag version, valid. (DESIGN CHOICE, log entry 26) -/
def ScaleReg.record (x : ScaleReg) : List Byte :=
  exactly 128 x.bytes ++ match x.tag with
    | some (slot, v) => leBytes 8 slot ++ leBytes 4 v.toNat ++ leBytes 4 1
    | none => leBytes 16 0

/-- The save area of a block with groups `gs`, in whole parts of 16 bytes (R348); the layouts of its header, which gives the record
offsets and the block's coordinates, and of the barrier and queue state are the device's own. `defs` gives a group's deferred
entries. (DESIGN CHOICE, log entry 26) -/
def Block.saveBytes (b : Block) (r : LaunchRec) (gs : List Group) (defs : GroupId → List Nat) : List Byte :=
  let xyz := match gs.head? with | some g => [g.bx.toNat, g.byy.toNat, g.bz.toNat] | none => []
  let bs := exactly 256 (Config.saveLayout 0 (recordStarts gs 256 ++ xyz)) ++ gs.flatMap (fun g => g.record (defs g.id))
    ++ (List.range b.slots).flatMap b.slotBytes ++ b.sc.flatMap ScaleReg.record
    ++ exactly r.acc ((List.range b.tiles).flatMap fun t => (b.tile t).flatMap fun w => leBytes 4 w.toNat)
    ++ exactly 512 (Config.saveLayout 2 (b.bars.toList.flatMap Barrier.words ++ b.queues.flatMap RemoteQueue.words))
  exactly ((bs.length + 15) / 16 * 16) bs

/-! ### What the area gives back (R346) -/

/-- A watchpoint of its 30 bytes. -/
def Watch.ofBytes (bs : List Byte) : Watch :=
  { lo := BitVec.ofNat 64 (numAt bs 0 8), hi := BitVec.ofNat 64 (numAt bs 8 8), table := BitVec.ofNat 16 (numAt bs 16 2),
    kind := (match numAt bs 18 1 with | 0 => .rd | 1 => .wr | 2 => .rw | _ => .key), en := numAt bs 19 1 == 1 }

/-- The cursor of a slot and lane, if its 32 bytes hold one. -/
def Cursor.ofBytes (slot : BitVec 2) (lane : Nat) (bs : List Byte) : Option Cursor :=
  let f := numAt bs 24 8
  if f % 2 = 1 then
    some { slot := slot, lane := lane, hi := BitVec.ofNat 64 (numAt bs 0 8), last := BitVec.ofNat 64 (numAt bs 8 8),
           table := BitVec.ofNat 16 (numAt bs 16 8), returned := f / 2 % 2 == 1, exhausted := f / 4 % 2 == 1 }
  else none

/-- The vector names of a group record whose map bits are `maps`. -/
def recordNames (kt maps : Nat) (bs : List Byte) : Vector (Option VReg) 32 :=
  Vector.ofFn fun i =>
    if maps.testBit i.val then
      let before := ((List.range i.val).filter fun k => maps.testBit k).length
      some ((List.range (kt + 1)).map fun j => lanesOfBytes (bs.drop (0x1540 + 128 * (before * (kt + 1) + j))))
    else none

/-- The one fragment of an unsplit group with what its record gives; those of a split group come from their entries. -/
def Frag.ofRecord (f : Frag) (bs : List Byte) : Frag :=
  { f with pc := BitVec.ofNat 52 (numAt bs 0 8), em := BitVec.ofNat 32 (numAt bs 8 4), fmt := BitVec.ofNat 64 (numAt bs 0x10 8),
           jr := BitVec.ofNat 52 (numAt bs 0x20 8) }

/-- A group with what its record gives (R346, R348). (DESIGN CHOICE, log entry 26) -/
def Group.ofRecord (g : Group) (bs : List Byte) : Group :=
  let w64 (o : Nat) : BitVec 64 := BitVec.ofNat 64 (numAt bs o 8)
  let tst := numAt bs 0x240 8
  let tx := numAt bs 0x39 1
  { g with
    frags := if g.split? then g.frags else g.frags.map fun f => f.ofRecord bs,
    deferredFree := BitVec.ofNat 32 (numAt bs 0xC 4), sp := w64 0x18, v := recordNames g.kt (numAt bs 0x28 4) bs,
    quota := numAt bs 0x2C 2, unmapped := numAt bs 0x30 4 % 2 == 1, role := numAt bs 0x34 1,
    wait := g.wait.map fun w => { w with gen := BitVec.ofNat 16 (numAt bs 0x36 2), code := numAt bs 0x38 1 },
    tx := g.tx.map fun t => { t with cause := tx % 8 }, txCause := if g.tx.isSome then g.txCause else tx % 8,
    cst := BitVec.ofNat 4 (numAt bs 0x80 4),
    s := Vector.ofFn fun i => w64 (0x100 + 8 * i.val), k := Vector.ofFn fun i => BitVec.ofNat 32 (numAt bs (0x200 + 4 * i.val) 4),
    tcause := w64 0x220, taddr := w64 0x228, tmask := BitVec.ofNat 32 (numAt bs 0x230 4),
    tem := BitVec.ofNat 32 (numAt bs 0x234 4), tepc := BitVec.ofNat 52 (numAt bs 0x238 8),
    tmode := tst % 2 == 1, supp := tst / 2 % 2 == 1, pend := tst / 4 % 2 == 1, waitr := tst / 8 % 2 == 1,
    w := Vector.ofFn fun i => Watch.ofBytes (bs.drop (0x248 + 30 * i.val)),
    sg := Vector.ofFn fun i =>
      { base := BitVec.ofNat 52 (numAt bs (0x2C0 + 16 * i.val) 8), limit := BitVec.ofNat 52 (numAt bs (0x2C8 + 16 * i.val) 8) },
    sh := Vector.ofFn fun i => BitVec.ofNat 512 (numAt bs (0x340 + 64 * i.val) 64),
    cursors := (List.range 4).flatMap fun c => (List.range 32).filterMap fun l =>
      Cursor.ofBytes (BitVec.ofNat 2 c) l (bs.drop (0x540 + 32 * (32 * c + l))) }

/-- The groups of a block with what their records give, the first at byte `o` of the area. -/
def groupsOfSave (bs : List Byte) : List Group → Nat → List Group
  | [], _ => []
  | g :: t, o => g.ofRecord (bs.drop o) :: groupsOfSave bs t (o + 5440 + 128 * g.held)

/-- A scale register of its record. -/
def ScaleReg.ofRecord (x : ScaleReg) (bs : List Byte) : ScaleReg :=
  { x with bytes := bs.take 128,
           tag := if numAt bs 140 4 = 1 then some (numAt bs 128 8, BitVec.ofNat 8 (numAt bs 136 4)) else none }

/-- A block with the slots, scale registers and tiles that its save area gives, which start at byte `o` (R348). -/
def Block.ofSave (b : Block) (r : LaunchRec) (bs : List Byte) (o : Nat) : Block :=
  let slot (i : Nat) : List Byte := bs.drop (o + 1040 * i)
  let o1 := o + 1040 * b.slots
  let o2 := o1 + 144 * b.sc.length
  let kept := (b.tiles * 16384 - r.acc) / 4
  let words := (List.range (b.tiles * 4096 - kept)).map fun i => BitVec.ofNat 32 (numAt bs (o2 + 4 * i) 4)
  let rest := ((List.range b.tiles).flatMap b.tile).drop words.length
  let tiles := words ++ rest
  let b := (List.range b.tiles).foldl (fun (b : Block) t =>
    b.setTile t ((tiles.drop (4096 * t)).take 4096) (b.tilePoison t)) b
  { b with
    scratch := (List.range b.slots).foldl (fun m i => writeBytes m (1024 * i) ((slot i).take 1024)) b.scratch,
    ver := (List.range b.slots).map fun i => BitVec.ofNat 8 (numAt (slot i) 1032 1),
    swz := (List.range b.slots).map fun i => numAt (slot i) 1033 7 == 1,
    sc := b.sc.zipIdx.map fun x => x.1.ofRecord (bs.drop (o1 + 144 * x.2)) }

end Sys2Proof.Machine
end

