-- ==== Sys2Proof/Machine/Sched.lean ====
section
/-! DEFINITION. The scheduler: dispatch, pre-emption, save and restore, split-table reload, run ends, the ends of groups
and blocks, and the barrier hang watchdog (R137, R146, R171, R172, R176 to R182, R344 to R349, R404). -/

namespace Sys2Proof.Machine

/-! ### Fit (R179) -/

/-- What a CU has free: slots, tiles, and by partition residency slots and physical registers. -/
structure CuRoom where
  slots : Nat
  tiles : Nat
  res : List (List Nat)
  regs : List Nat
  deriving DecidableEq, Repr

/-- What a block needs: slots, tiles, and each group's partition and quota. -/
structure BlockNeed where
  slots : Nat
  tiles : Nat
  groups : List (Nat × Nat)
  deriving DecidableEq, Repr

/-- The block holds resources of a CU. -/
def Block.onCu (b : Block) (cu : CuRef) : Bool := b.cu == some cu && !b.complete

/-- The group belongs to the block. -/
def Block.owns (b : Block) (g : Group) : Bool := b.l == g.id.l && b.idx == g.id.blk

/-- What a CU has free. An ended group's quota stays counted until its registers have returned (R16, R93). -/
def State.cuRoom (s : State) (cu : CuRef) : CuRoom :=
  let bs := s.blocks.filter fun (b : Block) => b.onCu cu
  let gs := bs.flatMap fun b => (s.groups.filter fun (g : Group) => b.owns g).map fun g => (g, b.returned.getLsbD g.id.g)
  let inPart (p : Nat) := gs.filter fun x => x.1.place.part.part.toNat == p
  { slots := 512 - (bs.map Block.slots).sum,
    tiles := 16 - (bs.map Block.tiles).sum,
    res := (List.range 4).map fun p => (List.range 16).filter fun i => !(inPart p).any fun x => x.1.place.slot.toNat == i,
    regs := (List.range 4).map fun p => 1024 - ((inPart p).map fun x => if x.2 then 0 else x.1.quota).sum }

/-- Residency slots for groups in turn, each the lowest free of its partition (R179). -/
def takeGroups : List (Nat × Nat) → CuRoom → Option (CuRoom × List Nat)
  | [], r => some (r, [])
  | (p, q) :: t, r =>
    match r.res.getD p [] with
    | [] => none
    | x :: rest =>
      if r.regs.getD p 0 < q then none
      else
        (takeGroups t { r with res := r.res.set p rest, regs := r.regs.set p (r.regs.getD p 0 - q) }).map
          fun y => (y.1, x :: y.2)

/-- The block fits: what is left, and the residency slots of its groups. -/
def CuRoom.take (r : CuRoom) (n : BlockNeed) : Option (CuRoom × List Nat) :=
  if r.slots < n.slots ∨ r.tiles < n.tiles then none
  else (takeGroups n.groups { r with slots := r.slots - n.slots, tiles := r.tiles - n.tiles })

/-- Rooms of CUs that a selection has already used. -/
abbrev Rooms := List (CuRef × CuRoom)

/-- Where one block of a selection goes. -/
abbrev Placed := CuRef × List Nat

/-- A block goes to the first of these CUs that fits it. -/
def State.placeBlock (s : State) (rooms : Rooms) (n : BlockNeed) : List CuRef → Option (Rooms × Placed)
  | [] => none
  | cu :: t =>
    let r := ((rooms.find? (·.1 == cu)).map Prod.snd).getD (s.cuRoom cu)
    match r.take n with
    | some (r', slots) => some ((cu, r') :: rooms.filter (·.1 != cu), (cu, slots))
    | none => State.placeBlock s rooms n t

/-- Blocks in turn among these CUs. -/
def State.placeBlocks (s : State) (cus : List CuRef) : Rooms → List BlockNeed → Option (Rooms × List Placed)
  | rooms, [] => some (rooms, [])
  | rooms, n :: t =>
    match s.placeBlock rooms n cus with
    | none => none
    | some (rooms, p) => (State.placeBlocks s cus rooms t).map fun x => (x.1, p :: x.2)

/-- The CUs of a cluster. -/
def clusterCus (die c : Nat) : List CuRef :=
  (List.range 8).map fun u => { die := BitVec.ofNat 2 die, cluster := BitVec.ofNat 3 c, cu := BitVec.ofNat 3 u }

/-- Protection of cluster n; an ordinary cluster if nothing is noted (R366). -/
def State.clusterProt (s : State) (n : Nat) : ClusterProt :=
  (s.clusters.find? (·.n == n)).getD { n := n, job := none, clearing := false, toJob := none }

/-- The responder is enabled: it keeps cluster 0 of die 0 for itself (R383). (DEDUCED, log entry 25) -/
def State.responderOn (s : State) : Bool := s.spdm.phase != 0

/-- A cluster takes blocks at all: it, the Sedge and the copy engines of its die are ready (R404). -/
def State.clusterReady (s : State) (die c : Nat) : Bool :=
  s.ready.getLsbD (40 + 5 * die + c) && s.ready.getLsbD (24 + die) && s.ready.getLsbD (36 + die)
    && !(s.responderOn && die == 0 && c == 0)

/-- A cluster takes blocks of a job (R366, R404). -/
def State.clusterOpen (s : State) (job : Option (BitVec 32)) (die c : Nat) : Bool :=
  let p := s.clusterProt (5 * die + c)
  s.clusterReady die c && !p.clearing && p.job == job

/-- The units of a die that a selection may go to as a whole: clusters, or single CUs. -/
def State.units (s : State) (job : Option (BitVec 32)) (clustered : Bool) (die : Nat) : List (List CuRef) :=
  let cs := ((List.range 5).filter fun c => s.clusterOpen job die c).map (clusterCus die)
  if clustered then cs else cs.flatMap fun c => c.map fun x => [x]

/-- The candidate of least load, the first of equal ones. -/
def leastLoad {α : Type} : List (Nat × α) → Option α
  | [] => none
  | (n, x) :: t =>
    match leastLoad t, t.map Prod.fst |>.min? with
    | some y, some m => if n ≤ m then some x else some y
    | _, _ => some x

/-- Die loads: blocks resident on each (R179). -/
def State.dieLoads (s : State) : List Nat :=
  (List.range 4).map fun d =>
    (s.blocks.filter fun (b : Block) => b.cu.isSome && !b.complete && b.die.toNat == d).length

/-- Place one block, or the blocks of one cluster launch, on the least-loaded of `dies` that fits them (R179). -/
def State.placeChunk (s : State) (job : Option (BitVec 32)) (clustered : Bool) (dies : List Nat) (rooms : Rooms)
    (load : List Nat) (ns : List BlockNeed) : Option (Rooms × List Nat × List Placed) :=
  let cands := dies.filterMap fun d =>
    ((s.units job clustered d).findSome? fun u => s.placeBlocks u rooms ns).map fun x =>
      (load.getD d 0, (x.1, load.set d (load.getD d 0 + ns.length), x.2))
  leastLoad cands

/-- Place the chunks of a selection in turn; the load of a die counts the blocks that the same selection has put there before.
(DESIGN CHOICE, log entry 68) -/
def State.placeChunks (s : State) (job : Option (BitVec 32)) (clustered : Bool) (dies : List Nat) :
    Rooms → List Nat → List (List BlockNeed) → Option (List Placed)
  | _, _, [] => some []
  | rooms, load, c :: t =>
    match s.placeChunk job clustered dies rooms load c with
    | none => none
    | some (rooms, load, ps) => (State.placeChunks s job clustered dies rooms load t).map fun x => ps ++ x

/-- A cluster must change its protection before the selection fits: the scheduler starts the clear of an empty one, any
(R366). (DEDUCED, log entry 25) -/
def State.convertCluster (s : State) (job : Option (BitVec 32)) (dies : List Nat) : State :=
  if s.clusters.any fun p => p.clearing && p.toJob == job then s
  else
    let free := (dies.flatMap fun d => (List.range 5).map fun c => (d, c)).filter fun x =>
      let p := s.clusterProt (5 * x.1 + x.2)
      s.clusterReady x.1 x.2 && !p.clearing && p.job != job &&
        !(s.blocks.any fun (b : Block) => !b.complete && match b.cu with
          | some cu => cu.die.toNat == x.1 && cu.cluster.toNat == x.2
          | none => false)
    match free[Config.freeChoice s.fresh 3 % free.length]? with
    | none => s
    | some x =>
      let n := 5 * x.1 + x.2
      let p := s.clusterProt n
      { s with clusters := (s.clusters.filter (·.n != n)) ++ [{ p with clearing := true, toJob := job }] }

/-! ### Selection (R177) -/

/-- The queue that the hardware selects: highest level, lowest PASS, lowest number. What R178 promises of shares follows from the
increments of R176, whose rounding down lets long runs drift. (DEDUCED, log entry 64) -/
def State.hwQueue (s : State) : Option Nat :=
  let xs := s.queues.toList.zipIdx.filter fun x => !x.1.order.isEmpty
  match (xs.map fun x => x.1.level.toNat).max? with
  | none => none
  | some lv =>
    let ys := xs.filter fun x => x.1.level.toNat == lv
    match (ys.map fun x => x.1.pass.toNat).min? with
    | none => none
    | some p => (ys.find? fun x => x.1.pass.toNat == p).map Prod.snd

/-- The request for a choice of queue. -/
def State.schedRequest (s : State) : Option HostReq := s.hostReqs.find? fun r => r.task == taskSched

/-- The host picks the queue: it has been asked to, or it would be now (R406 SCHED). -/
def State.hostPicks (s : State) : Bool := s.schedRequest.isSome || !s.modeSplit.getLsbD taskSched

/-- The queue of the next selection: the hardware's, or the one that the host has chosen (R177, R406 SCHED). -/
def State.chosen (s : State) : Option Nat :=
  if s.hostPicks then (s.schedRequest.filter fun r => r.answered == some true).bind fun r => r.args.head? else s.hwQueue

/-- The selected queue and its head launch. Nothing is dispatched in the fatal state or outside D0 (R405, R409). -/
def State.selected (s : State) : Option (Nat × Launch) :=
  if s.asleep then none
  else s.chosen.bind fun q => ((s.queue q).order.head?.bind s.launch?).map fun x => (q, x)

/-- PASS after a selection (R176, R177), modulo 2^48. (DEDUCED, log entry 25; DESIGN CHOICE, log entry 63) -/
def State.advancePass (s : State) (q : Nat) : State :=
  s.updQueue q fun x => { x with pass := x.pass + BitVec.ofNat 48 (2 ^ 24 / max 1 x.tickets.toNat) }

/-- A list cut into chunks of `n`. -/
def chunksOf {α : Type} (n : Nat) : Nat → List α → List (List α)
  | 0, _ => []
  | fuel + 1, xs => if xs.isEmpty then [] else xs.take n :: chunksOf n fuel (xs.drop n)

/-- The blocks of the next selection of a launch: one block, one cluster launch, or all of a launch with launch barriers
(R171, R177, R179). -/
def Launch.nextChunks (x : Launch) : List (List Nat) :=
  let total := x.lrec.blocks
  let size := max 1 x.lrec.clb
  let n := if x.lrec.usesLaunchBar then total - x.next else min size (total - x.next)
  chunksOf size n ((List.range n).map (· + x.next))

/-- What a new block of a launch needs. -/
def LaunchRec.need (r : LaunchRec) : BlockNeed :=
  { slots := r.slots, tiles := r.tiles, groups := (List.range r.ngrp).map fun i => (partitionOf i, r.regs) }

/-- Whom a launch's clusters are protected for. -/
def Launch.protJob (x : Launch) : Option (BitVec 32) := if x.prot then some x.lrec.jobId else none

/-- Where the next selection of a launch goes, if it fits. -/
def State.fitNext (s : State) (x : Launch) : Option (List Placed) :=
  s.placeChunks x.protJob (x.lrec.clb != 0) [0, 1, 2, 3] [] s.dieLoads
    (x.nextChunks.map fun c => c.map fun _ => x.lrec.need)

/-! ### Dispatch (R7, R154, R171, R177, R191, R196, R197) -/

/-- Blocks of the cluster launch that block `b` belongs to. -/
def LaunchRec.clusterBlocks (r : LaunchRec) (b : Nat) : Nat :=
  if r.clb = 0 then 1 else min r.clb (r.blocks - b / r.clb * r.clb)

/-- A group as its launch starts it (R7, R85, R168, R191). -/
def Launch.newGroup (x : Launch) (b g : Nat) (p : Place) (rot : Nat) : Group :=
  let r := x.lrec
  let gi := b * r.ngrp + g
  let seg (i : Nat) : Seg := x.seg.getD i { base := 0, limit := 0 }
  let s3 := seg 3
  { Group.start with
    id := { l := x.uid, blk := b, g := g }, job := r.jobId, launchId := r.launchId, priv := x.priv, prot := x.prot,
    kt := r.flags.toNat % 8, det := r.det, trapVec := r.trapVec.setWidth 52,
    bx := BitVec.ofNat 32 (b % r.gx.toNat), byy := BitVec.ofNat 32 (b / r.gx.toNat % r.gy.toNat),
    bz := BitVec.ofNat 32 (b / (r.gx.toNat * r.gy.toNat)), gx := r.gx, gy := r.gy, gz := r.gz, ngrp := r.ngrp,
    clb := r.clb, place := p,
    sg := Vector.ofFn fun i =>
      if i.val = 3 then { base := BitVec.ofNat 52 (s3.base.toNat + gi * s3.limit.toNat), limit := s3.limit }
      else seg i.val,
    role := r.roles.getD g 0, quota := r.regs,
    frags := [{ Frag.start with pc := r.kaddr.setWidth 52 + 4, em := r.em, fmt := r.fmt, entry := noEntry, rot := rot }] }

/-- The place of the launch's context area that block `b` gets (R347): its own, where there is one for each block; else the lowest that
no live block of it has, one with an unused determinism buffer before others. (DESIGN CHOICE, log entry 26) -/
def State.freeArea (s : State) (x : Launch) (b : Nat) : Nat :=
  if x.lrec.blocks ≤ x.lrec.areas then b
  else
    let bs := s.blocks.filter fun (y : Block) => y.l == x.uid
    let free := (List.range x.lrec.areas).filter fun a => !bs.any fun y => y.area == a && !y.complete
    ((free.find? fun a => !bs.any fun y => y.area == a).or free.head?).getD 0

/-- A block as its launch starts it. -/
def Launch.newBlock (x : Launch) (b : Nat) (cu : CuRef) (order area : Nat) : Block :=
  let r := x.lrec
  let nq := (x.seg.getD 5 { base := 0, limit := 0 }).limit.toNat
  { l := x.uid, idx := b, cu := some cu, die := cu.die, order := order, area := area, slots := r.slots, tiles := r.tiles,
    scratch := [], scratchPoison := [], ver := List.replicate r.slots 0, swz := List.replicate r.slots false,
    acc := [], accPoison := [], sc := List.replicate (r.slots / 8) { bytes := List.replicate 128 0, poison := [], tag := none },
    bars := Vector.ofFn fun i => Barrier.of (r.bbar.getD i.val 0),
    queues := (List.range nq).map fun q =>
      { entries := [], tail := 0,
        credits := (List.range (r.clusterBlocks b)).map fun i => (i, queueCapacity (x.qcfg.getD q 0) / r.clb) },
    detBuf := [], ngrp := r.ngrp, endedGroups := 0, returned := 0, stopping := false, stopped := false, saved := false,
    complete := false }

/-- The place of group g on a CU. -/
def placeOf (cu : CuRef) (g slot : Nat) : Place :=
  { part := { cu := cu, part := BitVec.ofNat 2 (partitionOf g) }, slot := BitVec.ofNat 4 slot }

/-- One block becomes resident: its groups join the rotation in ascending order (R182), their start is an acquire at .DEV
(R173). -/
def State.startBlock (s : State) (x : Launch) (b : Nat) (p : Placed) : State :=
  let gs := (List.range x.lrec.ngrp).map fun g =>
    { x.newGroup b g (placeOf p.1 g (p.2.getD g 0)) (s.nextRot + g) with seen := s.fresh }
  let s := (gs.map Group.id).foldl State.acquireL2 (s.discardL1 p.1)
  { s with
    blocks := s.blocks ++ [x.newBlock b p.1 s.nextOrder (s.freeArea x b)], nextOrder := s.nextOrder + 1,
    groups := s.groups ++ gs, nextRot := s.nextRot + x.lrec.ngrp }

/-- The cluster launches of these blocks start, with their barriers; a short one expects no more arrivals than it has
groups (R154, R171). -/
def State.startClusters (s : State) (x : Launch) (bs : List (Nat × Placed)) : State :=
  let r := x.lrec
  if r.clb = 0 then s
  else
    let firsts := bs.filter fun b => b.1 % r.clb == 0
    { s with clusterLaunches := s.clusterLaunches ++ firsts.map fun b =>
        let c := r.clusterBlocks b.1
        { l := x.uid, c := b.1 / r.clb, blocks := c, die := b.2.1.die, cluster := b.2.1.cluster,
          bars := Vector.ofFn fun i => Barrier.of (min (r.cbar.getD i.val 0) (c * r.ngrp)) } }

/-- Blocks of a launch are dispatched; with its first block the launch is running, and the replay log notes its dispatch (R174, R361,
R362). -/
def State.startBlocks (s : State) (x : Launch) (ps : List (Nat × Placed)) : State :=
  let s := if x.state = 1 then
      let s := s.logDispatch x
      let s := (s.updLaunch x.uid fun y => { y with state := 2 }).tellCounters x.lrec 2 0
      s.traceRecord (some x.lrec.jobId) 6 ((ps.head?.map fun p => p.2.1.die.toNat).getD 0)
        (leBytes 8 x.lrec.launchId.toNat ++ leBytes 8 (counterWord 2 0 x.done).toNat)
    else s
  let s := s.startClusters x ps
  let s := ps.foldl (fun (s : State) p => s.startBlock x p.1 p.2) s
  s.updLaunch x.uid fun y => { y with next := y.next + ps.length }

/-- Blocks of a launch that have been saved. (DESIGN CHOICE, log entry 26) -/
def State.savedBlocks (s : State) (l : Nat) : List Block := s.blocks.filter fun b => b.l == l && b.saved

/-- A launch none of whose blocks is left to dispatch or restore leaves its queue (R170). -/
def State.leaveQueue (s : State) (q l : Nat) : State :=
  match s.launch? l with
  | some x => if x.next = x.lrec.blocks ∧ (s.savedBlocks l).isEmpty then s.updQueue q fun y => y.drop l else s
  | none => s

/-- The host's choice of queue answers the device's request. -/
def State.answerQueue (s : State) (q : BitVec 8) : State :=
  { s with hostReqs := s.hostReqs.map fun r =>
      if r.task == taskSched && r.answered.isNone then { r with args := [q.toNat], answered := some true } else r }

/-- In host mode the device asks for a choice of queue once there is one to make, and a choice answers it (R406 SCHED). (DEDUCED, log
entry 25) -/
def State.askQueue (s : State) (choice : Option (BitVec 8)) : State :=
  if !s.hostPicks then s
  else
    let s := if s.hwQueue.isSome && !s.asleep && s.schedRequest.isNone then s.postRequest taskSched 0 [] else s
    match choice with
    | some q => s.answerQueue q
    | none => s

/-- The selection has been made: an answered choice of queue is used up (R406 SCHED). -/
def State.choiceUsed (s : State) : State :=
  { s with hostReqs := s.hostReqs.filter fun r => !(r.task == taskSched && r.answered.isSome) }

/-- DISPATCH_BLOCK (R177): the selected block, cluster launch, or launch with launch barriers, if it fits. A launch with launch
barriers, dispatched whole, is one selection, for which PASS advances once. With its first block the job's registers written
meanwhile take effect (R407), and a digest that differs from a followed log's refuses the launch (R363). (DEDUCED, log entry 25;
DEDUCED, log entry 24; DESIGN CHOICE, log entry 68) -/
def execDispatchBlock (choice : Option (BitVec 8)) (s : State) : Host.Outcome State Fault Refusal :=
  event s fun s =>
    let s := s.askQueue choice
    match s.selected with
    | none => s.choiceUsed
    | some (q, x) =>
      if !x.ready || !(s.savedBlocks x.uid).isEmpty || !s.placementAllowed x.lrec.jobId then s
      else
        match s.fitNext x with
        | none => s.convertCluster x.protJob [0, 1, 2, 3]
        | some ps =>
          let s := if x.state = 1 then s.applyJobRegs x.lrec.jobId else s
          let x := if x.state = 1 then { x with priv := ((s.job? x.lrec.jobId).map Job.priv).getD x.priv } else x
          let s := s.updLaunch x.uid fun y => { y with priv := x.priv }
          if x.state = 1 && (followed x.lrec.jobId x.lrec.launchId s.follow).any s.digestDiffers then
            (s.stopLaunch x.uid (5, 2)).choiceUsed
          else
          (((s.startBlocks x (x.nextChunks.flatten.zip ps)).advancePass q).leaveQueue q x.uid).choiceUsed

/-! ### Pre-emption and the save area (R180, R344 to R348) -/

/-- Blocks that are pre-empted, saved and restored together (R344): of a cluster launch, or of a launch with launch
barriers. -/
def State.unitOf (s : State) (x : Launch) (b : Nat) : List Block :=
  s.blocks.filter fun (y : Block) => y.l == x.uid && !y.complete &&
    (x.lrec.usesLaunchBar || (if x.lrec.clb = 0 then y.idx == b else y.idx / x.lrec.clb == b / x.lrec.clb))

/-- A group of a block is held by debug (R351). -/
def State.blockHeld (s : State) (b : Block) : Bool := s.groups.any fun (g : Group) => b.owns g && s.haltedGroup g.id

/-- Blocks of one unit stop at the boundary: they issue no more, and their transactions abort (R344, R345). -/
def State.stopUnit (s : State) (u : List Block) : State :=
  let mine (l b : Nat) : Bool := u.any fun y => y.l == l && y.idx == b
  ({ s with
    blocks := s.blocks.map fun (y : Block) => if mine y.l y.idx then { y with stopping := true } else y,
    groups := s.groups.map fun (g : Group) => if mine g.id.l g.id.blk then g.doom 3 else g } : State).traceHolds

/-- What a saved block needs: its groups' quotas as they are. -/
def State.savedNeed (s : State) (b : Block) : BlockNeed :=
  { slots := b.slots, tiles := b.tiles,
    groups := (List.range b.ngrp).map fun i =>
      (partitionOf i, match s.groups.find? fun (g : Group) => b.owns g && g.id.g == i with
        | some g => if b.returned.getLsbD i then 0 else g.quota
        | none => 0) }

/-- Where the head saved unit of a launch fits, each cluster launch or single block on its own die (R180, R344). (DEDUCED, log entry 25) -/
def State.fitSaved (s : State) (x : Launch) : Option (List (Block × Placed)) :=
  match ((s.savedBlocks x.uid).map Block.idx).min? with
  | none => none
  | some blk =>
    let unit := s.unitOf x blk
    let chunkOf (b : Block) : Nat := b.idx / max 1 x.lrec.clb
    let chunks := (unit.map chunkOf).eraseDups.map fun c => unit.filter fun b => chunkOf b == c
    let place (c : List Block) (rooms : Rooms) : Option (Rooms × List Nat × List Placed) :=
      let d := (c.head?.map fun b => b.die.toNat).getD 0
      s.placeChunk x.protJob (x.lrec.clb != 0) [d] rooms s.dieLoads (c.map s.savedNeed)
    (chunks.foldl (fun (acc : Option (Rooms × List (Block × Placed))) c => acc.bind fun a =>
      (place c a.1).map fun r => (r.1, a.2 ++ c.zip r.2.2)) (some ([], []))).map Prod.snd

/-- PREEMPTION (R180): the selected block, in host mode of the host's choice, does not fit and its queue is pre-emptive: of the resident blocks of lower
levels, the most recently dispatched of the lowest level stops. (DEDUCED, log entry 25) -/
def execPreemption (s : State) : Host.Outcome State Fault Refusal :=
  event s fun s =>
    match s.selected with
    | none => s
    | some (q, x) =>
      let mine := s.queue q
      let saved := s.savedBlocks x.uid
      let fits := if saved.isEmpty then (s.fitNext x).isSome else (s.fitSaved x).isSome
      let busy := s.blocks.any fun (b : Block) => b.stopping && !b.stopped && !b.saved
      if !mine.pq || !x.ready || fits || busy then s
      else
        let cands := s.blocks.filterMap fun (b : Block) =>
          match s.launch? b.l with
          | some y =>
            let lv := (s.queue y.queue).level.toNat
            if b.cu.isSome && !b.complete && !b.stopping && y.final.isNone && decide (lv < mine.level.toNat)
                && !((s.unitOf y b.idx).any s.blockHeld) then some (lv, b, y) else none
          | none => none
        match (cands.map Prod.fst).min? with
        | none => s
        | some lv =>
          let low := cands.filter fun c => c.1 == lv
          match (low.map fun c => c.2.1.order).max? with
          | none => s
          | some o =>
            match low.find? fun c => c.2.1.order == o with
            | some (_, b, y) => s.stopUnit (s.unitOf y b.idx)
            | none => s

/-- All entries of a group are written back to its backing area, lowest first (R137, R346). -/
def Group.writeBackAll (g : Group) : Group :=
  let es := (List.range 64).filter fun e => (g.tableEntries g.frags).contains e
  es.foldl (fun (g : Group) e => g.writeBack [] e) g

/-- The groups of a block in ascending group index, which is the order of their records in its save area (R348). (DESIGN CHOICE, log
entry 26) -/
def State.groupsOf (s : State) (b : Block) : List Group :=
  (List.range b.ngrp).filterMap fun i => s.groups.find? fun (g : Group) => b.owns g && g.id.g == i

/-- The save area's bytes of a block as it now stands. -/
def State.saveBytesOf (s : State) (x : Launch) (b : Block) : List Byte :=
  let defs (i : GroupId) : List Nat := (s.ops.filter fun (o : Op) => o.gid == i).flatMap Op.deferredWords
  b.saveBytes x.lrec (s.groupsOf b) defs

/-- A block is saved: its groups' entries to their backing areas, the rest to its save area (R137, R348). -/
def State.saveBlock (s : State) (x : Launch) (b : Block) : State :=
  let s : State := { s with groups := s.groups.map fun (g : Group) => if b.owns g then g.writeBackAll else g }
  let s := (s.groups.filter fun (g : Group) => b.owns g).foldl State.putEntries s
  let bs := s.saveBytesOf x b
  let s := s.areaWrite x.lrec.jobId (bs.length / 16) (x.lrec.saveAt b.area) bs
  { s with groups := s.groups.map fun (g : Group) => if b.owns g then { g with opCache := [] } else g }

/-- The save area is read back: where its bytes are still those that the save wrote, block and groups stand as they were saved,
else as the bytes give them (R346). (DESIGN CHOICE, log entry 26) -/
def State.readSave (s : State) (x : Launch) (b : Block) : State :=
  let old := s.saveBytesOf x b
  let bs := s.areaRead x.lrec.jobId (old.length / 16) (x.lrec.saveAt b.area) old
  if bs = old then s
  else
    let gs := s.groupsOf b
    let new := groupsOfSave bs gs 256
    let o := 256 + (gs.map fun g => 5440 + 128 * g.held).sum
    let s : State := { s with groups := s.groups.map fun (g : Group) => (new.find? fun y => y.id == g.id).getD g }
    s.updBlock b.l b.idx fun y => y.ofSave x.lrec bs o

/-- CONTEXT_SAVE (R345, R348): a block that stops for pre-emption is saved once every issued operation of its unit but
deferred entries has completed; it returns to the head of its launch's dispatch order. (DESIGN CHOICE, log entry 26) -/
def execContextSave (l blk : Nat) (s : State) : Host.Outcome State Fault Refusal :=
  event s fun s =>
    match s.launch? l, s.block? l blk with
    | some x, some b =>
      let unit := s.unitOf x blk
      let busy := s.ops.any fun (o : Op) => o.deferred.isNone && (o.hold || !o.plainStr)
        && unit.any fun y => o.gid.l == y.l && o.gid.blk == y.idx
      if !b.stopping || b.stopped || b.saved || b.complete || busy then s
      else
        let s := ((s.groupsOf b).map Group.id).foldl (fun (s : State) i => s.releaseL2 i false) s
        let s := (s.saveBlock x b).updBlock l blk fun y => { y with saved := true, stopping := false, cu := none }
        if (s.queue x.queue).order.contains l then s
        else (s.reenter x.queue).updQueue x.queue fun q => { q with order := l :: q.order }
    | _, _ => s

/-- Fragments join the rotation at the tail in the order given, from place `rot`. -/
def rotateFrags (fs : List Frag) (rot : Nat) : List Frag :=
  fs.map fun f => { f with rot := rot + (fs.filter fun x => decide (x.entry < f.entry)).length, run := 0 }

/-- A saved block is resident again (R346): PLACE may differ; its deferred entries wait on the new CU; its fragments join
the rotation in ascending group index and entry; its start is an acquire at .DEV (R345). (DESIGN CHOICE, log entry
26) -/
def State.restoreBlock (s : State) (x : Launch) (b : Block) (p : Placed) : State :=
  let s := ((s.groupsOf b).map Group.id).foldl State.acquireL2 ((s.readSave x b).discardL1 p.1)
  let s := s.updBlock b.l b.idx fun y =>
    { y with saved := false, stopping := false, cu := some p.1, order := s.nextOrder }
  let rot (i : Nat) : Nat := s.nextRot + 64 * i
  { s with
    nextOrder := s.nextOrder + 1, nextRot := s.nextRot + 64 * b.ngrp,
    groups := s.groups.map fun (g : Group) =>
      if b.owns g then { g with place := placeOf p.1 g.id.g (p.2.getD g.id.g 0), seen := s.fresh, frags := rotateFrags g.frags (rot g.id.g) }
      else g,
    ops := s.ops.map fun (o : Op) => if o.gid.l == b.l && o.gid.blk == b.idx then { o with cu := p.1 } else o }

/-- CONTEXT_RESTORE (R180, R346): the selected launch's saved blocks come back on the same die, a unit whole. (DESIGN
CHOICE, log entry 26) -/
def execContextRestore (l blk : Nat) (s : State) : Host.Outcome State Fault Refusal :=
  event s fun s =>
    match s.launch? l with
    | none => s
    | some x =>
      match s.selected with
      | none => s
      | some (q, y) =>
        let unit := s.unitOf x blk
        let first := ((s.savedBlocks l).map Block.idx).min?
        if y.uid ≠ l ∨ first ≠ some blk ∨ !(unit.all Block.saved) then s
        else
          match s.fitSaved x with
          | none => s.convertCluster x.protJob (unit.map fun b => b.die.toNat).eraseDups
          | some ps =>
            let s := (ps.foldl (fun (s : State) p => s.restoreBlock x p.1 p.2) s).traceHolds
            let moved (c : ClusterLaunch) : ClusterLaunch :=
              match ps.find? (fun p => c.l == l && x.lrec.clb != 0 && p.1.idx / x.lrec.clb == c.c) with
              | some p => { c with cluster := p.2.1.cluster }
              | none => c
            let s : State := { s with clusterLaunches := s.clusterLaunches.map moved }
            ((s.advancePass q).leaveQueue q l).choiceUsed

/-! ### Split-table reload and run ends (R137, R182) -/

/-- SPLIT_ENTRY_RELOAD (R137): an entry that was written back takes the lowest free table entry, as its backing area holds it;
others go if there is none. -/
def execSplitEntryReload (l blk grp entry : Nat) (s : State) : Host.Outcome State Fault Refusal :=
  event s fun s =>
    let i : GroupId := { l := l, blk := blk, g := grp }
    match s.groups.find? (·.id == i), s.block? l blk with
    | some g, some b =>
      let there := g.frags.any (fun f => f.entry == entry && f.written) || g.splits.any fun x => x.entry == entry && x.written
      match there && b.cu.isSome, g.frags.head? with
      | true, some f => ((s.focusOn i f.entry).reloadEntry entry).unfocus
      | _, _ => s
    | _, _ => s

/-- ISSUE_RUN_END (R182): the run of a fragment that is not ready ends. -/
def execIssueRunEnd (s : State) : Host.Outcome State Fault Refusal := event s State.endRuns

/-! ### The ends of groups and blocks (R93, R172) -/

/-- REGISTERS_RETURN (R93): an ended group's counted operations have completed. -/
def execRegistersReturn (l blk grp : Nat) (s : State) : Host.Outcome State Fault Refusal :=
  event s fun s =>
    match s.groups.find? (·.id == { l := l, blk := blk, g := grp }) with
    | some g =>
      if g.ended && g.ld + g.st + g.cp + g.mx == 0 then
        s.updBlock l blk fun b => { b with returned := b.returned ||| 1#32 <<< grp }
      else s
    | none => s

/-- Bits of the groups of a block. -/
def groupBits (n : Nat) : Mask := BitVec.ofNat 32 (2 ^ n - 1)

/-- BLOCK_COMPLETE (R172): all groups have ended and all their counted operations have completed. What a determinism
buffer holds stays until the launch's end. (DEDUCED, log entry 25) -/
def execBlockComplete (l blk : Nat) (s : State) : Host.Outcome State Fault Refusal :=
  event s fun s =>
    match s.block? l blk with
    | none => s
    | some b =>
      let all := groupBits b.ngrp
      let busy := s.ops.any fun (o : Op) => o.gid.l == l && o.gid.blk == blk && o.ctr.isSome
      if b.complete || b.saved || b.stopped || b.endedGroups &&& all != all || b.returned &&& all != all || busy then s
      else
        let s := s.updLaunch l fun x => { x with done := x.done + 1 }
        let s : State := { s with groups := s.groups.filter fun (g : Group) => !b.owns g }
        if b.detBuf.isEmpty then { s with blocks := s.blocks.filter fun (y : Block) => !(y.l == l && y.idx == blk) }
        else s.updBlock l blk fun y => { y with
          complete := true, stopping := false, cu := none, scratch := [], scratchPoison := [], acc := [], accPoison := [],
          sc := [], queues := [], bars := Vector.replicate 16 Barrier.none }

/-! ### Barrier hang (R349) -/

/-- The barrier hang of a group that waits after its arrival: the wait is recorded, and stands (R349). (DEDUCED, log
entry 27) -/
def State.hangWait (s : State) (g : Group) : State :=
  match g.wait with
  | none => s
  | some w =>
    let s := s.updGroup g.id fun x => { x with wait := none, waitr := true, waitRec := some w }
    s.raiseIn g.id w.addr { excBarrier w.code with code := 25 }

/-- The barrier hang of a fragment that is stalled on its BAR.WT, which its lanes name: reloading may give it another entry (R137). -/
def State.hangFrag (s : State) (code : Nat) (i : GroupId) (lanes : Mask) : State :=
  match (s.groups.find? (·.id == i)).bind fun g => g.frags.find? fun f => f.lanes == lanes && s.wtCode g f == some code with
  | some f => s.raiseFrag i f.entry f.pc { excBarrier code with code := 25 }
  | none => s

/-- BARRIER_HANG (R349): the barrier's timer, which runs while a group is stalled on it, none of its members is held by debug
and its blocks are resident, reaches the job's limit. (DEDUCED, log entry 27; DESIGN CHOICE, log entry 53) -/
def execBarrierHang (bar : BarRef) (s : State) : Host.Outcome State Fault Refusal :=
  event s fun s =>
    let members := s.groups.filter fun (g : Group) => BarRef.covers bar g && !g.ended
    let away := members.any fun g => match s.block? g.id.l g.id.blk with | some b => !b.runs | none => true
    if away || members.any fun g => s.haltedGroup g.id then s
    else
      let code := BarRef.code bar
      let waits := members.filter fun g => g.waitsOn bar
      let wts := members.flatMap fun g => (g.frags.filter fun f => s.wtCode g f == some code).map fun f => (g.id, f.lanes)
      let s := waits.foldl (fun (s : State) g => s.hangWait g) s
      wts.foldl (fun (s : State) x => s.hangFrag code x.1 x.2) s

end Sys2Proof.Machine
end

