-- ==== Sys2Proof/Machine/Trust.lean ====
section
/-! DEFINITION. Trust: measurements, the access log, key slots, link key sets, seals, the clear sequence, TDIs and the SPDM
responder (22_trust_and_confidential_computing.md). -/

namespace Sys2Proof.Machine

/-! ### Measurement registers (R385) -/

/-- The bytes of a digest. (PRESUMED, log entry 7) -/
def digestBytes (d : BitVec 256) : List Byte := leBytes 32 d.toNat

/-- Measurement register i, 1 to 6. -/
def State.measurement (s : State) (i : Nat) : BitVec 256 := s.meas.toList.getD (i - 1) 0

/-- Register i is extended with a digest (R385). (DEDUCED, log entry 50) -/
def State.extendMeas (s : State) (i : Nat) (d : BitVec 256) : State :=
  if h : i - 1 < 6 then
    { s with meas := s.meas.set (i - 1) (Config.sha256 (digestBytes s.meas[i - 1] ++ digestBytes d)) h }
  else s

/-- Register i is extended by the device, or the host is asked for the digest (R406 MEAS). -/
def State.measure (s : State) (i : Nat) (d : BitVec 256) : State :=
  if s.modeSplit.getLsbD taskMeas then s.extendMeas i d else s.postRequest taskMeas 0 [i]

/-! ### The access log (R376 to R378) -/

/-- Bytes that records not yet acknowledged take in the ring. -/
def AccessLog.used (a : AccessLog) : Nat := (a.ring.map fun r => r.2.length).sum

/-- Bytes of a checkpoint: its record and its signature. (DEDUCED, log entry 47) -/
def checkpointBytes : Nat := 64 + 3604

/-- The ring has room for one record, with the checkpoint that it brings, and `more` bytes. (DEDUCED, log entry 47) -/
def State.logRoom (s : State) (more : Nat) : Bool :=
  decide (s.log.used + 64 + (if (s.log.seq.toNat + 1) % 256 = 0 then checkpointBytes else 0) + more ≤ logRingBytes)

/-- H_0 (R377). (DEDUCED, log entry 47) -/
def State.logStart (s : State) : BitVec 256 :=
  Config.sha256 (leBytes 8 s.log.boot.toNat ++ (List.range 4).flatMap fun i => digestBytes (s.measurement (i + 1)))

/-- Bytes are written into the ring on its device pages, from its start again at its end (R376). (DEDUCED, log entry 47) -/
def State.ringWrite (s : State) (bs : List Byte) : State :=
  let n := min bs.length (logRingBytes - s.log.next)
  let m := writeBytes (writeBytes s.mem (Config.accessRingAt + s.log.next) (bs.take n)) Config.accessRingAt (bs.drop n)
  { s with mem := m, log := { s.log with next := (s.log.next + bs.length) % logRingBytes } }

/-- A record enters the ring, with what follows it there, and the chain (R376, R377). (DEDUCED, log entry 47) -/
def State.putRecord (s : State) (type : Nat) (job : BitVec 32) (args sig : List Byte) : State :=
  let a := s.log
  let r := leBytes 8 a.seq.toNat ++ leBytes 8 (s.time.toNat / 2) ++ leBytes 2 type ++ leBytes 2 0 ++ leBytes 4 job.toNat
    ++ exactly 40 args
  let chain := if a.seq = 0 then s.logStart else Config.sha256 (digestBytes a.chain ++ r)
  ({ s with log := { a with seq := a.seq + 1, chain := chain, ring := a.ring ++ [(a.seq.toNat, r ++ sig)] } } : State).ringWrite
    (r ++ sig)

/-- A checkpoint (R377): the sequence number and H_n, signed; the leaf index is advanced first. (DEDUCED, log entry
47) -/
def State.checkpoint (s : State) : State :=
  let n := leBytes 8 (s.log.seq.toNat - 1) ++ digestBytes s.log.chain
  let s : State := { s with log := { s.log with leaf := s.log.leaf + 1 } }
  s.putRecord 11 0 n (exactly 3604 (Config.hssSign (s.log.leaf - 1) (leBytes 3 s.devId.toNat ++ n)))

/-- A record is appended; after every 256 records comes a checkpoint (R377). (DEDUCED, log entry 47) -/
def State.appendLog (s : State) (type : Nat) (job : BitVec 32) (args : List Byte) : State :=
  let s := s.putRecord type job args []
  if s.log.seq.toNat % 256 = 0 then s.checkpoint else s

/-- An action that is logged may take place: no other waits before it, and the ring has room (R378). (DEDUCED, log entry 47) -/
def State.mayLog (s : State) (more : Nat) : Bool := s.log.held.isEmpty && s.log.waiting.isEmpty && s.logRoom more

/-- An action waits until there is room for its record (R378). -/
def State.holdAction (s : State) (i : LogAction) : State := { s with log := { s.log with held := s.log.held ++ [i] } }

/-- An action `i` that is logged takes place now, or when the ring has room (R378). (DEDUCED, log entry 47) -/
def State.logged (s : State) (i : LogAction) (more type : Nat) (job : BitVec 32) (args : List Byte) (f : State → State) : State :=
  if s.mayLog more then (f s).appendLog type job args else s.holdAction i

/-- Records that wait enter the ring in turn as it has room; type 11 stands for a checkpoint (R378). (DEDUCED, log
entry 47) -/
def State.flushLog (s : State) : List (Nat × BitVec 32 × List Byte) → State
  | [] => { s with log := { s.log with waiting := [] } }
  | (type, job, args) :: t =>
    if s.logRoom checkpointBytes then
      State.flushLog (if type = 11 then s.checkpoint else s.appendLog type job args) t
    else { s with log := { s.log with waiting := (type, job, args) :: t } }

/-- What has happened is logged, now or when there is room (R378, R382). (DEDUCED, log entry 47) -/
def State.logLater (s : State) (type : Nat) (job : BitVec 32) (args : List Byte) : State :=
  s.flushLog (s.log.waiting ++ [(type, job, args)])

/-- An egress refusal is logged: with others in one record while the ring lacks room (R375, R378). -/
def State.logRefusal (s : State) (job : BitVec 32) : State :=
  if s.log.refusals = 0 && s.log.waiting.isEmpty && s.logRoom 0 then s.appendLog 5 job (leBytes 8 1)
  else { s with log := { s.log with refusals := s.log.refusals + 1 } }

/-! ### Key slots (R369, R370) -/

/-- The key of a slot, if it holds one. -/
def State.keySlot? (s : State) (n : BitVec 10) : Option KeySlot := s.kslots.find? fun k => k.n == n && k.live

/-- A slot loses its key at one instant: key sets and seals that it stood for are gone (R370). (DEDUCED, log entry
48) -/
def State.zeroise (s : State) (n : BitVec 10) : State :=
  let drop (x : Option (BitVec 10)) : Option (BitVec 10) := if x = some n then none else x
  { s with
    kslots := s.kslots.filter fun k => k.n != n,
    streams := s.streams.map fun x => { x with set0 := drop x.set0, set1 := drop x.set1 },
    jobs := s.jobs.map fun j => match j.sealed with
      | some x =>
        let left := x.slots.filter (· != n)
        { j with sealed := if left.isEmpty then none else some { x with slots := left } }
      | none => j }

/-- Slots zeroised and logged. -/
def State.zeroiseAll (s : State) (ks : List KeySlot) : State :=
  ks.foldl (fun (s : State) k => (s.zeroise k.n).logLater 2 k.job (leBytes 8 k.n.toNat)) s

/-- KEY_SLOT_LOAD (R369): into an empty slot. (DEDUCED, log entry 48) -/
def State.keyLoad (slot : BitVec 10) (job : BitVec 32) (twbase : BitVec 52) (key : BitVec 512) (s : State) : State :=
  if (s.keySlot? slot).isSome then s
  else s.logged (.keyLoad slot job twbase key) 0 1 job (leBytes 8 slot.toNat) fun s =>
    { s with kslots := s.kslots ++ [{ n := slot, twbase := twbase, job := job, kind := 1, live := true, key := key }] }

/-- KEY_SLOT_LOAD (R369). -/
def execKeySlotLoad (slot : BitVec 10) (job : BitVec 32) (twbase : BitVec 52) (key : BitVec 512) (s : State) :
    Host.Outcome State Fault Refusal :=
  event s (State.keyLoad slot job twbase key)

/-- The index of the set that a stream does not use. -/
def Stream.oldKey (x : Stream) : Option (BitVec 10) := if x.cur then x.set0 else x.set1
/-- A read or an atomic of another device: what it brings back is encrypted under its own key index (R372). -/
def Flit.nonPosted (f : Flit) : Bool := f.type == 2 || f.type == 4

/-- Non-posted requests are in flight under the index that is not current (R372), whose answers come by the host link, or by the port's
inward stream. (DEDUCED, log entry 49) -/
def State.oldInFlight (s : State) (x : Stream) : Bool :=
  match x.ref with
  | .ide _ => x.flight.any fun f => f.2 != x.cur && s.ops.any fun o => o.id == f.1 && o.kind.readsHost
  | .tether port _ => s.ports[port.toFin].inFlight.any fun f => f.nonPosted && f.key != x.cur

/-- KEY_SLOT_ZEROISE (R370); an old key set that requests in flight still need stays (R372). (DEDUCED, log entry 48) -/
def State.keyZeroise (slot : BitVec 10) (s : State) : State :=
  match s.keySlot? slot with
  | none => s
  | some k =>
    if s.streams.any fun x => x.oldKey == some slot && s.oldInFlight x then s
    else s.logged (.keyZeroise slot) 0 2 k.job (leBytes 8 slot.toNat) fun s => s.zeroise slot

/-- KEY_SLOT_ZEROISE (R370). -/
def execKeySlotZeroise (slot : BitVec 10) (s : State) : Host.Outcome State Fault Refusal :=
  event s (State.keyZeroise slot)

/-- The label of a seal key's derivation, "FJA seal" (R373). -/
def sealLabel : List Byte := [0x46, 0x4A, 0x41, 0x20, 0x73, 0x65, 0x61, 0x6C]

/-- SEAL_KEY_DERIVE (R373): the job becomes sealed, or holds one more seal key; at most 16 jobs are sealed at once. (DEDUCED, log entry 48) -/
def State.sealDerive (slot : BitVec 10) (job : BitVec 32) (region : BitVec 64) (base : BitVec 52) (policy : BitVec 256) (s : State) : State :=
  match s.job? job with
  | none => s
  | some j =>
    let others := (s.jobs.filter fun x => x.id != job && x.sealed.isSome).length
    if (s.keySlot? slot).isSome ∨ 16 ≤ others then s
    else s.logged (.sealDerive slot job region base policy) 0 3 job (leBytes 8 slot.toNat ++ leBytes 8 region.toNat) fun s =>
      let key := Config.deriveSealKey (sealLabel ++ leBytes 8 region.toNat ++ digestBytes policy)
      let x : Seal := match j.sealed with
        | some x => { x with slots := x.slots ++ [slot] }
        | none => { slots := [slot], tokens := 0, burst := 0, rate := 0, lo := 0, hi := 0 }
      { s with
        kslots := s.kslots ++ [{ n := slot, twbase := base, job := job, kind := 3, live := true, key := key }],
        jobs := s.jobs.map fun y => if y.id == job then { y with sealed := some x } else y }

/-- SEAL_KEY_DERIVE (R373). -/
def execSealKeyDerive (slot : BitVec 10) (job : BitVec 32) (region : BitVec 64) (base : BitVec 52) (policy : BitVec 256)
    (s : State) : Host.Outcome State Fault Refusal :=
  event s (State.sealDerive slot job region base policy)

/-- WEIGHT_REGION_SET (R374, R385). -/
def State.regionSet (job : BitVec 32) (lo hi : BitVec 52) (policy : BitVec 256) (s : State) : State :=
  match (s.job? job).bind Job.sealed with
  | none => s
  | some x => s.logged (.regionSet job lo hi policy) 0 4 job (leBytes 8 lo.toNat ++ leBytes 8 hi.toNat) fun s =>
      let jobs := s.jobs.map fun j => if j.id == job then { j with sealed := some { x with lo := lo, hi := hi } } else j
      ({ s with jobs := jobs } : State).measure 6 policy

/-- WEIGHT_REGION_SET (R374). -/
def execWeightRegionSet (job : BitVec 32) (lo hi : BitVec 52) (policy : BitVec 256) (s : State) :
    Host.Outcome State Fault Refusal :=
  event s (State.regionSet job lo hi policy)

/-! ### Link key sets (R371, R372) -/

/-- A stream as it stands, or one without keys. -/
def State.stream (s : State) (r : StreamRef) (job : BitVec 32) : Stream :=
  (s.streams.find? fun x => x.ref == r).getD
    { ref := r, set0 := none, set1 := none, cur := false, flight := [], insecure := false, job := job }

/-- Replace a stream. -/
def State.putStream (s : State) (x : Stream) : State :=
  { s with streams := s.streams.filter (fun y => y.ref != x.ref) ++ [x] }

/-- The set of a stream that a link key goes to: the inactive one, or the current one if it has none yet (R372). -/
def Stream.into (x : Stream) : Bool := if (if x.cur then x.set1 else x.set0).isNone then x.cur else !x.cur

/-- A link key may be loaded: slot and set are empty (R370, R372). -/
def State.keyFits (s : State) (r : StreamRef) (slot : BitVec 10) (job : BitVec 32) : Bool :=
  let x := s.stream r job
  !((s.keySlot? slot).isSome || (if x.into then x.set1 else x.set0).isSome)

/-- A link key for a stream by action `i` (R372). -/
def State.loadLinkKey (s : State) (i : LogAction) (r : StreamRef) (slot : BitVec 10) (job : BitVec 32) (key : BitVec 256) : State :=
  let x := s.stream r job
  let into := x.into
  if !s.keyFits r slot job then s
  else s.logged i 0 1 job (leBytes 8 slot.toNat) fun s =>
    let x := { x with job := job, set0 := if into then x.set0 else some slot, set1 := if into then some slot else x.set1 }
    { s.putStream x with kslots := s.kslots ++
      [{ n := slot, twbase := 0, job := job, kind := 2, live := true, key := key.setWidth 512 }] }

/-- A secured session is established. -/
def State.secured (s : State) : Bool := s.spdm.sessions.any fun x => x.2.1

/-- LINK_KEY_LOAD (R371, R372): an IDE stream's keys arrive inside a secured session only. -/
def State.linkLoad (stream : StreamRef) (slot : BitVec 10) (job : BitVec 32) (key : BitVec 256) (s : State) : State :=
  let i := LogAction.linkLoad stream slot job key
  match stream with
  | .ide _ => if s.secured then s.loadLinkKey i stream slot job key else s
  | .tether .. => s.loadLinkKey i stream slot job key

/-- LINK_KEY_LOAD (R371, R372). -/
def execLinkKeyLoad (stream : StreamRef) (slot : BitVec 10) (job : BitVec 32) (key : BitVec 256) (s : State) :
    Host.Outcome State Fault Refusal :=
  event s (State.linkLoad stream slot job key)

/-- KEY_INDEX_FLIP (R372): later requests carry the new index. (DEDUCED, log entry 49) -/
def execKeyIndexFlip (stream : StreamRef) (s : State) : Host.Outcome State Fault Refusal :=
  event s fun s =>
    match s.streams.find? fun x => x.ref == stream with
    | none => s
    | some x => if x.oldKey.isSome then s.putStream { x with cur := !x.cur } else s

/-- KEY_SET_RETIRE (R372): the old set is zeroised once every non-posted request issued under it has completed.
(DEDUCED, log entry 49) -/
def State.setRetire (stream : StreamRef) (s : State) : State :=
  match s.streams.find? fun x => x.ref == stream with
  | none => s
  | some x =>
    match x.oldKey with
    | none => s
    | some slot =>
      if s.oldInFlight x then s else s.logged (.setRetire stream) 0 2 x.job (leBytes 8 slot.toNat) fun s => s.zeroise slot

/-- KEY_SET_RETIRE (R372). -/
def execKeySetRetire (stream : StreamRef) (s : State) : Host.Outcome State Fault Refusal :=
  event s (State.setRetire stream)

/-! ### The clear sequence (R366, R367) -/

/-- The clear starts on these clusters, which will then be for `toJob`. -/
def State.startClear (s : State) (f : ClusterProt → Bool) (toJob : ClusterProt → Option (BitVec 32)) : State :=
  { s with clusters := s.clusters.map fun p => if f p then { p with clearing := true, toJob := toJob p } else p }

/-- A CU lies in cluster n. -/
def inCluster (n : Nat) (c : CuRef) : Bool := 5 * c.die.toNat + c.cluster.toNat == n

/-- A block whose storage is scrubbed. -/
def Block.scrub (b : Block) : Block :=
  { b with
    scratch := [], scratchPoison := [], ver := b.ver.map (· + 1), swz := b.swz.map fun _ => false, acc := [], accPoison := [],
    sc := b.sc.map fun _ => { bytes := List.replicate 128 0, poison := [], tag := none }, bars := Vector.replicate 16 Barrier.none,
    queues := b.queues.map fun _ => { entries := [], tail := 0, credits := [] } }

/-- A group whose registers are scrubbed. -/
def Group.scrub (g : Group) : Group :=
  { g with
    v := Vector.replicate 32 none, s := Vector.replicate 32 0, k := Vector.replicate 8 0, sp := 0, sh := Vector.replicate 8 0,
    opCache := [], tcause := 0, taddr := 0, tmask := 0, tepc := 0, tepcWritten := false, tem := 0, tmode := false, supp := false,
    pend := false, waitr := false, handler := none, waitRec := none, w := Vector.replicate 4 Watch.off, cursors := [],
    deferredFree := 0, reserved := [], lat := [], pending := [], done := [] }

/-- Once the clusters of a TDI's job have all been cleared, one that stops is unlocked (R379), and an entry to ERROR is logged (R382).
(DEDUCED, log entry 46) -/
def State.settleStops (s : State) : State :=
  let clear (t : Tdi) : Bool := !(s.clusters.any fun p => p.clearing && p.job == some t.job)
  let gone := s.tdis.filter fun t => (t.stopping || t.failing) && clear t
  let settle (t : Tdi) : Tdi :=
    if clear t then { t with st := if t.stopping then .unlocked else t.st, stopping := false, failing := false } else t
  let s : State := { s with tdis := s.tdis.map settle }
  gone.foldl (fun (s : State) t => s.logLater 6 t.job (leBytes 8 (if t.stopping then 0 else 3))) s

/-- CLEAR_SEQUENCE (R366, R367): every CU of the cluster is scrubbed; then the cluster is for whom it was meant, once the blocks of
another have left it. (DEDUCED, log entry 46) -/
def execClearSequence (cluster : Nat) (s : State) : Host.Outcome State Fault Refusal :=
  event s fun s =>
    match s.clusters.find? fun p => p.n == cluster with
    | none => s
    | some p =>
      if !p.clearing then s
      else
        let at_ (b : Block) : Bool := match b.cu with | some c => inCluster cluster c && !b.complete | none => false
        let mine (l blk : Nat) : Bool := s.blocks.any fun (b : Block) => b.l == l && b.idx == blk && at_ b
        if p.toJob ≠ p.job ∧ s.blocks.any at_ then s
        else
        let die : BitVec 2 := BitVec.ofNat 2 (cluster / 5)
        let blocks := s.blocks.map fun (b : Block) => if at_ b then b.scrub else b
        let groups := s.groups.map fun (g : Group) => if mine g.id.l g.id.blk then g.scrub else g
        let cls := s.clusterLaunches.map fun (c : ClusterLaunch) =>
          if inCluster cluster { die := c.die, cluster := c.cluster, cu := 0 } then { c with bars := Vector.replicate 8 Barrier.none }
          else c
        ({ s with
          blocks := blocks, groups := groups, clusterLaunches := cls,
          ops := s.ops.filter fun (o : Op) => !(o.deferred.isSome && mine o.gid.l o.gid.blk),
          l1 := s.l1.filter fun x => !inCluster cluster x.cu,
          tlb := s.tlb.filter fun t => !(t.die == die && (match t.cu with | some c => c.toNat / 8 == cluster % 5 | none => false)),
          dbg := s.dbg.map fun d => if inCluster cluster d.part.cu then { d with pendings := [] } else d,
          clusters := s.clusters.map fun q => if q.n == cluster then { q with job := q.toJob, clearing := false } else q } :
          State).settleStops

/-! ### TDIs (R379 to R382) -/

/-- Change a TDI. -/
def State.updTdi (s : State) (n : BitVec 4) (f : Tdi → Tdi) : State :=
  { s with tdis := s.tdis.map fun t => if t.n == n then f t else t }

/-- The host interface is locked: a TDI is in CONFIG_LOCKED or RUN (R352, R406). -/
def Tdi.locks (t : Tdi) : Bool := t.st == .locked || t.st == .run

/-- Live launches of a job stop and will record `final`. (DEDUCED, log entry 46) -/
def State.stopJob (s : State) (job : BitVec 32) (final : Nat × Nat) : State :=
  let ls := (s.launches.filter fun x => x.lrec.jobId == job && decide (x.state < 3)).map Launch.uid
  ls.foldl (fun (s : State) l => (s.stopLaunch l final).updLaunch l fun x => { x with final := some final }) s

/-- The job's engine work that has not been performed is abandoned: copy and drain parts, queries with their pins, sends
(R382). -/
def State.abandon (s : State) (job : BitVec 32) : State :=
  let gone := s.ops.filter fun (o : Op) => o.job == job && o.kind.async
  let pins := gone.flatMap fun o => o.resolved.filterMap fun r =>
    r.block.bind fun b => if o.parts.contains r.lb then none else some b.2
  let s := pins.foldl (fun (s : State) pa => s.unpin pa) s
  let keep (f : Flit) : Bool := !(gone.any fun o => some o.id == f.op)
  { s with
    ops := s.ops.filter fun (o : Op) => !(o.job == job && o.kind.async),
    flits := s.flits.filter keep,
    ports := s.ports.map fun p =>
      { p with unacked := p.unacked.filter keep, inFlight := p.inFlight.filter keep, busy := p.busy.filter keep } }

/-- Entry to ERROR (R382); what the counters record, and the log record, follow when the job's clusters have been cleared. (DEDUCED, log
entry 46) -/
def State.enterError (s : State) (n : BitVec 4) : State :=
  match s.tdis.find? fun t => t.n == n with
  | none => s
  | some t =>
    if t.st = .error then s
    else
      let s := s.updTdi n fun t => { t with st := .error, stopping := false, failing := true }
      let s := (s.stopJob t.job (5, 3)).abandon t.job
      let s := s.zeroiseAll (s.kslots.filter fun k => k.job == t.job)
      (s.startClear (fun p => p.job == some t.job) fun p => if p.clearing then p.toJob else p.job).settleStops

/-- A write to a register that TDISP locks: discarded while a TDI is locked, which moves it to ERROR (R380).
(DEDUCED, log entry 46) -/
def State.rwl (s : State) (f : State → State) : State :=
  let ts := s.tdis.filter Tdi.locks
  if ts.isEmpty then f s else ts.foldl (fun (s : State) t => s.enterError t.n) s

/-- All partitions of the device, ascending. -/
def allPartitions : List Partition :=
  (List.range 4).flatMap fun d => (List.range 5).flatMap fun c => (List.range 8).flatMap fun u => (List.range 4).map fun p =>
    { cu := { die := BitVec.ofNat 2 d, cluster := BitVec.ofNat 3 c, cu := BitVec.ofNat 3 u }, part := BitVec.ofNat 2 p }

/-- The digest of the RWL registers (R380): the debug registers of every partition, LNKCFG of every port, MODESPLIT, in the order of
their rules, since no address is given. (DEDUCED, log entry 46) -/
def State.rwlDigest (s : State) : BitVec 256 :=
  Config.sha256 ((allPartitions.flatMap fun p => leBytes 8 (s.debugPart p).ctl ++ leBytes 8 (s.debugPart p).stat)
    ++ (s.ports.toList.flatMap fun p => leBytes 8 (p.tier.toNat * 2 ^ 16 + if p.en then 1 else 0))
    ++ leBytes 8 s.modeSplit.toNat)

/-- Bytes leave the responder. (DEDUCED, log entry 52) -/
def State.say (s : State) (bs : List Byte) : State := { s with out := s.out ++ [.spdm bs] }

/-- ERROR with a code changes neither state nor transcript (R384). (PRESUMED, log entry 8) -/
def State.spdmError (s : State) (code : Nat) : State := s.say [0x13, 0x7F, BitVec.ofNat 8 code, 0]

/-- A TDISP request for a TDI came inside an established session: it is answered, and both enter that session's transcript (R384); the
row carries neither the message nor which session. (PRESUMED, log entry 8) -/
def State.tdispAnswer (s : State) (kind : Nat) (tdi : BitVec 4) : State :=
  let mine := s.spdm.sessions.filter fun x => x.2.1
  let who := (mine[Config.freeChoice s.fresh 5 % mine.length]?).map Prod.fst
  let q := Config.spdmReply 0xFE [] [BitVec.ofNat 8 kind, tdi.setWidth 8]
  let r := Config.spdmReply 0xFE q []
  let open_ := s.spdm.sessions.map fun y => if who == some y.1 then (y.1, y.2.1, y.2.2 ++ q ++ r) else y
  ({ s with spdm := { s.spdm with sessions := open_ } } : State).say r

/-- A TDISP request: outside a session ERROR UnexpectedRequest; else answered, whatever it comes to (R379, R384). -/
def State.tdisp (s : State) (kind : Nat) (tdi : BitVec 4) (ok : Tdi → Bool) (act : Option (LogAction × Nat)) (k : State → Tdi → State) :
    State :=
  if !s.secured then s.spdmError 0x04
  else
    match s.tdis.find? fun t => t.n == tdi with
    | none => s.tdispAnswer kind tdi
    | some t =>
      if !ok t then s.tdispAnswer kind tdi
      else match act with
        | some (i, st) => s.logged i 0 6 t.job (leBytes 8 st) fun s => (k s t).tdispAnswer kind tdi
        | none => (k s t).tdispAnswer kind tdi

/-- LOCK_INTERFACE_REQUEST (R379, R380). (DEDUCED, log entry 46) -/
def State.lockTdi (tdi : BitVec 4) (s : State) : State :=
  s.tdisp 0 tdi (fun t => t.st == .unlocked) (some (.lock tdi, 1)) fun s _ =>
    s.updTdi tdi fun t => { t with st := .locked, digest := s.rwlDigest }

/-- LOCK_INTERFACE_REQUEST (R379, R380). -/
def execLockInterfaceRequest (tdi : BitVec 4) (s : State) : Host.Outcome State Fault Refusal :=
  event s (State.lockTdi tdi)

/-- START_INTERFACE_REQUEST (R379). -/
def State.startTdi (tdi : BitVec 4) (s : State) : State :=
  s.tdisp 1 tdi (fun t => t.st == .locked && !t.stopping) (some (.start tdi, 2)) fun s _ =>
    s.updTdi tdi fun t => { t with st := .run }

/-- START_INTERFACE_REQUEST (R379). -/
def execStartInterfaceRequest (tdi : BitVec 4) (s : State) : Host.Outcome State Fault Refusal :=
  event s (State.startTdi tdi)

/-- STOP_INTERFACE_REQUEST (R379): the TDI is unlocked after the clear of the job's clusters. (DEDUCED, log entry 46) -/
def execStopInterfaceRequest (tdi : BitVec 4) (s : State) : Host.Outcome State Fault Refusal :=
  event s fun s =>
    s.tdisp 2 tdi (fun t => t.st != .unlocked) none fun s t =>
      let s := (s.stopJob t.job (4, 0)).updTdi tdi fun t => { t with stopping := true, failing := false }
      (s.startClear (fun p => p.job == some t.job) fun _ => none).settleStops

/-- RWL_DIGEST_WALK (R380): a digest that differs moves the TDI to ERROR. -/
def execRwlDigestWalk (tdi : BitVec 4) (s : State) : Host.Outcome State Fault Refusal :=
  event s fun s =>
    match s.tdis.find? fun t => t.n == tdi with
    | none => s
    | some t => if t.locks && t.digest != s.rwlDigest then s.enterError tdi else s

/-- HEARTBEAT_LOSS (R376, R377, R381): while launches of the tenant run. -/
def execHeartbeatLoss (tdi : BitVec 4) (s : State) : Host.Outcome State Fault Refusal :=
  event s fun s =>
    match s.tdis.find? fun t => t.n == tdi with
    | none => s
    | some t =>
      if s.secured && s.launches.any fun x => x.lrec.jobId == t.job && x.state == 2 then
        ((s.logLater 7 t.job (leBytes 8 tdi.toNat)).logLater 11 0 []).enterError tdi
      else s

/-- The request of a load has completed. -/
def Stream.answered (x : Stream) (id : Nat) : Stream := { x with flight := x.flight.filter fun f => f.1 != id }

/-- A stream is insecure: its TDI enters ERROR (R372). (DEDUCED, log entry 49) -/
def State.insecureStream (s : State) (x : Stream) : State :=
  let s := s.putStream { x with insecure := true, flight := [] }
  (s.tdis.filter fun t => t.job == x.job).foldl (fun (s : State) t => s.enterError t.n) s

/-- COMPLETION_RECEIVED (R372): a completion is accepted under the index of its request only. (DEDUCED, log entry 49) -/
def execCompletionReceived (stream : BitVec 3) (id : Nat) (keyIndex authentic : Bool) (s : State) :
    Host.Outcome State Fault Refusal :=
  event s fun s =>
    match s.streams.find? fun x => x.ref == .ide stream with
    | none => s
    | some x =>
      match x.flight.find? fun f => f.1 == id with
      | none => s
      | some f => if f.2 == keyIndex && authentic then s.putStream (x.answered id) else s.insecureStream x

/-- COMPLETION_TIMEOUT (R372): it counts as completion; what the request should have read is free. (DEDUCED, log
entry 49) -/
def execCompletionTimeout (stream : BitVec 3) (id : Nat) (s : State) : Host.Outcome State Fault Refusal :=
  event s fun s =>
    match s.streams.find? fun x => x.ref == .ide stream with
    | none => s
    | some x =>
      if x.flight.any fun f => f.1 == id then
        (s.putStream (x.answered id)).updOp id fun o => { o with clobbered := true }
      else s

/-! ### The SPDM responder (R383 to R385) -/

/-- The bytes of a response: what the rules state of it among DMTF's fields (R383 to R385). (PRESUMED, log entry 8) -/
def spdmAnswer (code : Nat) (msg stated : List Byte) : List Byte :=
  Config.spdmReply code msg [0] ++ stated ++ Config.spdmReply code msg [1]

/-- The flags of the capabilities, at DMTF's bits: CERT, CHAL, MEAS with signature, ENCRYPT, MAC, PSK, HBEAT, KEY_UPD (R383).
(PRESUMED, log entry 8) -/
def spdmCapabilities : List Byte := leBytes 4 (2 ^ 1 + 2 ^ 2 + 2 ^ 4 + 2 ^ 6 + 2 ^ 7 + 2 ^ 10 + 2 ^ 13 + 2 ^ 14)

/-- The algorithms: SHA-256 as base hash, LMS type 8 with LM-OTS type 4 as extended signature algorithm, AES-256-GCM (R383).
(PRESUMED, log entry 8) -/
def spdmAlgorithms : List Byte := leBytes 4 1 ++ leBytes 4 8 ++ leBytes 4 4 ++ leBytes 2 2

/-- A request accepted after `ok`; versions are compared once GET_VERSION has come (R384). (PRESUMED, log entry 8) -/
def State.spdmRequest (s : State) (msg : List Byte) (ok : Bool) (k : State → State) : State :=
  if !Config.spdmWellFormed msg then s.spdmError 0x01
  else if s.spdm.phase ≠ 0 ∧ msg.head? ≠ some 0x13 then s.spdmError 0x41
  else if !ok then s.spdmError 0x04
  else k s

/-- GET_VERSION (R384). (PRESUMED, log entry 8) -/
def execGetVersion (msg : List (BitVec 8)) (s : State) : Host.Outcome State Fault Refusal :=
  event s fun s =>
    if !Config.spdmWellFormed msg then s.spdmError 0x01
    else
      let r := spdmAnswer 0x84 msg []
      ({ s with spdm := { s.spdm with phase := 1, vca := msg ++ r, chal := [], meas := [] } } : State).say r

/-- A negotiation request: from one phase to the next, appended to the VCA part. (PRESUMED, log entry 8) -/
def State.negotiate (s : State) (msg stated : List Byte) (code phase : Nat) : State :=
  s.spdmRequest msg (s.spdm.phase == phase) fun s =>
    let r := spdmAnswer code msg stated
    ({ s with spdm := { s.spdm with phase := phase + 1, vca := s.spdm.vca ++ msg ++ r } } : State).say r

/-- GET_CAPABILITIES (R383, R384). -/
def execGetCapabilities (msg : List (BitVec 8)) (s : State) : Host.Outcome State Fault Refusal :=
  event s fun s => s.negotiate msg spdmCapabilities 0xE1 1

/-- NEGOTIATE_ALGORITHMS (R383, R384). -/
def execNegotiateAlgorithms (msg : List (BitVec 8)) (s : State) : Host.Outcome State Fault Refusal :=
  event s fun s => s.negotiate msg spdmAlgorithms 0xE3 2

/-- A request of the challenge transcript. -/
def State.certificates (s : State) (msg : List Byte) (code : Nat) : State :=
  s.spdmRequest msg (s.spdm.phase == 3) fun s =>
    let r := spdmAnswer code msg []
    ({ s with spdm := { s.spdm with chal := s.spdm.chal ++ msg ++ r } } : State).say r

/-- GET_DIGESTS (R384). -/
def execGetDigests (msg : List (BitVec 8)) (s : State) : Host.Outcome State Fault Refusal :=
  event s fun s => s.certificates msg 0x81

/-- GET_CERTIFICATE (R384). -/
def execGetCertificate (msg : List (BitVec 8)) (s : State) : Host.Outcome State Fault Refusal :=
  event s fun s => s.certificates msg 0x82

/-- The identity key of height 20 is exhausted (R383). -/
def State.identitySpent (s : State) : Bool := decide (2 ^ 20 ≤ s.spdm.leaf)

/-- CHALLENGE (R383, R384): signed over VCA and the challenge transcript, which then resets. -/
def execChallenge (msg : List (BitVec 8)) (s : State) : Host.Outcome State Fault Refusal :=
  event s fun s => s.spdmRequest msg (s.spdm.phase == 3) fun s =>
    if s.identitySpent then s.spdmError 0x05
    else
      let r := spdmAnswer 0x83 msg []
      let sig := Config.lmsSign s.spdm.leaf (s.spdm.vca ++ s.spdm.chal ++ msg ++ r)
      ({ s with spdm := { s.spdm with chal := [], leaf := s.spdm.leaf + 1 } } : State).say (r ++ sig)

/-- The measurement block of a register: index, DMTF, size, digest type, size, digest (R385). (PRESUMED, log entry 8) -/
def State.measBlock (s : State) (i : Nat) : List Byte :=
  leBytes 1 i ++ leBytes 1 1 ++ leBytes 2 35 ++ leBytes 1 0 ++ leBytes 2 32 ++ digestBytes (s.measurement i)

/-- GET_MEASUREMENTS (R383 to R385): the registers asked for (0xFF: all), signed over VCA and the measurement transcript when
asked, which then resets. -/
def execGetMeasurements (msg : List (BitVec 8)) (index : BitVec 8) (signed : Bool) (s : State) :
    Host.Outcome State Fault Refusal :=
  event s fun s => s.spdmRequest msg (s.spdm.phase == 3) fun s =>
    if signed && s.identitySpent then s.spdmError 0x05
    else
      let is := [1, 2, 3, 4, 5, 6].filter fun i => index == 0xFF || index.toNat == i
      let r := spdmAnswer 0xE0 msg (is.flatMap s.measBlock)
      let t := s.spdm.meas ++ msg ++ r
      if signed then
        let sig := Config.lmsSign s.spdm.leaf (s.spdm.vca ++ t)
        ({ s with spdm := { s.spdm with meas := [], leaf := s.spdm.leaf + 1 } } : State).say (r ++ sig)
      else ({ s with spdm := { s.spdm with meas := t } } : State).say r

/-- A session's transcript grows. -/
def Spdm.sessionAppend (x : Spdm) (id : BitVec 32) (bs : List Byte) : Spdm :=
  { x with sessions := x.sessions.map fun y => if y.1 == id then (y.1, y.2.1, y.2.2 ++ bs) else y }

/-- A session of an id stands in this state. -/
def Spdm.hasSession (x : Spdm) (id : BitVec 32) (established : Bool) : Bool :=
  x.sessions.any fun y => y.1 == id && y.2.1 == established

/-- PSK_EXCHANGE (R383, R384): a session's transcript opens. -/
def execPskExchange (msg : List (BitVec 8)) (session : BitVec 32) (s : State) : Host.Outcome State Fault Refusal :=
  event s fun s => s.spdmRequest msg (s.spdm.phase == 3) fun s =>
    let r := spdmAnswer 0xE6 msg []
    let others := s.spdm.sessions.filter fun y => y.1 != session
    ({ s with spdm := { s.spdm with sessions := others ++ [(session, false, msg ++ r)] } } : State).say r

/-- PSK_FINISH (R384): the session is established, which the access log records. -/
def State.pskFinish (msg : List (BitVec 8)) (session : BitVec 32) (s : State) : State :=
  s.spdmRequest msg (s.spdm.hasSession session false) fun s =>
    s.logged (.pskFinish msg session) 0 8 0 (leBytes 4 session.toNat) fun s =>
      let r := spdmAnswer 0xE7 msg []
      let x := s.spdm.sessionAppend session (msg ++ r)
      let open_ := x.sessions.map fun y => if y.1 == session then (y.1, true, y.2.2) else y
      ({ s with spdm := { x with sessions := open_ } } : State).say r

/-- PSK_FINISH (R384). -/
def execPskFinish (msg : List (BitVec 8)) (session : BitVec 32) (s : State) : Host.Outcome State Fault Refusal :=
  event s (State.pskFinish msg session)

/-- A message inside an established session. -/
def State.inSession (s : State) (msg : List Byte) (session : BitVec 32) (code : Nat) (k : State → State) : State :=
  s.spdmRequest msg (s.spdm.hasSession session true) fun s =>
    let r := spdmAnswer code msg []
    k (({ s with spdm := s.spdm.sessionAppend session (msg ++ r) } : State).say r)

/-- HEARTBEAT (R381, R384). -/
def execHeartbeat (msg : List (BitVec 8)) (session : BitVec 32) (s : State) : Host.Outcome State Fault Refusal :=
  event s fun s => s.inSession msg session 0xE8 id

/-- KEY_UPDATE (R384). -/
def execKeyUpdate (msg : List (BitVec 8)) (session : BitVec 32) (s : State) : Host.Outcome State Fault Refusal :=
  event s fun s => s.inSession msg session 0xE9 id

/-- END_SESSION (R377, R384): logged, with a checkpoint. -/
def State.endSession (msg : List (BitVec 8)) (session : BitVec 32) (s : State) : State :=
  s.spdmRequest msg (s.spdm.hasSession session true) fun s =>
    if s.mayLog checkpointBytes then
      let r := spdmAnswer 0xEC msg []
      let rest := s.spdm.sessions.filter fun y => y.1 != session
      let s := ({ s with spdm := { s.spdm with sessions := rest } } : State).say r
      (s.appendLog 9 0 (leBytes 4 session.toNat)).checkpoint
    else s.holdAction (.endSession msg session)

/-- END_SESSION (R377, R384). -/
def execEndSession (msg : List (BitVec 8)) (session : BitVec 32) (s : State) : Host.Outcome State Fault Refusal :=
  event s (State.endSession msg session)

/-- VENDOR_DEFINED_REQUEST (R371, R384): IDE_KM brings a key for an IDE stream; without room for the record of its load the request
waits (R378). -/
def State.vendorRequest (msg : List (BitVec 8)) (session : BitVec 32) (stream : BitVec 3) (slot : BitVec 10)
    (job : BitVec 32) (key : BitVec 256) (s : State) : State :=
  let i := LogAction.vendor msg session stream slot job key
  s.spdmRequest msg (s.spdm.hasSession session true) fun s =>
    if s.keyFits (.ide stream) slot job && !s.mayLog 0 then s.holdAction i
    else s.inSession msg session 0xFE fun s => s.loadLinkKey i (.ide stream) slot job key

/-- VENDOR_DEFINED_REQUEST (R371, R384). -/
def execVendorDefinedRequest (msg : List (BitVec 8)) (session : BitVec 32) (stream : BitVec 3) (slot : BitVec 10)
    (job : BitVec 32) (key : BitVec 256) (s : State) : Host.Outcome State Fault Refusal :=
  event s (State.vendorRequest msg session stream slot job key)

/-- UNSUPPORTED_REQUEST (R384): a code that is not listed. -/
def execUnsupportedRequest (_code : BitVec 8) (s : State) : Host.Outcome State Fault Refusal :=
  event s fun s => s.spdmError 0x07

end Sys2Proof.Machine
end

