-- ==== Sys2Proof/Machine/Debug.lean ====
section
/-! DEFINITION. The debugger, the profiler and the injector's release: stops, steps, dumps, snapshots and clocks
(21_debug_profiling_replay.md, R360, R408). -/

namespace Sys2Proof.Machine

/-! ### Stops (R351 to R354) -/

/-- A stop, step or dump request for a partition in a protected cluster is refused (R352, R368). -/
def State.debugRequest (s : State) (p : Partition) (f : State → State) : State :=
  if s.protectedPart p then s.updDebug p fun d => { d with refused := true } else s.rwl f

/-- HALT (R351, R361): the partition stops at the next instruction boundary, with CAUSE 0. -/
def execHalt (p : Partition) (s : State) : Host.Outcome State Fault Refusal :=
  event s fun s => s.debugRequest p fun s =>
    if (s.debugPart p).stopped then s
    else
      let s := s.updDebug p fun d => { d with stopped := true, stepping := false, cause := 0 }
      (s.traceStop p 0).traceHolds.endRuns

/-- The pending writes of a partition are applied in their arrival order (R353). -/
def State.applyPending (s : State) (p : Partition) : State :=
  let ids := (s.debugPart p).pendings
  let s := s.updDebug p fun d => { d with pendings := [] }
  ids.foldl (fun (s : State) i => match s.op? i with | some o => s.finishOp o | none => s) s

/-- RESUME (R353, R361). (DEDUCED, log entry 29) -/
def execResume (p : Partition) (s : State) : Host.Outcome State Fault Refusal :=
  event s fun s => s.rwl fun s =>
    let d := s.debugPart p
    if d.stopped || d.stepping then
      let s := (s.applyPending p).updDebug p fun d => { d with stopped := false, stepping := false, dumpAsked := false }
      (s.traceStop p d.cause.toNat).traceHolds
    else s

/-- STEP (R354, R361): pending writes are applied, then one instruction of the group in a residency slot may issue.
(DEDUCED, log entry 29) -/
def execStep (p : Partition) (slot : BitVec 5) (s : State) : Host.Outcome State Fault Refusal :=
  event s fun s => s.debugRequest p fun s =>
    let d := s.debugPart p
    if d.stopped then
      ((s.applyPending p).updDebug p fun d => { d with slot := slot, stopped := false, stepping := true }).traceStop p d.cause.toNat
    else s

/-! ### The dump (R355) -/

/-- The destination components that a result of an operation writes: class, name, component, lanes, data if arrived, a predicate's
bit of each lane as that lane's word. (DEDUCED, log entry 28) -/
def Op.pendingEntries (o : Op) (g : Group) : List (List Byte) :=
  let ctr := match o.ctr with | some .st => 1 | some .cp => 2 | some .mx => 3 | _ => 0
  let cls (c : RegClass) : Nat := match c with | .vec => 0 | .scalar => 1 | .pred => 2
  let entry (c : RegClass) (name comp : Nat) (m : Mask) (data : Option (List Byte)) : List Byte :=
    exactly 152 (leBytes 8 o.addr.toNat ++ leBytes 1 ctr ++ leBytes 1 (cls c) ++ leBytes 1 name ++ leBytes 1 comp
      ++ leBytes 4 m.toNat ++ leBytes 1 (if data.isSome then 1 else 0) ++ leBytes 7 0 ++ data.getD [])
  if o.performed && !o.results.isEmpty then
    o.results.flatMap fun w =>
      match w.cls with
      | .vec => (List.range (g.kt + 1)).map fun j =>
          entry .vec w.name j w.mask (some ((compAt w.comps j).toList.flatMap fun y => leBytes 4 y.toNat))
      | .scalar => [entry .scalar w.name 0 0 (some (leBytes 8 w.word.toNat))]
      | .pred => [entry .pred w.name 0 w.mask (some ((List.range 32).flatMap fun l => leBytes 4 (if w.word.getLsbD l then 1 else 0)))]
  else (g.pending.filter fun p => p.op == o.id && !p.source).flatMap fun p =>
    match p.cls with
    | .vec => (List.range (g.kt + 1)).map fun j => entry .vec p.name j o.lanes none
    | .scalar => [entry .scalar p.name 0 0 none]
    | .pred => [entry .pred p.name 0 o.lanes none]

/-- What a dump holds of one group: its record and its pending-write list (R348, R355). (DEDUCED, log entry 28) -/
def State.dumpGroup (s : State) (g : Group) : List Byte :=
  let ops := s.ops.filter fun (o : Op) => o.gid == g.id
  let held := s.dbg.flatMap DebugPart.pendings
  let order := (held.filterMap fun i => ops.find? (·.id == i)) ++ ops.filter fun (o : Op) => !held.contains o.id
  g.record (ops.flatMap Op.deferredWords) ++ order.flatMap fun o => (o.pendingEntries g).flatten

/-- The resident groups of a partition in slot order. -/
def State.partGroups (s : State) (p : Partition) : List Group :=
  (List.range 16).filterMap fun i => s.groups.find? fun (g : Group) => g.place.part == p && g.place.slot.toNat == i &&
    match s.block? g.id.l g.id.blk with | some b => b.cu.isSome && !b.complete | none => false

/-- The dump of a partition (R355). (DEDUCED, log entry 28) -/
def State.dumpBytes (s : State) (p : Partition) (gs : List Group) : List Byte :=
  let d := s.debugPart p
  exactly 64 (leBytes 8 (Partition.word p) ++ leBytes 8 (s.time.toNat / 2) ++ leBytes 8 d.stat ++ leBytes 8 gs.length)
    ++ gs.flatMap s.dumpGroup ++ (List.range 64).flatMap (tableEntry gs) ++ d.leaves.toList.flatMap fun x => leBytes 8 x.toNat

/-- Tokens for what a dump says of each group's job: its records, and for each job that is there the rest of the dump, which the
groups share (R374, R375). (DEDUCED, log entry 28) -/
def State.dumpTokens (s : State) (gs : List Group) : Option State :=
  let shared := 64 + 64 * 32 + 8 * 14
  let records := gs.map fun g => (g.job, (s.dumpGroup g).length)
  let all := records ++ (gs.map Group.job).eraseDups.map fun j => (j, shared)
  all.foldl (fun (x : Option State) r => x.bind fun s => s.takeTokens r.1 r.2) (some s)

/-- A dump that has been asked for is written once the tokens cover it, unless the cluster has become protected meanwhile, which
refuses it (R368). (DEDUCED, log entry 28) -/
def State.tryDump (s : State) (p : Partition) : State :=
  let d := s.debugPart p
  if d.dumpAsked && s.protectedPart p then s.updDebug p fun d => { d with dumpAsked := false, refused := true }
  else if d.dumpAsked && d.stopped then
    let gs := s.partGroups p
    match s.dumpTokens gs with
    | none => s
    | some t => ({ t with mem := writeBytes t.mem t.dumpA.toNat (s.dumpBytes p gs) } : State).updDebug p fun d =>
        { d with dumpAsked := false, dumped := true }
  else s

/-- DUMP (R355): of a stopped partition. -/
def execDump (p : Partition) (s : State) : Host.Outcome State Fault Refusal :=
  event s fun s => s.debugRequest p fun s =>
    if (s.debugPart p).stopped then (s.updDebug p fun d => { d with dumpAsked := true, dumped := false }).tryDump p else s

/-- SNAPSHOT (R359). (DEDUCED, log entry 29) -/
def execSnapshot (p : Partition) (s : State) : Host.Outcome State Fault Refusal :=
  event s fun s => s.updDebug p fun d => { d with snap := d.leaves }

/-- Stores to the host that wait for tokens are performed, in the order of their issue (R375). -/
def State.pumpStores (s : State) (job : BitVec 32) : State :=
  (s.ops.filter fun o => o.job == job && o.kind.hostBytes != 0 && !o.performed).foldl (fun (s : State) o =>
    match o.kind with
    | .store accs rel =>
      if s.mayPerform o then
        match s.takeTokens job (if o.parts.isEmpty then o.kind.hostBytes else 0) with
        | some s => s.performStore o accs rel false
        | none => s
      else s
    | _ => s) s

/-- TOKEN_REFILL (R375): demands are then taken in port order: PCIe, Tether ports, the debugger's last. -/
def execTokenRefill (job : BitVec 32) (s : State) : Host.Outcome State Fault Refusal :=
  event s fun s =>
    let fill (x : Seal) : Seal := { x with tokens := BitVec.ofNat 32 (min x.burst.toNat (x.tokens.toNat + x.rate.toNat)) }
    let s : State := { s with jobs := s.jobs.map fun j => if j.id == job then { j with sealed := j.sealed.map fill } else j }
    let s := (s.pumpStores job).pumpPorts
    let s := (s.dbg.map DebugPart.part).foldl (fun (s : State) p => s.tryDump p) s
    s.writeTrace s.traceWait

/-! ### Clocks (R360, R408) -/

/-- The rate of a step in MHz. -/
def ClockStep.mhz : ClockStep → Nat | .mhz1800 => 1800 | .mhz2400 => 2400 | .mhz3000 => 3000 | .mhz3600 => 3600
/-- One step lower. -/
def ClockStep.down : ClockStep → ClockStep | .mhz1800 => .mhz1800 | .mhz2400 => .mhz1800 | .mhz3000 => .mhz2400 | .mhz3600 => .mhz3000
/-- One step higher. -/
def ClockStep.up : ClockStep → ClockStep | .mhz1800 => .mhz2400 | .mhz2400 => .mhz3000 | .mhz3000 => .mhz3600 | .mhz3600 => .mhz3600

/-- The clock of a die changes. -/
def State.setClock (s : State) (die : BitVec 2) (c : ClockStep) : State :=
  { s with clocks := s.clocks.set die.toNat c die.isLt }

/-- CLOCK_LOCK (R360, R361). (DEDUCED, log entry 30) -/
def execClockLock (freq : ClockStep) (s : State) : Host.Outcome State Fault Refusal :=
  event s fun s =>
    let s : State := { s with clocks := Vector.replicate 4 freq, lock := some freq, lockBroken := 0 }
    (List.range 4).foldl (fun (s : State) d => s.traceRecord none 1 d (leBytes 8 (ClockStep.mhz freq))) s

/-- LOCK_BROKEN (R360, R361): a thermal or power limit requires a lower clock of a die. -/
def execLockBroken (die : BitVec 2) (freq : ClockStep) (power : Bool) (s : State) : Host.Outcome State Fault Refusal :=
  event s fun s =>
    if s.lock.isSome && decide (ClockStep.mhz freq < ClockStep.mhz s.clocks[die.toFin]) then
      ({ s.setClock die freq with lockBroken := s.lockBroken ||| 1#4 <<< die.toNat } : State).traceRecord none 2 die.toNat
        (leBytes 8 (ClockStep.mhz freq) ++ leBytes 8 (if power then 2 else 1))
    else s

/-- LOCK_RESTORED (R360, R361). -/
def execLockRestored (die : BitVec 2) (s : State) : Host.Outcome State Fault Refusal :=
  event s fun s =>
    match s.lock with
    | none => s
    | some f =>
      if s.lockBroken.getLsbD die.toNat then
        ({ s.setClock die f with lockBroken := s.lockBroken &&& ~~~(1#4 <<< die.toNat) } : State).traceRecord none 3 die.toNat
          (leBytes 8 (ClockStep.mhz f))
      else s

/-- The clock of the die is locked. (DEDUCED, log entry 30) -/
def State.clockLocked (s : State) (die : BitVec 2) : Bool := s.lock.isSome && !s.lockBroken.getLsbD die.toNat

/-- CLOCK_STEP_DOWN (R408); a lock that holds is first broken (R360). (DEDUCED, log entry 30) -/
def execClockStepDown (die : BitVec 2) (s : State) : Host.Outcome State Fault Refusal :=
  event s fun s => if s.clockLocked die then s else s.setClock die (ClockStep.down s.clocks[die.toFin])

/-- CLOCK_STEP_UP (R408); a lock that holds fixes the clock (R360). (DEDUCED, log entry 30) -/
def execClockStepUp (die : BitVec 2) (s : State) : Host.Outcome State Fault Refusal :=
  event s fun s => if s.lock.isSome then s else s.setClock die (ClockStep.up s.clocks[die.toFin])

end Sys2Proof.Machine
end

