-- ==== Sys2Proof/Machine/Tether.lean ====
section
/-! DEFINITION. What arrives on the Tether ports: other devices' requests and their answers, answers to this device's requests, and the
link layer (23_dies_devices_and_links.md). -/

namespace Sys2Proof.Machine

/-! ### Flits that arrive and answers that leave (R371, R372, R389, R390) -/

/-- The port's inward stream, if it has been given keys (R371). -/
def State.inward (s : State) (port : BitVec 4) : Option Stream := s.streams.find? fun x => x.ref == .tether port false

/-- A flit that arrives is acknowledged by its link sequence number: an acknowledgement without payload that carries that number (R389,
R390). (DEDUCED, log entry 45) -/
def State.ackFlit (s : State) (f : FlitIn) : State :=
  match s.ports.toList[f.port.toNat]? with
  | none => s
  | some p => { s with out := s.out ++ [.linkFlit f.port.toNat (s.flitOf f.port.toNat 6 f.key p.peer f.seq [])] }

/-- The port is up, and the flit is authentic under a key that the inward stream holds; one that is not makes the stream insecure (R372).
(DEDUCED, log entry 49) -/
def State.receive (s : State) (f : FlitIn) (k : State → State) : State :=
  if !s.portUp f.port.toNat then s
  else
    match s.inward f.port with
    | none => k (s.ackFlit f)
    | some x => if x.insecure then s else if f.authentic then k (s.ackFlit f) else s.insecureStream x

/-- An answer to a request leaves by the port on which the request came, under the request's key index: stream and stream sequence of the
request, then `bs` (R372, R389). (DEDUCED, log entry 45; DESIGN CHOICE, log entry 54) -/
def State.answerFlit (s : State) (h : ReqHeader) (type : Nat) (bs : List Byte) : State :=
  s.putFlit h.flit.port.toNat
    { seq := 0, op := none, part := 0, sseq := h.seq, type := type, dev := h.src, va := 0,
      data := leBytes 4 h.stream ++ leBytes 4 h.seq ++ bs, key := h.flit.key, bytes := [] }

/-- How this device, as the destination, says what it has made of a request: performed, or refused (R393). (DEDUCED, log entry 45) -/
def State.answerDone (s : State) (h : ReqHeader) (refused : Bool) : State := s.answerFlit h 6 [if refused then 1 else 0]

/-- The requests of a stream, each of `n` flits, are performed in stream-sequence order; a duplicate is discarded, one that comes too
early cannot be accepted and is answered busy (R390). (DEDUCED, log entry 45) -/
def State.inOrder (s : State) (h : ReqHeader) (n : Nat) (f : State → State) : State :=
  s.receive h.flit fun s =>
    let at_ := ((s.rxStreams.find? fun r => r.src == h.src && r.stream == h.stream).map RxStream.expect).getD 0
    if h.seq < at_ then s
    else if at_ < h.seq then s.answerFlit h 7 []
    else
      let others := s.rxStreams.filter fun r => !(r.src == h.src && r.stream == h.stream)
      f { s with rxStreams := { src := h.src, stream := h.stream, expect := at_ + n } :: others }

/-! ### Requests of other devices (R393, R397, R399) -/

/-- Bytes of a write cut at 16-byte addresses: address and bytes. -/
def cutParts (fuel va : Nat) (bs : List Byte) : List (Nat × List Byte) :=
  match fuel with
  | 0 => []
  | n + 1 =>
    if bs.isEmpty then []
    else
      let k := 16 - va % 16
      (va, bs.take k) :: cutParts n (va + k) (bs.drop k)

/-- TETHER_WRITE (R393): each part is performed or refused. (DESIGN CHOICE, log entry 54) -/
def execTetherWrite (h : ReqHeader) (bytes : List (BitVec 8)) (s : State) : Host.Outcome State Fault Refusal :=
  event s fun s => s.inOrder h 1 fun s =>
    let ps := cutParts bytes.length h.va.toNat bytes
    let r := ps.foldl (fun (a : State × Bool) p =>
      match a.1.remoteLocs h.job p.1 p.2.length with
      | some locs => (a.1.outsideWrite locs p.2, a.2)
      | none => (a.1, true)) (s, false)
    let all := ps.flatMap fun p => (s.remoteLocs h.job p.1 p.2.length).getD []
    (r.1.clearPoison all).answerDone h r.2

/-- TETHER_READ_REQUEST (R393): each part is answered with its bytes, poisoned or not, or refused: part number, 0, 1 or 2, data. (DESIGN
CHOICE, log entry 54) -/
def execTetherReadRequest (h : ReqHeader) (parts : Nat) (s : State) : Host.Outcome State Fault Refusal :=
  event s fun s => s.inOrder h 1 fun s =>
    (List.range parts).foldl (fun (s : State) i =>
      match s.remoteLocs h.job (h.va.toNat / 16 * 16 + 16 * i) 16 with
      | some ps => s.answerFlit h 3 (leBytes 4 i ++ [if ps.any s.poisoned then 1 else 0] ++ s.readLocs ps)
      | none => s.answerFlit h 3 (leBytes 4 i ++ [2])) s

/-- TETHER_ATOMIC (R397): an update at the word's home slice; its order is recorded in this device's replay log.
(DEDUCED, log entry 21) -/
def execTetherAtomic (h : ReqHeader) (w64 : Bool) (f : AtomOp) (x : BitVec 64) (s : State) :
    Host.Outcome State Fault Refusal :=
  event s fun s => s.inOrder h 1 fun s =>
    let n := if w64 then 8 else 4
    match (if h.va.toNat % n = 0 then s.remoteLocs h.job h.va.toNat n else none) with
    | none => s.answerFlit h 5 [2]
    | some ps =>
      let r := s.remoteAtom ps w64 f x
      let log := (linesOf ps).map fun l => ReplayRec.atomic h.job l (h.src.setWidth 32) h.stream h.seq
      ({ r.1 with replay := r.1.replay ++ log } : State).answerFlit h 5 (0 :: leBytes n r.2.toNat)

/-- TETHER_COLLECTIVE (R399): another participant's contribution has arrived, in flits of 208 bytes. (DEDUCED, log entry 45) -/
def execTetherCollective (x : ContributionIn) (s : State) : Host.Outcome State Fault Refusal :=
  let h := x.h
  let c := x.c
  event s fun s => s.inOrder h ((c.data.length + 207) / 208) fun s =>
    let known := s.contributions.any fun x => x.src == c.src && x.job == c.job && x.coll == c.coll && x.k == c.k
    (if known then s else { s with contributions := s.contributions ++ [c] }).answerDone h false

/-! ### Answers to this device's requests -/

/-- The request that an answer is for. -/
def State.flightOf (s : State) (f : FlitIn) (r : PartRef) : Option Flit :=
  s.ports[f.port.toFin].inFlight.find? fun x => x.op == some r.op && x.part == r.part

/-- A request is in flight no longer. -/
def State.landed (s : State) (f : FlitIn) (r : PartRef) : State :=
  s.updPort f.port.toNat fun p => { p with inFlight := p.inFlight.filter fun x => !(x.op == some r.op && x.part == r.part) }

/-- A completion of a request in flight is accepted under the index of its request only; another moves the inward stream to the insecure
state (R372). (DEDUCED, log entry 49) -/
def State.completion (s : State) (f : FlitIn) (r : PartRef) (k : State → Op → State) : State :=
  match s.flightOf f r, s.op? r.op with
  | some x, some o =>
    match s.inward f.port with
    | some y => if !y.insecure && x.key != f.key then s.insecureStream y else s.receive f fun s => k s o
    | none => s.receive f fun s => k s o
  | _, _ => s.receive f id

/-- TETHER_READ_DATA (R396): a part of a TRECV's answer is written to its local buffer; while the host has its page's walk in hand the
flit is not accepted, and comes again (R390, R406). (DESIGN CHOICE, log entry 54) -/
def execTetherReadData (f : FlitIn) (of : PartRef) (answer : ReadAnswer) (s : State) : Host.Outcome State Fault Refusal :=
  event s fun s =>
    let sent : PartRef := { op := of.op, part := 0 }
    match s.op? of.op with
    | none => s.receive f id
    | some o =>
      match o.kind with
      | .recv b .. =>
        s.whenWalked o (b.vas [of.part]) <| s.completion f sent fun s o =>
          if !(o.unread b).contains of.part then s
          else
            let d : PartData := match answer with
              | .data bs => { i := of.part, bytes := bs.take 16 ++ List.replicate (16 - bs.length) 0, fate := .ok }
              | .poisoned bs => { i := of.part, bytes := bs.take 16 ++ List.replicate (16 - bs.length) 0, fate := .poison }
              | .refused => { i := of.part, bytes := List.replicate 16 0, fate := .ok }
            let more : BitVec 4 := if answer = .refused then PartEnd.cst .range else 0
            match s.writeLocal o b d with
            | none => (s.landed f sent).violate o
            | some (s, c) =>
              let s := s.updOp of.op fun o => { o with buf := o.buf ++ [d], cst := o.cst ||| c ||| more }
              (if (o.unread b).length ≤ 1 then s.landed f sent else s).pumpLinks
      | _ => s.receive f id

/-- TETHER_ATOMIC_RESULT (R397): the old value for a lane of RATOM, or the result of a signal; none is a refusal. -/
def execTetherAtomicResult (f : FlitIn) (of : PartRef) (answer : Option (BitVec 64)) (s : State) : Host.Outcome State Fault Refusal :=
  event s fun s =>
    match (s.op? of.op).map Op.kind with
    | some (.ratom _ w64 d _ lanes) =>
      let sent : PartRef := { op := of.op, part := lanes.findIdx fun x => x.lane == of.part }
      s.completion f sent fun s o => ((s.landed f sent).laneAnswer o d w64 lanes of.part answer).pumpLinks
    | some (.send ..) | some (.recv ..) =>
      let sent : PartRef := { op := of.op, part := signalPart }
      s.completion f sent fun s _ => (s.landed f sent).updOp of.op fun o => { o with
        parts := o.parts ++ [signalPart], cst := if answer.isSome then o.cst else o.cst ||| PartEnd.cst .range }
    | _ => s.receive f id

/-- A write or a contribution has been performed at its destination, or refused (R393). -/
def State.flitDone (s : State) (op part : Nat) (refused : Bool) : State :=
  s.updOp op fun o =>
    if o.parts.contains part then o
    else { o with parts := o.parts ++ [part], cst := if refused then o.cst ||| PartEnd.cst .range else o.cst }

/-! ### The link layer (R390) -/

/-- TETHER_ACKNOWLEDGE (R390): every flit up to a link sequence number has arrived; or a request has been performed at its destination,
or refused, `declined` (R393, R394). (DEDUCED, log entry 45) -/
def execTetherAcknowledge (port : BitVec 4) (what : TetherAck) (declined : Bool) (s : State) : Host.Outcome State Fault Refusal :=
  event s fun s =>
    match what with
    | .flits upTo =>
      let p := s.ports[port.toFin]
      if p.unacked.any (·.seq == upTo) then
        let before := p.unacked.takeWhile fun f => f.seq != upTo
        (s.updPort port.toNat fun p => { p with unacked := p.unacked.drop (before.length + 1), replays := 0 }).pumpLinks
      else s
    | .request seq key authentic of =>
      let f : FlitIn := { port := port, seq := seq, key := key, authentic := authentic }
      match s.flightOf f of with
      | some x =>
        if x.nonPosted then s.receive f id
        else s.receive f fun s => ((s.landed f of).flitDone of.op of.part declined).pumpLinks
      | none => s.receive f id

/-- TETHER_BUSY (R390): the destination cannot accept a request, which waits at its source. -/
def execTetherBusy (f : FlitIn) (of : PartRef) (s : State) : Host.Outcome State Fault Refusal :=
  event s fun s =>
    s.receive f fun s =>
      match s.flightOf f of with
      | some x => (s.landed f of).updPort f.port.toNat fun p => { p with busy := p.busy ++ [x] }
      | none => s

/-- BUSY_RETRY (R390): the request is sent again. -/
def execBusyRetry (port : BitVec 4) (of : PartRef) (s : State) : Host.Outcome State Fault Refusal :=
  event s fun s =>
    match s.ports[port.toFin].busy.find? fun f => f.op == some of.op && f.part == of.part with
    | none => s
    | some f =>
      if s.portRoom port.toNat && s.portUp port.toNat then
        ((s.updPort port.toNat fun p => { p with busy := p.busy.filter fun x => !(x.op == some of.op && x.part == of.part) }).putFlit
          port.toNat f).pumpLinks
      else s

/-- Every flit not yet acknowledged goes out again, oldest first (R390). -/
def State.replayPort (s : State) (port : Nat) : State :=
  match s.ports.toList[port]? with
  | none => s
  | some p => { s with out := s.out ++ p.unacked.map fun f => .linkFlit port f.bytes }

/-- TETHER_ACK_TIMEOUT (R390): replay from the oldest flit not yet acknowledged; after 8 failed replays the port
retrains. (DESIGN CHOICE, log entry 53) -/
def execTetherAckTimeout (port : BitVec 4) (s : State) : Host.Outcome State Fault Refusal :=
  event s fun s =>
    let p := s.ports[port.toFin]
    if p.unacked.isEmpty || !s.portUp port.toNat then s
    else if 8 ≤ p.replays then s.updPort port.toNat fun p => { p with st := 1, replays := 0 }
    else (s.replayPort port.toNat).updPort port.toNat fun p => { p with replays := p.replays + 1 }

/-- TETHER_LINK_CONTROL (R390): a port has trained and replays what is not acknowledged; it retrains; or it is down and its
requests wait for another port (R392). -/
def execTetherLinkControl (port : BitVec 4) (what : LinkControl) (s : State) : Host.Outcome State Fault Refusal :=
  event s fun s =>
    let i := port.toNat
    let p := s.ports[port.toFin]
    match what with
    | .trained peer fewer =>
      if p.en && decide (p.tier.toNat < 3) then
        ((s.updPort i fun p => { p with st := if fewer then 3 else 2, peer := peer, replays := 0 }).replayPort i).pumpLinks
      else s
    | .retrain => s.updPort i fun p => if p.en then { p with st := 1 } else p
    | .down => ((s.updPort i fun p => { p with st := 0 }).dropPort i).pumpLinks

/-- ROUTE_TIMEOUT (R392): a stream has had no route for 100 ms: what of the operation has not been performed counts as refused,
and the operation completes. (DESIGN CHOICE, log entry 53) -/
def execRouteTimeout (op : Nat) (s : State) : Host.Outcome State Fault Refusal :=
  event s fun s =>
    match s.op? op with
    | none => s
    | some o =>
      let gone (s : State) : State := { s with flits := s.flits.filter fun f => f.op != some op }
      let range := PartEnd.cst .range
      match o.kind with
      | .send _ _ dev _ _ =>
        if dev = s.devId ∨ (s.route o.gid dev).isSome then s else (gone s).settleLink { o with cst := o.cst ||| range }
      | .recv b _ dev _ _ =>
        if dev = s.devId ∨ (s.route o.gid dev).isSome then s
        else
          s.whenWalked o (b.vas (o.unread b)) <|
            match (gone s).writeBuf o b (List.replicate b.len 0) (o.unread b) with
            | none => (gone s).violate o
            | some (s, c) => s.settleLink { o with cst := o.cst ||| c ||| range }
      | .ratom _ w64 d dev lanes =>
        if dev = s.devId ∨ (s.route o.gid dev).isSome ∨ o.performed then s
        else (gone s).settleRatom o d w64 (lanes.map fun x => (x.lane,
          (o.buf.find? fun y => y.i == x.lane && y.fate == .ok).map fun y => BitVec.ofNat 64 (leNat y.bytes)))
      | .ared _ _ _ (some list) _ _ _ _ =>
        if list.all fun d => d == s.devId.setWidth 32 || (decide (d.toNat < 2 ^ 21) && (s.route o.gid (d.setWidth 21)).isSome) then s
        else (gone s).failAred o
      | _ => s

end Sys2Proof.Machine
end

