-- ==== Sys2Proof/Machine/HostSide.lean ====
section
/-! DEFINITION. The host's side: register writes, page walks, ATS and PRI, host-assisted requests, host accesses to device
memory, errors and page retirement, firmware, readiness, the fatal state and resets (26_host_bringup_power.md; R202, R207 to
R211, R364, R375, R386, R388). -/

namespace Sys2Proof.Machine

/-! ### Job registers (R407) -/

/-- A job's registers at reset. (DESIGN CHOICE, log entry 2) -/
def Job.start (j : BitVec 32) : Job :=
  { id := j, pasid := 0, priv := false, prot := false, ats := false, ptroot := 0, tdir := 0, wdog := BitVec.ofNat 64 (2 ^ 33),
    retired := false, created := false, dispatched := none, sealed := none }

/-- The job has a launch that is not in a terminal state. -/
def State.jobLive (s : State) (j : BitVec 32) : Bool := s.launches.any fun x => x.lrec.jobId == j && decide (x.state < 3)

/-- Change a job's registers: of a live job from its next launch dispatch on, of another at once, beside what still waits for that
dispatch (R407). -/
def State.setJob (s : State) (j : BitVec 32) (f : Job → Job) : State :=
  let s : State := if (s.job? j).isSome then s else { s with jobs := s.jobs ++ [Job.start j] }
  if s.jobLive j then
    let now := match s.jobsNext.find? fun x => x.id == j with
      | some x => x
      | none => (s.job? j).getD (Job.start j)
    { s with jobsNext := s.jobsNext.filter (fun x => x.id != j) ++ [f now] }
  else
    let set (x : Job) : Job := if x.id == j then f x else x
    { s with jobs := s.jobs.map set, jobsNext := s.jobsNext.map set }

/-- A protected job gets a TDI, of which there are 16 (R379). -/
def State.addTdi (s : State) (j : BitVec 32) : State :=
  if s.tdis.any fun t => t.job == j then s
  else
    match (List.range 16).find? fun n => !(s.tdis.any fun t => t.n.toNat == n) with
    | some n =>
      let t : Tdi := { n := BitVec.ofNat 4 n, job := j, st := .unlocked, digest := 0, stopping := false, failing := false }
      { s with tdis := s.tdis ++ [t] }
    | none => s

/-- JOBCFG creates the job, whatever other register of it has been written before: its protected mark is fixed then (R366). -/
def State.jobCfg (s : State) (j : BitVec 32) (pasid : BitVec 20) (priv prot ats : Bool) : State :=
  let known := (s.job? j).any Job.created
  let s := s.setJob j fun x => { x with pasid := pasid, priv := priv, ats := ats }
  if known then s
  else
    let make (x : Job) : Job := if x.id == j then { x with prot := prot, created := true } else x
    let s : State := { s with jobs := s.jobs.map make, jobsNext := s.jobsNext.map make }
    if prot then s.addTdi j else s

/-- System software retires a job: its counter records STATE 3 (R174). -/
def State.retireJob (s : State) (j : BitVec 32) : State :=
  if s.jobLive j then s
  else
    { s with
      jobs := s.jobs.map fun x => if x.id == j then { x with retired := true } else x,
      jobPages := s.jobPages.filter fun p => p.1 != j,
      counters := s.counters.map fun c => if c.lvl == .job && c.job == j && c.state == 2 then { c with state := 3 } else c }

/-- EGRLIM of a sealed job: who sets RATE and BURST is not given; its bucket starts full (R374, R375). (DESIGN CHOICE, log
entry 65) -/
def Seal.limit (x : Seal) (rate burst : BitVec 32) : Seal :=
  let tokens := if x.burst = 0 then burst else BitVec.ofNat 32 (min x.tokens.toNat burst.toNat)
  { x with rate := rate, burst := burst, tokens := tokens }

/-- LNKCFG (R390): a port that is not enabled, or whose TIER is invalid, is down. (DEDUCED, log entry 46) -/
def Port.configure (p : Port) (tier : BitVec 4) (en : Bool) : Port :=
  let on := en && decide (tier.toNat < 3)
  { p with tier := tier, en := en, st := if on then (if p.st = 0 then 1 else p.st) else 0 }

/-- REGISTER_WRITE (R407). (DEDUCED, log entry 30) -/
def State.hostWrite (s : State) : HostWrite → State
  | .jobCfg j pasid priv prot ats => s.jobCfg j pasid priv prot ats
  | .ptRoot j a => s.setJob j fun x => { x with ptroot := a }
  | .tDir j a => s.setJob j fun x => { x with tdir := a }
  | .wdog j n => s.setJob j fun x => { x with wdog := n }
  | .qCfg q level tickets pq j => s.updQueue q.toNat fun x => { x with level := level, tickets := tickets, pq := pq, job := j }
  | .bar2Win a => { s with bar2Win := a }
  | .modeSplit b => s.rwl fun s => { s with modeSplit := b.setWidth 64 }
  | .pwrLim w => if 600 ≤ w ∧ w ≤ 2400 then { s with pwrLim := w } else s
  | .dumpA a => { s with dumpA := a }
  | .traceA a => { s with traceA := a }
  | .logA a => { s with logA := a }
  | .devId d => { s with devId := d }
  | .dbgSlot p n => s.rwl fun s => s.updDebug p fun d => { d with slot := n }
  | .dbgRefusedClear p => s.rwl fun s => s.updDebug p fun d => { d with refused := false }
  | .debugWp p n lo hi table kind en => s.updDebug p fun d =>
      { d with dw := d.dw.set n.toNat { kind := kind, lo := lo, hi := hi, table := table, en := en } n.isLt }
  | .inject die lo hi en n => { s with inj := s.inj.set die.toNat { lo := lo, hi := hi, en := en, n := n } die.isLt }
  | .lnkCfg port tier en => s.rwl fun s =>
    let s := s.updPort port.toNat fun p => p.configure tier en
    if s.ports[port.toFin].st == 0 then s.dropPort port.toNat else s
  | .exportPin j lo hi => { s with exportPins := s.exportPins ++ [(j, lo.toNat, hi.toNat)] }
  | .exportUnpin j lo hi => { s with exportPins := s.exportPins.filter (· != (j, lo.toNat, hi.toNat)) }
  | .cancel lvl j i => s.cancelLevel lvl j i
  | .retireJob j => s.retireJob j
  | .egress j rate burst =>
    { s with jobs := s.jobs.map fun x => if x.id == j then { x with sealed := x.sealed.map fun y => y.limit rate burst } else x }

/-- REGISTER_WRITE (R407): what waits for ports or tokens looks again. (DESIGN CHOICE, log entry 54) -/
def execRegisterWrite (w : HostWrite) (s : State) : Host.Outcome State Fault Refusal :=
  event s fun s => (s.hostWrite w).pumpLinks

/-! ### Translation (R202, R207, R407) -/

/-- Entries that one TLB holds (R202). -/
def tlbSize (cu : Option (BitVec 6)) : Nat := if cu.isSome then 256 else 16384

/-- A translation enters a TLB; of a full one the oldest entry goes. (DESIGN CHOICE, log entry 31) -/
def State.tlbFill (s : State) (die : BitVec 2) (cu : Option (BitVec 6)) (job : BitVec 32) (va : Nat) : State :=
  match s.walk job va with
  | none => s
  | some p =>
    let e : TlbEntry := { die := die, cu := cu, job := job, base := p.1, size := p.2.1, pte := p.2.2 }
    let same (t : TlbEntry) : Bool := t.die == die && t.cu == cu
    let mine := s.tlb.filter fun t => same t && !(t.job == job && t.base == p.1)
    { s with tlb := s.tlb.filter (fun t => !same t) ++ mine.drop (mine.length + 1 - tlbSize cu) ++ [e] }

/-- A TLB miss is counted (R359). -/
def State.countMiss (s : State) : State := { s with counts := { s.counts with tlbMisses := s.counts.tlbMisses + 1 } }

/-- PAGE_WALK (R202): a walker's result enters the TLB; in host mode the host is asked (R406 WALK). (DESIGN CHOICE,
log entry 31) -/
def execPageWalk (die : BitVec 2) (cu : Option (BitVec 6)) (job : BitVec 32) (va : BitVec 52) (s : State) :
    Host.Outcome State Fault Refusal :=
  event s fun s =>
    let c := cu.map BitVec.toNat
    if s.modeSplit.getLsbD taskWalk && (s.walkRequest die c job va.toNat).isNone then (s.tlbFill die cu job va.toNat).countMiss
    else s.askWalk die c job va.toNat

/-- TLBINV (R407): every TLB drops the entries of a job that meet a range, both ends included. (DESIGN CHOICE, log
entry 31) -/
def execTlbinv (job : BitVec 32) (lo hi : BitVec 52) (s : State) : Host.Outcome State Fault Refusal :=
  event s fun s =>
    { s with
      tlb := s.tlb.filter fun t => !(t.job == job && decide (t.base ≤ hi.toNat ∧ lo.toNat < t.base + t.size)),
      hostReqs := s.hostReqs.filter fun r => !(r.task == taskWalk && r.job == job && r.answered.isSome) }

/-- ATS_INVALIDATION (R207): honoured at once. -/
def execAtsInvalidation (pasid : BitVec 20) (page : BitVec 40) (s : State) : Host.Outcome State Fault Refusal :=
  event s fun s => { s with atc := s.atc.filter (· != (pasid, page)) }

/-- ATS_TRANSLATION_COMPLETION (R207): the translation is cached, among 4,096; an absent page is requested by PRI. -/
def execAtsTranslationCompletion (pasid : BitVec 20) (page : BitVec 40) (present : Bool) (s : State) :
    Host.Outcome State Fault Refusal :=
  event s fun s =>
    if !s.out.contains (.ats pasid page) then s
    else
      let out := s.out.filter (· != .ats pasid page)
      if present then
        let old := s.atc.filter (· != (pasid, page))
        { s with out := out, atc := old.drop (old.length + 1 - 4096) ++ [(pasid, page)] }
      else { s with out := out ++ [.pri pasid page] }

/-- PRI_RESPONSE (R205, R207): a page granted is translated again; a refusal is a lease violation of the launches that run,
and a setup failure of those in setup. (DEDUCED, log entry 24) -/
def execPriResponse (pasid : BitVec 20) (page : BitVec 40) (granted : Bool) (s : State) : Host.Outcome State Fault Refusal :=
  event s fun s =>
    if !s.out.contains (.pri pasid page) then s
    else
      let s : State := { s with out := s.out.filter (· != .pri pasid page) }
      if granted then { s with out := s.out ++ [.ats pasid page] }
      else
        let hit := s.launches.filter fun x => decide (x.state < 3) && x.hostLeased (page.toNat * 4096) &&
          match s.job? x.lrec.jobId with | some j => j.pasid == pasid | none => false
        hit.foldl (fun (s : State) x => s.stopLaunch x.uid (if x.state = 2 then (5, 1) else (5, 2))) s

/-! ### Errors and retirement (R209 to R211) -/

/-- An error is logged with its physical address: in the ring that LOGA names, unless that is 0, and by vector 256 (R211,
R402). (DEDUCED, log entry 28) -/
def State.logError (s : State) (pa : Nat) (uncorrectable : Bool) : State :=
  let i := s.errorLog.length % (Config.errorRingLast + 1)
  let s : State := if s.logA = 0 then s
    else { s with mem := writeBytes s.mem (s.logA.toNat + 16 * i) (leBytes 8 pa ++ leBytes 8 (if uncorrectable then 1 else 0)) }
  { s with errorLog := s.errorLog ++ [(pa, uncorrectable)], out := s.out ++ [.msix 256] }

/-- A page is retired, or once its pins drop (R211). (DEDUCED, log entry 32) -/
def State.retirePage (s : State) (page : Nat) : State :=
  if s.retired.contains page || s.retiring.contains page then s
  else ({ s with retiring := s.retiring ++ [page] } : State).retireUnpinned

/-- An error shows in a storage other than HBM: one that is corrected is logged; else the data is poisoned, and a line of an L1 or a
translation is discarded (R209). On-chip storage has no physical address: 0 is logged. The poison of a register's data has no effect that
the spec states, for R210's fault is of a byte read into a register, and is not held. (DEDUCED, log entry 32) -/
def State.upset (s : State) (place : Storage) (bad : Bool) : State :=
  match place with
  | .l2 pa => (if bad then s.addPoison (.dev pa) else s).logError pa bad
  | .scratch l blk off => (if bad then s.addPoison (.scr l blk off) else s).logError 0 bad
  | .tile l blk t e =>
    (if bad then s.updBlock l blk fun b => { b with accPoison := ((4096 * t + e) :: b.accPoison).eraseDups } else s).logError 0 bad
  | .scale l blk r i =>
    (if bad then s.updBlock l blk fun b => { b with sc := b.sc.zipIdx.map fun x =>
        if x.2 = r then { x.1 with poison := (i :: x.1.poison).eraseDups } else x.1 } else s).logError 0 bad
  | .regs _ => s.logError 0 bad
  | .l1 cu line => { s with l1 := s.l1.filter fun x => !(x.cu == cu && x.line == line) }
  | .tlb die cu job base => { s with tlb := s.tlb.filter fun x => !(x.die == die && x.cu == cu && x.job == job && x.base == base) }

/-- What a scrub finds in a codeword (R209, R211). (DEDUCED, log entry 32) -/
def State.scrubbed (s : State) (c : Nat) (found : ScrubFinding) : State :=
  let page := c / 64
  match found with
  | .clean => s
  | .correctable =>
    let seen := if s.correctable.contains (page, c) then s.correctable else s.correctable ++ [(page, c)]
    let s := ({ s with correctable := seen } : State).logError (64 * c) false
    if 3 ≤ (seen.filter fun x => x.1 == page).length then s.retirePage page else s
  | .uncorrectable => ((s.addPoison (.dev (64 * c))).logError (64 * c) true).retirePage page
  | .elsewhere place bad => s.upset place bad

/-- A finding as an argument of a host request. -/
def findingCode : ScrubFinding → Nat | .clean => 0 | .correctable => 1 | .uncorrectable => 2 | .elsewhere .. => 3

/-- PATROL_SCRUB (R209): of codeword c; passes go upward, and each begins a new scrub period. In host mode the host is asked
(R406 SCRUB). An error elsewhere shows whether or not the host scrubs. (DEDUCED, log entry 32) -/
def execPatrolScrub (codeword : Nat) (found : ScrubFinding) (s : State) : Host.Outcome State Fault Refusal :=
  event s fun s =>
    match found with
    | .elsewhere place bad => s.upset place bad
    | _ =>
      if !backed (64 * codeword) then s
      else
        let s : State := { s with scrubAt := codeword, correctable := if codeword ≤ s.scrubAt then [] else s.correctable }
        if s.modeSplit.getLsbD taskScrub then s.scrubbed codeword found
        else s.postRequest taskScrub 0 [codeword, findingCode found]

/-! ### Host-assisted requests (R406) -/

/-- A rebalancing step as arguments of a host request. -/
def RebalanceStep.args : RebalanceStep → List Nat
  | .leaf i => [0, 0, i]
  | .inner lv i => [1, lv, i]
  | .root => [2, 0, 0]
  | .bucket b => [3, 0, b]

/-- The rebalancing step of a request's arguments. -/
def rebalanceOf (kind lv i : Nat) : RebalanceStep :=
  match kind with
  | 0 => .leaf i
  | 1 => .inner lv i
  | 2 => .root
  | _ => .bucket i

/-- A rebalancing step of a table takes its place in table order (R218, R221, R222). (DEDUCED, log entry 36) -/
def State.rebalance (s : State) (job : BitVec 32) (table : BitVec 16) (what : RebalanceStep) : State :=
  match s.tables.find? fun t => t.job == job && t.num == table with
  | none => s
  | some t => s.putTable (t.rebalance what)

/-- REBALANCE (R221, R222): in hardware mode the device's step, else the host is asked for it (R406 REBAL). -/
def execRebalance (job : BitVec 32) (table : BitVec 16) (what : RebalanceStep) (s : State) :
    Host.Outcome State Fault Refusal :=
  event s fun s =>
    match s.tables.find? fun t => t.job == job && t.num == table with
    | none => s
    | some t =>
      let args := table.toNat :: RebalanceStep.args what
      if t.rbhw && s.modeSplit.getLsbD taskRebal then s.rebalance job table what
      else if (s.request? taskRebal args).isSome || t.rebalance what == t then s
      else s.postRequest taskRebal job args

/-- HOST_REQUEST_COMPLETION (R406): what the request asked for is done; a lease setup reads the answer itself.
(DESIGN CHOICE, log entry 54) -/
def execHostRequestCompletion (id : Nat) (ok : Bool) (digest : BitVec 256) (s : State) : Host.Outcome State Fault Refusal :=
  event s fun s =>
    match s.hostReqs.find? fun r => r.id == id with
    | none => s
    | some r =>
      if r.task = taskLease then
        { s with hostReqs := s.hostReqs.map fun x => if x.id == id then { x with answered := some ok } else x }
      else if r.task = taskWalk && (!ok || (s.walk r.job (r.args.getD 2 0)).isNone) then
        { s with hostReqs := s.hostReqs.map fun x => if x.id == id then { x with answered := some false } else x }
      else
        let s : State := { s with hostReqs := s.hostReqs.filter fun x => x.id != id }
        if !ok then s
        else
          match r.args with
          | [die, cu, va] =>
            if r.task = taskWalk then
              (s.tlbFill (BitVec.ofNat 2 die) (if cu = 0 then none else some (BitVec.ofNat 6 (cu - 1))) r.job va).countMiss
            else s
          | [c, f] =>
            if r.task = taskScrub then
              s.scrubbed c (if f = 0 then .clean else if f = 1 then .correctable else .uncorrectable)
            else s
          | [n, kind, lv, i] => if r.task = taskRebal then s.rebalance r.job (BitVec.ofNat 16 n) (rebalanceOf kind lv i) else s
          | [i] => if r.task = taskMeas then s.extendMeas i digest else s
          | _ => s

/-! ### Host accesses through BAR2 (R272, R374, R375, R402) -/

/-- Device addresses of an access through BAR2's aperture of 4 GiB; none outside it or where no memory is. (DEDUCED,
log entry 34) -/
def State.barRange (s : State) (off : BitVec 32) (n : Nat) : Option (List Nat) :=
  let a := s.bar2Win.toNat + off.toNat
  if off.toNat + n ≤ 2 ^ 32 ∧ a + n ≤ 2 ^ 39 then some ((List.range n).map (a + ·)) else none

/-- HOST_MEMORY_WRITE (R272, R362, R369): the bytes enter coherence order as given, but for those of the access log's ring (R376).
(DEDUCED, log entry 34; DEDUCED, log entry 47) -/
def execHostMemoryWrite (off : BitVec 32) (bytes : List (BitVec 8)) (s : State) : Host.Outcome State Fault Refusal :=
  event s fun s =>
    match s.barRange off bytes.length with
    | none => s
    | some as =>
      let pages := (as.map (· / 4096)).eraseDups
      let rest := s.hostWritten.filter fun w => !pages.contains w.1
      let cells := (as.zip bytes).filter fun c => !s.firmwareOnly c.1
      ({ s with hostWritten := rest ++ pages.map fun p => (p, s.fresh) } : State).outsideWrite (cells.map fun c => .dev c.1)
        (cells.map Prod.snd)

/-- Bytes of these addresses that lie in pages which a launch of the job has leased as unprotected ones (R374). (DEDUCED, log
entry 34) -/
def State.jobBytes (s : State) (job : BitVec 32) (as : List Nat) : Nat :=
  (as.filter fun a => s.jobPages.contains (job, a / 4096)).length

/-- Tokens for a host read from the buckets of every sealed job whose memory it reads; else the job that refuses.
(DEDUCED, log entry 34) -/
def State.readTokens (s : State) (as : List Nat) : List Job → Except (BitVec 32) State
  | [] => .ok s
  | j :: t =>
    match s.takeTokens j.id (s.jobBytes j.id as) with
    | some s => State.readTokens s as t
    | none => .error j.id

/-- An answer to a read by the host leaves. (DEDUCED, log entry 52) -/
def State.answer (s : State) (x : HostOut) : State := { s with out := s.out ++ [x] }

/-- HOST_MEMORY_READ (R374, R375): admitted whole, or Completer Abort and a logged refusal. (DEDUCED, log entry 34) -/
def execHostMemoryRead (off : BitVec 32) (len : Nat) (s : State) : Host.Outcome State Fault Refusal :=
  event s fun s =>
    match s.barRange off len with
    | none => s.answer .abort
    | some as =>
      match s.readTokens as (s.jobs.filter fun j => j.sealed.isSome) with
      | .ok t => t.answer (.data (as.map (readByte t.mem)))
      | .error j => (s.answer .abort).logRefusal j

/-! ### Firmware and readiness (R385, R386, R403) -/

/-- Firmware of a kind has been verified and loaded. -/
def State.hasFirmware (s : State) (security : Bool) : Bool := s.firmware.any fun f => f.security == security

/-- The security version number that the signed header of an image gives (R386). -/
def imageVersion (f : FirmwareImage) : Nat := Config.imageVersion (f.bytes.take 64)

/-- The image passes its checks (R386): the security firmware verifies the device firmware. (DEDUCED, log entry 50) -/
def State.imageOk (s : State) (f : FirmwareImage) : Bool :=
  Config.lmsVerify f.security (Config.sha256 f.bytes) f.signature && decide (64 ≤ f.bytes.length) && decide (Config.minSecurityVersion ≤ imageVersion f)
    && (f.security || s.hasFirmware true)

/-- FIRMWARE_IMAGE_LOAD (R385, R386): at reset only, each kind once; boot extends measurement registers 1 to 5.
(DEDUCED, log entry 50) -/
def State.imageLoad (image : FirmwareImage) (s : State) : State :=
  if s.ready ≠ 0 || s.hasFirmware image.security || !s.imageOk image then s
  else s.logged (.image image) 0 10 0 (leBytes 8 (if image.security then 1 else 0) ++ leBytes 8 (imageVersion image)) fun s =>
    let s : State := { s with firmware := s.firmware ++ [image] }
    let d := Config.sha256 image.bytes
    if image.security then
      let s := s.measure 1 d
      let s := s.measure 3 (Config.sha256 (Config.fuseConfig ++ leBytes 8 (imageVersion image)))
      let s := s.measure 4 (Config.sha256 (leBytes 1 (if Config.debugLocked then 1 else 0)))
      s.measure 5 (Config.sha256 (leBytes 8 s.modeSplit.toNat))
    else s.measure 2 d

/-- FIRMWARE_IMAGE_LOAD (R385, R386). -/
def execFirmwareImageLoad (image : FirmwareImage) (s : State) : Host.Outcome State Fault Refusal :=
  event s (State.imageLoad image)

/-! ### What waits for the access log (R378) -/

/-- An action that has waited for room in the access log's ring (R378). -/
def LogAction.run (s : State) : LogAction → State
  | .keyLoad slot job twbase key => s.keyLoad slot job twbase key
  | .keyZeroise slot => s.keyZeroise slot
  | .sealDerive slot job region base policy => s.sealDerive slot job region base policy
  | .regionSet job lo hi policy => s.regionSet job lo hi policy
  | .linkLoad stream slot job key => s.linkLoad stream slot job key
  | .setRetire stream => s.setRetire stream
  | .lock tdi => s.lockTdi tdi
  | .start tdi => s.startTdi tdi
  | .pskFinish msg session => s.pskFinish msg session
  | .endSession msg session => s.endSession msg session
  | .vendor msg session stream slot job key => s.vendorRequest msg session stream slot job key
  | .image x => s.imageLoad x

/-- What has waited for room is taken up again in its order, and waits again where there is none (R378). (DEDUCED, log entry 47) -/
def State.resumeHeld (s : State) : State :=
  s.log.held.foldl LogAction.run { s with log := { s.log with held := [] } }

/-- LOG_ACKNOWLEDGE (R378): records below a sequence number may be overwritten; what waited is logged, and takes place. -/
def execLogAcknowledge (upTo : BitVec 64) (s : State) : Host.Outcome State Fault Refusal :=
  event s fun s =>
    let a := s.log
    let s : State := { s with log := { a with
      acked := if a.acked.toNat < upTo.toNat then upTo else a.acked,
      ring := a.ring.filter fun r => decide (upTo.toNat ≤ r.1) } }
    let s := (s.flushLog s.log.waiting).resumeHeld
    if s.log.refusals ≠ 0 ∧ s.log.waiting.isEmpty ∧ s.logRoom 0 then
      let n := s.log.refusals
      ({ s with log := { s.log with refusals := 0 } } : State).appendLog 5 0 (leBytes 8 n)
    else s

/-- The bit of READY (R403). -/
def ReadyBit.index : ReadyBit → Nat
  | .clu n => 40 + n.toNat
  | .cpy n => 36 + n.toNat
  | .reed n => 28 + n.toNat
  | .sedge n => 24 + n.toNat
  | .teth n => 8 + n.toNat
  | .hbm n => n.toNat

/-- A function may report ready (R403): its firmware is verified; a Reed unit after its stack; a trained port.
(DEDUCED, log entry 50) -/
def State.mayBeReady (s : State) (f : ReadyBit) : Bool :=
  s.hasFirmware true && s.hasFirmware false && !s.ready.getLsbD 63 &&
    match f with
    | .clu n => decide (n.toNat < 20)
    | .reed n => s.ready.getLsbD n.toNat
    | .teth n => let st := s.ports[n.toFin].st; st == 2 || st == 3
    | _ => true

/-- FUNCTION_READY (R403): the bit rises, and raises vector 256. (DEDUCED, log entry 50) -/
def execFunctionReady (f : ReadyBit) (s : State) : Host.Outcome State Fault Refusal :=
  event s fun s =>
    let i := ReadyBit.index f
    if s.ready.getLsbD i || !s.mayBeReady f then s
    else ({ s with ready := s.ready ||| (1#64 <<< i), out := s.out ++ [.msix 256] } : State).pumpLinks

/-! ### The fatal state and resets (R388, R405, R409) -/

/-- Entry to the fatal state (R405). (DEDUCED, log entry 50) -/
def State.fatal (s : State) : State :=
  if s.ready.getLsbD 63 then s
  else
    let s : State := { s with ready := BitVec.ofNat 64 (2 ^ 63) }
    let ls := (s.launches.filter fun x => x.state == 2).map Launch.uid
    let s := ls.foldl (fun (s : State) l => s.stopLaunch l (5, 0)) s
    let s := s.zeroiseAll s.kslots
    { s with out := s.out ++ [.msix 256] }

/-- FATAL_STATE (R405). (DEDUCED, log entry 50) -/
def execFatalState (s : State) : Host.Outcome State Fault Refusal := event s State.fatal

/-- BRIDLE_RETRAIN_TIMEOUT (R388): a link that cannot retrain puts the device into its fatal state. -/
def execBridleRetrainTimeout (link : BitVec 3) (s : State) : Host.Outcome State Fault Refusal :=
  event s fun s => (s.updBridle link.toNat fun b => { b with st := 2 }).fatal

/-- The device after a reset: what the host holds and the secure flash keeps stands; device memory is kept or not (R409 says
only that D3cold keeps none). (DESIGN CHOICE, log entry 33) -/
def State.afterReset (s : State) (keep : Bool) : State :=
  { State.reset with
    hostMem := s.hostMem, mem := if keep then s.mem else [], poison := if keep then s.poison else [],
    log := { AccessLog.start with leaf := s.log.leaf, boot := s.log.boot + 1 },
    spdm := { State.reset.spdm with leaf := s.spdm.leaf },
    fresh := s.fresh, turn := s.turn, agenda := s.agenda }

/-- CONVENTIONAL_RESET (R405). (DESIGN CHOICE, log entry 33) -/
def execConventionalReset (s : State) : Host.Outcome State Fault Refusal :=
  event s fun s => s.afterReset (Config.freeBit s.fresh 0)

/-- FUNCTION_LEVEL_RESET (R405). (DESIGN CHOICE, log entry 33) -/
def execFunctionLevelReset (s : State) : Host.Outcome State Fault Refusal :=
  event s fun s => s.afterReset (Config.freeBit s.fresh 0)

/-- D3HOT_ENTRY (R409): every job is cancelled, and every cluster cleared; nothing is set up or dispatched then. (DESIGN CHOICE, log
entry 33) -/
def execD3hotEntry (s : State) : Host.Outcome State Fault Refusal :=
  event s fun s =>
    let ls := (s.launches.filter fun x => decide (x.state < 3)).map Launch.uid
    let s := ls.foldl (fun (s : State) l => s.stopLaunch l (4, 0)) s
    let known := (List.range 20).map s.clusterProt
    ({ s with power := .d3hot, clusters := known } : State).startClear (fun _ => true) fun p => if p.clearing then p.toJob else p.job

/-- D3COLD_EXIT (R409), of a device that has gone from D0 to D3hot, and without power to D3cold. (DESIGN CHOICE, log entry 33) -/
def execD3coldExit (s : State) : Host.Outcome State Fault Refusal :=
  event s fun s => if s.power = .d0 then s else s.afterReset false

end Sys2Proof.Machine
end

