-- ==== Sys2Proof/Machine/Integer.lean ====
section
/-! DEFINITION. Integer, logic, move, compare and predicate instructions (R78 to R89, and their 16-bit forms, R26). -/

namespace Sys2Proof.Machine

/-! ### Shapes -/

/-- A lane-wise vector instruction of two sources: the result of `f` in every active lane, tangents 0 (R78, R80, R81). -/
def vec2 (g : PReg) (m : Marks2) (d a b : Reg) (f : BitVec 32 → BitVec 32 → BitVec 32) (s : State) : Eff :=
  lanewise s g [a, b] (freed2 m a b) [d] fun act t => t.writeV d act (plain s (map2 f (s.readV a) (s.readV b))) 2

/-- A lane-wise vector instruction of one source. -/
def vec1 (g : PReg) (m : Marks1) (d a : Reg) (f : BitVec 32 → BitVec 32) (s : State) : Eff :=
  lanewise s g [a] (freed1 m a) [d] fun act t => t.writeV d act (plain s (map1 f (s.readV a))) 2

/-- A copy of a vector with its tangents (R80, R124); under DL 1 the tangents are 0 (R129). -/
def vecMov (g : PReg) (m : Marks1) (d a : Reg) (s : State) : Eff :=
  lanewise s g [a] (freed1 m a) [d] fun act t => t.writeV d act (s.readDual a) 2

/-- A 16-bit form: destination and first source are one name, guard k0, no marks (R26). -/
def short2 (d b : Reg) (f : BitVec 32 → BitVec 32 → BitVec 32) (s : State) : Eff :=
  vec2 0 { ub := false, ua := false, lb := false, la := false } d d b f s

/-- A scalar instruction of two sources (R81). -/
def scal2 (d a b : Reg) (f : BitVec 64 → BitVec 64 → BitVec 64) (s : State) : Eff :=
  .done (s.writeS d (f (s.readS a) (s.readS b)) 2)

/-- A scalar instruction of one source. -/
def scal1 (d a : Reg) (f : BitVec 64 → BitVec 64) (s : State) : Eff := .done (s.writeS d (f (s.readS a)) 2)

/-! ### Lane functions (R79, R81, R83) -/

/-- Signed minimum. -/
def sMin {w : Nat} (x y : BitVec w) : BitVec w := if x.toInt ≤ y.toInt then x else y
/-- Signed maximum. -/
def sMax {w : Nat} (x y : BitVec w) : BitVec w := if y.toInt ≤ x.toInt then x else y
/-- Upper half of the unsigned product. -/
def mulHigh {w : Nat} (x y : BitVec w) : BitVec w := BitVec.ofNat w (x.toNat * y.toNat / 2 ^ w)
/-- Shift left by y mod w. -/
def shlMod {w : Nat} (x y : BitVec w) : BitVec w := x <<< (y.toNat % w)
/-- Shift right by y mod w with zero fill. -/
def shrMod {w : Nat} (x y : BitVec w) : BitVec w := x >>> (y.toNat % w)
/-- Shift right by y mod w with sign fill. -/
def sarMod {w : Nat} (x y : BitVec w) : BitVec w := x.sshiftRight (y.toNat % w)
/-- Rotate left by y mod w. -/
def rotlMod {w : Nat} (x y : BitVec w) : BitVec w := x.rotateLeft (y.toNat % w)
/-- Absolute value, wrapping. -/
def absWrap {w : Nat} (x : BitVec w) : BitVec w := BitVec.ofInt w (if x.toInt < 0 then -x.toInt else x.toInt)
/-- The 1 bits among the lowest `n`. -/
def countOnes {w : Nat} (x : BitVec w) : Nat → Nat
  | 0 => 0
  | n + 1 => (if x.getLsbD n then 1 else 0) + countOnes x n
/-- The leading 0 bits of the lowest `n`. -/
def leadZeros {w : Nat} (x : BitVec w) : Nat → Nat
  | 0 => 0
  | n + 1 => if x.getLsbD n then 0 else 1 + leadZeros x n
/-- The lowest `n` bits in reverse order. -/
def reverseBits {w : Nat} (x : BitVec w) : Nat → Nat
  | 0 => 0
  | n + 1 => (if x.getLsbD n then 2 ^ (w - 1 - n) else 0) + reverseBits x n
/-- Carry out of a sum. -/
def carryOut (x y : BitVec 32) : BitVec 32 := if 2 ^ 32 ≤ x.toNat + y.toNat then 1 else 0
/-- Borrow of a difference. -/
def borrowOut (x y : BitVec 32) : BitVec 32 := if x.toNat < y.toNat then 1 else 0
/-- A mask of `len1 + 1` ones. -/
def lowOnes (len1 : BitVec 5) : BitVec 32 := BitVec.ofNat 32 (2 ^ (len1.toNat + 1) - 1)
/-- BFX (R83). -/
def bitExtract (pos len1 : BitVec 5) (x : BitVec 32) : BitVec 32 := (x >>> pos.toNat) &&& lowOnes len1
/-- BFI (R83). -/
def bitInsert (pos len1 : BitVec 5) (old x : BitVec 32) : BitVec 32 :=
  let m := lowOnes len1 <<< pos.toNat
  (old &&& ~~~m) ||| ((x <<< pos.toNat) &&& m)

/-! ### Vector forms (R81) -/

/-- ADD (R81). -/
def execAdd (g : PReg) (m : Marks2) (d a b : Reg) (s : State) : Host.Outcome State Fault Refusal :=
  issue s (vec2 g m d a b (fun x y => x + y))

/-- SUB (R81). -/
def execSub (g : PReg) (m : Marks2) (d a b : Reg) (s : State) : Host.Outcome State Fault Refusal :=
  issue s (vec2 g m d a b (fun x y => x - y))

/-- MUL (R81). -/
def execMul (g : PReg) (m : Marks2) (d a b : Reg) (s : State) : Host.Outcome State Fault Refusal :=
  issue s (vec2 g m d a b (fun x y => x * y))

/-- MULHI (R81). -/
def execMulhi (g : PReg) (m : Marks2) (d a b : Reg) (s : State) : Host.Outcome State Fault Refusal :=
  issue s (vec2 g m d a b mulHigh)

/-- IMIN (R81). -/
def execImin (g : PReg) (m : Marks2) (d a b : Reg) (s : State) : Host.Outcome State Fault Refusal :=
  issue s (vec2 g m d a b sMin)

/-- IMAX (R81). -/
def execImax (g : PReg) (m : Marks2) (d a b : Reg) (s : State) : Host.Outcome State Fault Refusal :=
  issue s (vec2 g m d a b sMax)

/-- AND (R81). -/
def execAnd (g : PReg) (m : Marks2) (d a b : Reg) (s : State) : Host.Outcome State Fault Refusal :=
  issue s (vec2 g m d a b (fun x y => x &&& y))

/-- OR (R81). -/
def execOr (g : PReg) (m : Marks2) (d a b : Reg) (s : State) : Host.Outcome State Fault Refusal :=
  issue s (vec2 g m d a b (fun x y => x ||| y))

/-- XOR (R81). -/
def execXor (g : PReg) (m : Marks2) (d a b : Reg) (s : State) : Host.Outcome State Fault Refusal :=
  issue s (vec2 g m d a b (fun x y => x ^^^ y))

/-- ANDN (R81). -/
def execAndn (g : PReg) (m : Marks2) (d a b : Reg) (s : State) : Host.Outcome State Fault Refusal :=
  issue s (vec2 g m d a b (fun x y => x &&& ~~~y))

/-- SHL (R81). -/
def execShl (g : PReg) (m : Marks2) (d a b : Reg) (s : State) : Host.Outcome State Fault Refusal :=
  issue s (vec2 g m d a b shlMod)

/-- SHR (R81). -/
def execShr (g : PReg) (m : Marks2) (d a b : Reg) (s : State) : Host.Outcome State Fault Refusal :=
  issue s (vec2 g m d a b shrMod)

/-- SAR (R81). -/
def execSar (g : PReg) (m : Marks2) (d a b : Reg) (s : State) : Host.Outcome State Fault Refusal :=
  issue s (vec2 g m d a b sarMod)

/-- ROTL (R81). -/
def execRotl (g : PReg) (m : Marks2) (d a b : Reg) (s : State) : Host.Outcome State Fault Refusal :=
  issue s (vec2 g m d a b rotlMod)

/-- ADDC (R81). -/
def execAddc (g : PReg) (m : Marks2) (d a b : Reg) (s : State) : Host.Outcome State Fault Refusal :=
  issue s (vec2 g m d a b carryOut)

/-- SUBB (R81). -/
def execSubb (g : PReg) (m : Marks2) (d a b : Reg) (s : State) : Host.Outcome State Fault Refusal :=
  issue s (vec2 g m d a b borrowOut)

/-- IABS (R81). -/
def execIabs (g : PReg) (m : Marks1) (d a : Reg) (s : State) : Host.Outcome State Fault Refusal :=
  issue s (vec1 g m d a absWrap)

/-- POPC (R81). -/
def execPopc (g : PReg) (m : Marks1) (d a : Reg) (s : State) : Host.Outcome State Fault Refusal :=
  issue s (vec1 g m d a (fun x => BitVec.ofNat 32 (countOnes x 32)))

/-- CLZ (R81). -/
def execClz (g : PReg) (m : Marks1) (d a : Reg) (s : State) : Host.Outcome State Fault Refusal :=
  issue s (vec1 g m d a (fun x => BitVec.ofNat 32 (leadZeros x 32)))

/-- BREV (R81). -/
def execBrev (g : PReg) (m : Marks1) (d a : Reg) (s : State) : Host.Outcome State Fault Refusal :=
  issue s (vec1 g m d a (fun x => BitVec.ofNat 32 (reverseBits x 32)))

/-- MOV (R81); tangents copied (R80). -/
def execMov (g : PReg) (m : Marks1) (d a : Reg) (s : State) : Host.Outcome State Fault Refusal :=
  issue s (vecMov g m d a)

/-- ADDI (R82). -/
def execAddi (g : PReg) (la : Bool) (d a : Reg) (i : BitVec 11) (s : State) : Host.Outcome State Fault Refusal :=
  issue s (vec1 g { ua := false, la := la } d a fun x => x + i.signExtend 32)

/-- MOVI (R82). -/
def execMovi (g : PReg) (d : Reg) (i : BitVec 16) (s : State) : Host.Outcome State Fault Refusal :=
  issue s fun s => lanewise s g [] [] [d] fun act t => t.writeV d act (plain s (Lanes.splat (i.signExtend 32))) 2

/-- MOVHI (R82): the destination is also a source. -/
def execMovhi (g : PReg) (d : Reg) (i : BitVec 16) (s : State) : Host.Outcome State Fault Refusal :=
  issue s fun s => lanewise s g [d] [] [d] fun act t =>
    t.writeV d act (plain s (map1 (fun x => (x <<< 16) ||| i.setWidth 32) (s.readV d))) 2

/-- IMAD (R83). -/
def execImad (g : PReg) (d a b c : Reg) (s : State) : Host.Outcome State Fault Refusal :=
  issue s fun s => lanewise s g [a, b, c] [] [d] fun act t =>
    t.writeV d act (plain s (map3 (fun x y z => x * y + z) (s.readV a) (s.readV b) (s.readV c))) 2

/-- BFX (R83). -/
def execBfx (g : PReg) (d a : Reg) (pos len1 : BitVec 5) (s : State) : Host.Outcome State Fault Refusal :=
  issue s fun s => lanewise s g [a] [] [d] fun act t =>
    t.writeV d act (plain s (map1 (bitExtract pos len1) (s.readV a))) 2

/-- BFI (R83): the destination is also a source. -/
def execBfi (g : PReg) (d a : Reg) (pos len1 : BitVec 5) (s : State) : Host.Outcome State Fault Refusal :=
  issue s fun s => lanewise s g [d, a] [] [d] fun act t =>
    t.writeV d act (plain s (map2 (bitInsert pos len1) (s.readV d) (s.readV a))) 2

/-- SEL (R83): x where the predicate is 1, else y, each with its tangents (R80). -/
def execSel (g : PReg) (d a b : Reg) (k : PReg) (s : State) : Host.Outcome State Fault Refusal :=
  issue s fun s => lanewise s g [a, b] [] [d] fun act t =>
    t.writeV d act (mergeComps (s.readK k) (s.readDual b) (s.readDual a) s.grp.kt) 2

/-- BCAST (R84). -/
def execBcast (g : PReg) (d a : Reg) (s : State) : Host.Outcome State Fault Refusal :=
  issue s fun s => lanewise s g [] [] [d] fun act t =>
    t.writeV d act (plain s (Lanes.splat ((s.readS a).setWidth 32))) 6

/-- LANEGET (R84): the chosen lane with its tangents (R80), active or not. -/
def execLaneget (g : PReg) (m : Marks1) (d a b : Reg) (s : State) : Host.Outcome State Fault Refusal :=
  issue s fun s => lanewise s g [a] (freed1 m a) [d] fun act t =>
    t.writeV d act ((s.readDual a).map fun c => Lanes.splat (c.get ((s.readS b).toNat % 32))) 6

/-- SREAD, vector form (R85). (DESIGN CHOICE, log entry 6) -/
def execSread (g : PReg) (d : Reg) (r : SpecReg) (s : State) : Host.Outcome State Fault Refusal :=
  issue s fun s =>
    let s := s.readTime r
    lanewise s g [] [] [d] fun act t =>
      t.writeV d act (plain s (Vector.ofFn fun l => (s.special r l.val).setWidth 32)) 2

/-! ### Scalar forms (R81, R82) -/

/-- ADD_SCALAR (R81). -/
def execAddScalar (d a b : Reg) (s : State) : Host.Outcome State Fault Refusal :=
  issue s (scal2 d a b (fun x y => x + y))

/-- SUB_SCALAR (R81). -/
def execSubScalar (d a b : Reg) (s : State) : Host.Outcome State Fault Refusal :=
  issue s (scal2 d a b (fun x y => x - y))

/-- MUL_SCALAR (R81). -/
def execMulScalar (d a b : Reg) (s : State) : Host.Outcome State Fault Refusal :=
  issue s (scal2 d a b (fun x y => x * y))

/-- MULHI_SCALAR (R81). -/
def execMulhiScalar (d a b : Reg) (s : State) : Host.Outcome State Fault Refusal :=
  issue s (scal2 d a b mulHigh)

/-- IMIN_SCALAR (R81). -/
def execIminScalar (d a b : Reg) (s : State) : Host.Outcome State Fault Refusal :=
  issue s (scal2 d a b sMin)

/-- IMAX_SCALAR (R81). -/
def execImaxScalar (d a b : Reg) (s : State) : Host.Outcome State Fault Refusal :=
  issue s (scal2 d a b sMax)

/-- AND_SCALAR (R81). -/
def execAndScalar (d a b : Reg) (s : State) : Host.Outcome State Fault Refusal :=
  issue s (scal2 d a b (fun x y => x &&& y))

/-- OR_SCALAR (R81). -/
def execOrScalar (d a b : Reg) (s : State) : Host.Outcome State Fault Refusal :=
  issue s (scal2 d a b (fun x y => x ||| y))

/-- XOR_SCALAR (R81). -/
def execXorScalar (d a b : Reg) (s : State) : Host.Outcome State Fault Refusal :=
  issue s (scal2 d a b (fun x y => x ^^^ y))

/-- ANDN_SCALAR (R81). -/
def execAndnScalar (d a b : Reg) (s : State) : Host.Outcome State Fault Refusal :=
  issue s (scal2 d a b (fun x y => x &&& ~~~y))

/-- SHL_SCALAR (R81). -/
def execShlScalar (d a b : Reg) (s : State) : Host.Outcome State Fault Refusal :=
  issue s (scal2 d a b shlMod)

/-- SHR_SCALAR (R81). -/
def execShrScalar (d a b : Reg) (s : State) : Host.Outcome State Fault Refusal :=
  issue s (scal2 d a b shrMod)

/-- SAR_SCALAR (R81). -/
def execSarScalar (d a b : Reg) (s : State) : Host.Outcome State Fault Refusal :=
  issue s (scal2 d a b sarMod)

/-- ROTL_SCALAR (R81). -/
def execRotlScalar (d a b : Reg) (s : State) : Host.Outcome State Fault Refusal :=
  issue s (scal2 d a b rotlMod)

/-- MOV_SCALAR (R81). -/
def execMovScalar (d a : Reg) (s : State) : Host.Outcome State Fault Refusal := issue s (scal1 d a id)

/-- SREAD_SCALAR (R85). -/
def execSreadScalar (d : Reg) (r : SpecReg) (s : State) : Host.Outcome State Fault Refusal :=
  issue s fun s =>
    let s := s.readTime r
    .done (s.writeS d (s.special r 0) 2)

/-- ADDI_SCALAR (R82). -/
def execAddiScalar (d a : Reg) (i : BitVec 11) (s : State) : Host.Outcome State Fault Refusal :=
  issue s (scal1 d a fun x => x + i.signExtend 64)

/-- MOVI_SCALAR (R82). -/
def execMoviScalar (d : Reg) (i : BitVec 16) (s : State) : Host.Outcome State Fault Refusal :=
  issue s fun s => .done (s.writeS d (i.signExtend 64) 2)

/-- MOVHI_SCALAR (R82). -/
def execMovhiScalar (d : Reg) (i : BitVec 16) (s : State) : Host.Outcome State Fault Refusal :=
  issue s (scal1 d d fun x => (x <<< 16) ||| i.setWidth 64)

/-! ### Comparisons and predicates (R87 to R89) -/

/-- ICMP (R87). -/
def execIcmp (g : PReg) (m : Marks2) (cc : ICond) (d : PReg) (a b : Reg) (s : State) : Host.Outcome State Fault Refusal :=
  issue s fun s =>
    let t := (s.touch [a, b]).freeNames (freed2 m a b)
    .done (t.writeK d (s.active g) (laneMask fun l => icond cc ((s.readV a).get l) ((s.readV b).get l)) 2)

/-- ICMP_SCALAR (R87). -/
def execIcmpScalar (cc : ICond) (d : PReg) (a b : Reg) (s : State) : Host.Outcome State Fault Refusal :=
  issue s fun s =>
    .done (s.writeK d (BitVec.allOnes 32) (if icond cc (s.readS a) (s.readS b) then BitVec.allOnes 32 else 0) 2)

/-- ICMPI (R88). -/
def execIcmpi (g : PReg) (la : Bool) (cc : ICond4) (d : PReg) (a : Reg) (i : BitVec 11) (s : State) : Host.Outcome State Fault Refusal :=
  issue s fun s =>
    let t := (s.touch [a]).freeNames (if la then [a] else [])
    .done (t.writeK d (s.active g) (laneMask fun l => icond (ICond4.toICond cc) ((s.readV a).get l) (i.signExtend 32)) 2)

/-- KAND (R89). -/
def execKand (g d a b : PReg) (s : State) : Host.Outcome State Fault Refusal :=
  issue s (pred2 g d a b fun x y => x &&& y)

/-- KOR (R89). -/
def execKor (g d a b : PReg) (s : State) : Host.Outcome State Fault Refusal :=
  issue s (pred2 g d a b fun x y => x ||| y)

/-- KXOR (R89). -/
def execKxor (g d a b : PReg) (s : State) : Host.Outcome State Fault Refusal :=
  issue s (pred2 g d a b fun x y => x ^^^ y)

/-- KNOT (R89). -/
def execKnot (g d a : PReg) (s : State) : Host.Outcome State Fault Refusal :=
  issue s fun s => .done (s.writeK d (s.active g) (~~~(s.readK a)) 2)

/-- KMOV (R89). -/
def execKmov (g d a : PReg) (s : State) : Host.Outcome State Fault Refusal :=
  issue s fun s => .done (s.writeK d (s.active g) (s.readK a) 2)

/-- KFROMS (R89). -/
def execKfroms (g d : PReg) (a : Reg) (s : State) : Host.Outcome State Fault Refusal :=
  issue s fun s => .done (s.writeK d (s.active g) ((s.readS a).setWidth 32) 2)

/-- KTOS (R89). -/
def execKtos (d : Reg) (a : PReg) (s : State) : Host.Outcome State Fault Refusal :=
  issue s fun s => .done (s.writeS d ((s.readK a).setWidth 64) 2)

/-! ### 16-bit forms (R26) -/

/-- MOV_16BIT (R26). -/
def execMov16bit (d b : Reg) (s : State) : Host.Outcome State Fault Refusal := issue s (vecMov 0 { ua := false, la := false } d b)

/-- MOVI_16BIT (R26). -/
def execMovi16bit (d : Reg) (i : BitVec 5) (s : State) : Host.Outcome State Fault Refusal :=
  issue s fun s => lanewise s 0 [] [] [d] fun act t => t.writeV d act (plain s (Lanes.splat (i.signExtend 32))) 2

/-- ADDI_16BIT (R26). -/
def execAddi16bit (d : Reg) (i : BitVec 5) (s : State) : Host.Outcome State Fault Refusal :=
  issue s (vec1 0 { ua := false, la := false } d d fun x => x + i.signExtend 32)

/-- ADD_16BIT (R26). -/
def execAdd16bit (d b : Reg) (s : State) : Host.Outcome State Fault Refusal := issue s (short2 d b (fun x y => x + y))

/-- SUB_16BIT (R26). -/
def execSub16bit (d b : Reg) (s : State) : Host.Outcome State Fault Refusal := issue s (short2 d b (fun x y => x - y))

/-- AND_16BIT (R26). -/
def execAnd16bit (d b : Reg) (s : State) : Host.Outcome State Fault Refusal := issue s (short2 d b (fun x y => x &&& y))

/-- OR_16BIT (R26). -/
def execOr16bit (d b : Reg) (s : State) : Host.Outcome State Fault Refusal := issue s (short2 d b (fun x y => x ||| y))

/-- XOR_16BIT (R26). -/
def execXor16bit (d b : Reg) (s : State) : Host.Outcome State Fault Refusal := issue s (short2 d b (fun x y => x ^^^ y))

/-- SHL_16BIT (R26). -/
def execShl16bit (d b : Reg) (s : State) : Host.Outcome State Fault Refusal := issue s (short2 d b shlMod)

/-- SHR_16BIT (R26). -/
def execShr16bit (d b : Reg) (s : State) : Host.Outcome State Fault Refusal := issue s (short2 d b shrMod)

/-- IMIN_16BIT (R26). -/
def execImin16bit (d b : Reg) (s : State) : Host.Outcome State Fault Refusal := issue s (short2 d b sMin)

/-- IMAX_16BIT (R26). -/
def execImax16bit (d b : Reg) (s : State) : Host.Outcome State Fault Refusal := issue s (short2 d b sMax)

end Sys2Proof.Machine
end

