-- ==== Sys2Proof/Machine/Lane.lean ====
section
/-! DEFINITION. Lane exchange, votes, scans and reductions, and the execution mask (R149 to R152). -/

namespace Sys2Proof.Machine

/-- SHFL: every component from lane `src l` (R150). -/
def shuffle (g : PReg) (reads frees : List Reg) (d a : Reg) (src : Nat → Nat) (s : State) : Eff :=
  lanewise s g reads frees [d] fun act t =>
    t.writeV d act ((s.readDual a).map fun c => Vector.ofFn fun l => c.get (src l.val)) 6

/-- A vector result that every active lane receives, of the active lanes' sources (R151). -/
def laneFold (g : PReg) (d a : Reg) (f : State → List Nat → Nat → BitVec 32) (s : State) : Eff :=
  lanewise s g [a] [] [d] fun act t =>
    t.writeV d act (plain s (Vector.ofFn fun l => f s (lanesOf act) l.val)) 6

/-- A reduction: the fold of the active lanes' values from the lowest (R151). -/
def redux (g : PReg) (d a : Reg) (f : BitVec 32 → BitVec 32 → BitVec 32) (s : State) : Eff :=
  laneFold g d a (fun s ls _ =>
    match ls.map fun l => (s.readV a).get l with
    | [] => 0
    | x :: t => t.foldl f x) s

/-- A vote: the predicate bits of the active lanes decide one bit for all of them (R151). -/
def vote (g d a : PReg) (f : Mask → Mask → Bool) (s : State) : Eff :=
  let act := s.active g
  .done (s.writeK d act (if f (s.readK a) act then BitVec.allOnes 32 else 0) 6)

/-- Signed minimum of lanes. -/
def lmin (x y : BitVec 32) : BitVec 32 := if x.toInt ≤ y.toInt then x else y
/-- Signed maximum of lanes. -/
def lmax (x y : BitVec 32) : BitVec 32 := if y.toInt ≤ x.toInt then x else y

/-- SHFL_IDX (R150). -/
def execShflIdx (g : PReg) (m : Marks2) (d a b : Reg) (s : State) : Host.Outcome State Fault Refusal :=
  issue s fun s => shuffle g [a, b] (freed2 m a b) d a (fun l => ((s.readV b).get l).toNat % 32) s

/-- SHFL_UP (R150). -/
def execShflUp (g : PReg) (m : Marks1) (d a : Reg) (n : BitVec 5) (s : State) : Host.Outcome State Fault Refusal :=
  issue s (shuffle g [a] (freed1 m a) d a fun l => if n.toNat ≤ l then l - n.toNat else l)

/-- SHFL_DOWN (R150). -/
def execShflDown (g : PReg) (m : Marks1) (d a : Reg) (n : BitVec 5) (s : State) : Host.Outcome State Fault Refusal :=
  issue s (shuffle g [a] (freed1 m a) d a fun l => if l + n.toNat ≤ 31 then l + n.toNat else l)

/-- SHFL_XOR (R150). -/
def execShflXor (g : PReg) (m : Marks1) (d a : Reg) (n : BitVec 5) (s : State) : Host.Outcome State Fault Refusal :=
  issue s (shuffle g [a] (freed1 m a) d a fun l => l ^^^ n.toNat)

/-- VOTE_ANY (R151). -/
def execVoteAny (g d a : PReg) (s : State) : Host.Outcome State Fault Refusal :=
  issue s (vote g d a fun p act => p &&& act != 0)

/-- VOTE_ALL (R151). -/
def execVoteAll (g d a : PReg) (s : State) : Host.Outcome State Fault Refusal :=
  issue s (vote g d a fun p act => p &&& act == act)

/-- VOTE_BAL (R151). -/
def execVoteBal (g : PReg) (d : Reg) (a : PReg) (s : State) : Host.Outcome State Fault Refusal :=
  issue s fun s => lanewise s g [] [] [d] fun act t =>
    t.writeV d act (plain s (Lanes.splat (s.readK a &&& act))) 6

/-- ELECT (R151). -/
def execElect (g : PReg) (d : PReg) (s : State) : Host.Outcome State Fault Refusal :=
  issue s fun s =>
    let act := s.active g
    .done (s.writeK d act (match lowestLane act with | some l => 1#32 <<< l | none => 0) 6)

/-- LSCAN (R151): the sum of the active lanes below, exclusive. -/
def execLscan (g : PReg) (d a : Reg) (s : State) : Host.Outcome State Fault Refusal :=
  issue s (laneFold g d a fun s ls l =>
    ((ls.filter fun m => decide (m < l)).map fun m => (s.readV a).get m).foldl (fun x y => x + y) 0)

/-- REDUX_ADD (R151). -/
def execReduxAdd (g : PReg) (d a : Reg) (s : State) : Host.Outcome State Fault Refusal :=
  issue s (redux g d a (fun x y => x + y))

/-- REDUX_MIN (R151). -/
def execReduxMin (g : PReg) (d a : Reg) (s : State) : Host.Outcome State Fault Refusal :=
  issue s (redux g d a lmin)

/-- REDUX_MAX (R151). -/
def execReduxMax (g : PReg) (d a : Reg) (s : State) : Host.Outcome State Fault Refusal :=
  issue s (redux g d a lmax)

/-- REDUX_AND (R151). -/
def execReduxAnd (g : PReg) (d a : Reg) (s : State) : Host.Outcome State Fault Refusal :=
  issue s (redux g d a (fun x y => x &&& y))

/-- REDUX_OR (R151). -/
def execReduxOr (g : PReg) (d a : Reg) (s : State) : Host.Outcome State Fault Refusal :=
  issue s (redux g d a (fun x y => x ||| y))

/-- REDUX_XOR (R151). -/
def execReduxXor (g : PReg) (d a : Reg) (s : State) : Host.Outcome State Fault Refusal :=
  issue s (redux g d a (fun x y => x ^^^ y))

/-- EMGET (R134, R152). -/
def execEmget (g : PReg) (d : Reg) (s : State) : Host.Outcome State Fault Refusal :=
  issue s fun s => lanewise s g [] [] [d] fun act t =>
    t.writeV d act (plain s (Lanes.splat (s.frag.em &&& s.frag.lanes))) 2

/-- EMSET (R134, R152): the fragment's lanes only. -/
def execEmset (a : Reg) (s : State) : Host.Outcome State Fault Refusal :=
  issue s fun s =>
    .done { s with frag := { s.frag with
      em := (s.readS a).setWidth 32 &&& s.frag.lanes } }

end Sys2Proof.Machine
end

