-- ==== Sys2Proof/Machine/Traps.lean ====
section
/-! DEFINITION. TRAP and the returns, system registers, SEGLD and watchpoints (R336 to R343). Taking an exception itself
is `State.raise` (Ops.lean). -/

namespace Sys2Proof.Machine

/-- TRAP (R338). -/
def execTrap (n : BitVec 10) (s : State) : Host.Outcome State Fault Refusal :=
  issue s fun _ => .trap { code := 26, addr := 0, mask := 0, info := n.setWidth 16 }

/-- The fragment that leaves its handler goes on at `t`, where it may arrive at its join; SUPP, if it is set, is for the fragment that
issues there then, fused with others or not (R139, R337). -/
def State.returned (s : State) (supp : Bool) (t : VA) : State :=
  let u := s.leaveTrap.retire
  let u := u.setGrp fun g => if supp then { g with supp := true, handler := some u.frag.entry } else g
  (State.arrive { u with frag := { u.frag with pc := t } }).stepDone

/-- Return from the handler to `t`; a TEPC that SYSWR has written is checked as a branch target (R337, R341). -/
def returnTo (s : State) (supp : Bool) (t : VA) : Eff :=
  let go : Eff := .stay (s.returned supp t)
  if s.grp.tepcWritten then
    match s.checkTarget s.grp.tepc with
    | .ok => go
    | .bad => .trap (excTarget (s.grp.tepc.setWidth 64))
    | .lease => .lease
    | .wait => .stall (s.myWalk (bundleBase s.grp.tepc))
  else go

/-- ERET resumes the recorded wait, if there is one (R337, R349). -/
def returnWith (s : State) (k : Eff) : Eff :=
  if s.grp.tmode then
    match s.grp.resumes with
    | some w => .stay ((s.leaveTrap.goesOn w.addr).resumeWait w)
    | none => k
  else .trap excIllegal

/-- ERET (R337). (DEDUCED, log entry 20) -/
def execEret (s : State) : Host.Outcome State Fault Refusal :=
  issue s fun s => returnWith s (returnTo s true s.grp.tepc)

/-- The address after what stands at an address (R337). -/
def skipTarget (b : Bundle) (a : VA) : VA :=
  if b.ok then
    let n := a + BitVec.ofNat 52 (b.skipFrom a)
    if n.toNat % 32 = 0 then n + 4 else n
  else BitVec.ofNat 52 (bundleBase a) + 36

/-- ERET_SKIP (R337). (DEDUCED, log entry 20) -/
def execEretSkip (s : State) : Host.Outcome State Fault Refusal :=
  issue s fun s => returnWith s (match s.fetch s.grp.tepc with
    | .lease => .lease
    | .wait => .stall (s.myWalk (bundleBase s.grp.tepc))
    | .bundle b => returnTo s false (skipTarget b s.grp.tepc))

/-- TSTATE (R333). -/
def Group.tstate (g : Group) : Nat :=
  (if g.waitr then 8 else 0) + (if g.pend then 4 else 0) + (if g.supp then 2 else 0) + (if g.tmode then 1 else 0)

/-- A system register (R341). -/
def Group.sysReg (g : Group) : SysReg → BitVec 64
  | .tcause => g.tcause
  | .taddr => g.taddr
  | .tmask => g.tmask.setWidth 64
  | .tepc => g.tepc.setWidth 64
  | .tem => g.tem.setWidth 64
  | .tstate => BitVec.ofNat 64 g.tstate
  | .cst => g.cst.setWidth 64

/-- SYSRD (R341). -/
def execSysrd (c : SysReg) (d : Reg) (s : State) : Host.Outcome State Fault Refusal :=
  issue s fun s => .done (s.writeS d (s.grp.sysReg c) 2)

/-- SYSWR (R341). -/
def execSyswr (c : SysReg) (a : Reg) (s : State) : Host.Outcome State Fault Refusal :=
  issue s fun s =>
    let x := s.readS a
    match c with
    | .tepc =>
      if s.grp.tmode then
        .done (s.setGrp fun g => { g with tepc := x.setWidth 52 &&& ~~~1#52, tepcWritten := true })
      else .trap (exc 23)
    | .tem => if s.grp.tmode then .done (s.setGrp fun g => { g with tem := x.setWidth 32 }) else .trap (exc 23)
    | .cst => .done (s.setGrp fun g => { g with cst := g.cst &&& ~~~(x.setWidth 4) })
    | _ => .trap (exc 23)

/-- A segment descriptor that SEGLD may load as sgN (R343). -/
def descriptorOk (n : Nat) (lo hi : BitVec 64) : Bool :=
  n != 1 && n != 2 && n != 5 && lo.toNat / 2 ^ 52 == 0 && hi.toNat / 2 ^ 52 == 0
    && decide (lo.toNat + hi.toNat ≤ 2 ^ 52) && (n != 3 || hi.toNat % 16 == 0)

/-- SEGLD (R342, R343): it waits for earlier accesses of the group to the descriptor's bytes, reads it and checks it. -/
def execSegld (a : Reg) (n : BitVec 3) (s : State) : Host.Outcome State Fault Refusal :=
  issue s fun s =>
    if !s.grp.priv then .trap (exc 23)
    else
      let x := s.readS a
      let o := x.toNat % 2 ^ 52
      match s.checkRecord x 16 with
      | .stop e => e
      | .ok accs =>
        let ps := accs.flatMap Acc.locs
        if s.busyLocs ps then .stall s
        else
          let bs := s.readNow ps
          let lo := BitVec.ofNat 64 (leNat (bs.take 8))
          let hi := BitVec.ofNat 64 (leNat (bs.drop 8))
          if descriptorOk n.toNat lo hi then
            .done ((s.readAtIssue ps).setGrp fun g => { g with
              sg := g.sg.set n.toNat { base := lo.setWidth 52, limit := hi.setWidth 52 } n.isLt })
          else .trap { code := 7, addr := BitVec.ofNat 64 o, mask := 0, info := 0 }

/-- WPSET (R340). -/
def execWpset (k : WpKind) (b : Reg) (a : BitVec 4) (n : BitVec 2) (s : State) : Host.Outcome State Fault Refusal :=
  issue s fun s =>
    let r : Reg := a ++ 0#1
    let w : Watch := { kind := k, lo := s.readS r, hi := s.readS (r + 1), table := (s.readS b).setWidth 16, en := true }
    .done (s.setGrp fun g => { g with w := g.w.set n.toNat w n.isLt })

/-- WPCLR (R336). -/
def execWpclr (n : BitVec 2) (s : State) : Host.Outcome State Fault Refusal :=
  issue s fun s => .done (s.setGrp fun g => { g with w := g.w.set n.toNat Watch.off n.isLt })

end Sys2Proof.Machine
end

