-- ==== Sys2Proof/Machine/Dispatch.lean ====
section
/-! DEFINITION. The meaning of every instruction and event: one arm per constructor of Instr. -/

namespace Sys2Proof.Machine

def exec (i : Instr) (s : State) : Host.Outcome State Fault Refusal :=
  match i with
  | .bra g o => Sys2Proof.Machine.execBra g o s
  | .call o => Sys2Proof.Machine.execCall o s
  | .bri a => Sys2Proof.Machine.execBri a s
  | .calli a => Sys2Proof.Machine.execCalli a s
  | .trap n => Sys2Proof.Machine.execTrap n s
  | .wpclr n => Sys2Proof.Machine.execWpclr n s
  | .join o => Sys2Proof.Machine.execJoin o s
  | .wait mx cp st ld => Sys2Proof.Machine.execWait mx cp st ld s
  | .waitAny mx cp st ld => Sys2Proof.Machine.execWaitAny mx cp st ld s
  | .pushm c scalar free d => Sys2Proof.Machine.execPushm c scalar free d s
  | .popm c scalar d => Sys2Proof.Machine.execPopm c scalar d s
  | .spget d => Sys2Proof.Machine.execSpget d s
  | .spset a => Sys2Proof.Machine.execSpset a s
  | .sysrd c d => Sys2Proof.Machine.execSysrd c d s
  | .syswr c a => Sys2Proof.Machine.execSyswr c a s
  | .segld a n => Sys2Proof.Machine.execSegld a n s
  | .wpset k b a n => Sys2Proof.Machine.execWpset k b a n s
  | .add g m d a b => Sys2Proof.Machine.execAdd g m d a b s
  | .sub g m d a b => Sys2Proof.Machine.execSub g m d a b s
  | .mul g m d a b => Sys2Proof.Machine.execMul g m d a b s
  | .mulhi g m d a b => Sys2Proof.Machine.execMulhi g m d a b s
  | .imin g m d a b => Sys2Proof.Machine.execImin g m d a b s
  | .imax g m d a b => Sys2Proof.Machine.execImax g m d a b s
  | .iabs g m d a => Sys2Proof.Machine.execIabs g m d a s
  | .popc g m d a => Sys2Proof.Machine.execPopc g m d a s
  | .and g m d a b => Sys2Proof.Machine.execAnd g m d a b s
  | .or g m d a b => Sys2Proof.Machine.execOr g m d a b s
  | .xor g m d a b => Sys2Proof.Machine.execXor g m d a b s
  | .andn g m d a b => Sys2Proof.Machine.execAndn g m d a b s
  | .shl g m d a b => Sys2Proof.Machine.execShl g m d a b s
  | .shr g m d a b => Sys2Proof.Machine.execShr g m d a b s
  | .sar g m d a b => Sys2Proof.Machine.execSar g m d a b s
  | .rotl g m d a b => Sys2Proof.Machine.execRotl g m d a b s
  | .clz g m d a => Sys2Proof.Machine.execClz g m d a s
  | .brev g m d a => Sys2Proof.Machine.execBrev g m d a s
  | .addc g m d a b => Sys2Proof.Machine.execAddc g m d a b s
  | .subb g m d a b => Sys2Proof.Machine.execSubb g m d a b s
  | .mov g m d a => Sys2Proof.Machine.execMov g m d a s
  | .bcast g d a => Sys2Proof.Machine.execBcast g d a s
  | .laneget g m d a b => Sys2Proof.Machine.execLaneget g m d a b s
  | .sread g d r => Sys2Proof.Machine.execSread g d r s
  | .imad g d a b c => Sys2Proof.Machine.execImad g d a b c s
  | .bfx g d a pos len1 => Sys2Proof.Machine.execBfx g d a pos len1 s
  | .bfi g d a pos len1 => Sys2Proof.Machine.execBfi g d a pos len1 s
  | .sel g d a b k => Sys2Proof.Machine.execSel g d a b k s
  | .addi g la d a imm => Sys2Proof.Machine.execAddi g la d a imm s
  | .movi g d imm => Sys2Proof.Machine.execMovi g d imm s
  | .movhi g d imm => Sys2Proof.Machine.execMovhi g d imm s
  | .addScalar d a b => Sys2Proof.Machine.execAddScalar d a b s
  | .subScalar d a b => Sys2Proof.Machine.execSubScalar d a b s
  | .mulScalar d a b => Sys2Proof.Machine.execMulScalar d a b s
  | .mulhiScalar d a b => Sys2Proof.Machine.execMulhiScalar d a b s
  | .iminScalar d a b => Sys2Proof.Machine.execIminScalar d a b s
  | .imaxScalar d a b => Sys2Proof.Machine.execImaxScalar d a b s
  | .movScalar d a => Sys2Proof.Machine.execMovScalar d a s
  | .sreadScalar d r => Sys2Proof.Machine.execSreadScalar d r s
  | .andScalar d a b => Sys2Proof.Machine.execAndScalar d a b s
  | .orScalar d a b => Sys2Proof.Machine.execOrScalar d a b s
  | .xorScalar d a b => Sys2Proof.Machine.execXorScalar d a b s
  | .andnScalar d a b => Sys2Proof.Machine.execAndnScalar d a b s
  | .shlScalar d a b => Sys2Proof.Machine.execShlScalar d a b s
  | .shrScalar d a b => Sys2Proof.Machine.execShrScalar d a b s
  | .sarScalar d a b => Sys2Proof.Machine.execSarScalar d a b s
  | .rotlScalar d a b => Sys2Proof.Machine.execRotlScalar d a b s
  | .addiScalar d a imm => Sys2Proof.Machine.execAddiScalar d a imm s
  | .moviScalar d imm => Sys2Proof.Machine.execMoviScalar d imm s
  | .movhiScalar d imm => Sys2Proof.Machine.execMovhiScalar d imm s
  | .icmp g m cc d a b => Sys2Proof.Machine.execIcmp g m cc d a b s
  | .icmpScalar cc d a b => Sys2Proof.Machine.execIcmpScalar cc d a b s
  | .icmpi g la cc d a imm => Sys2Proof.Machine.execIcmpi g la cc d a imm s
  | .kand g d a b => Sys2Proof.Machine.execKand g d a b s
  | .kor g d a b => Sys2Proof.Machine.execKor g d a b s
  | .kxor g d a b => Sys2Proof.Machine.execKxor g d a b s
  | .shflIdx g m d a b => Sys2Proof.Machine.execShflIdx g m d a b s
  | .shflUp g m d a n => Sys2Proof.Machine.execShflUp g m d a n s
  | .shflDown g m d a n => Sys2Proof.Machine.execShflDown g m d a n s
  | .shflXor g m d a n => Sys2Proof.Machine.execShflXor g m d a n s
  | .knot g d a => Sys2Proof.Machine.execKnot g d a s
  | .kmov g d a => Sys2Proof.Machine.execKmov g d a s
  | .kfroms g d a => Sys2Proof.Machine.execKfroms g d a s
  | .ktos d a => Sys2Proof.Machine.execKtos d a s
  | .emget g d => Sys2Proof.Machine.execEmget g d s
  | .emset a => Sys2Proof.Machine.execEmset a s
  | .voteAny g d a => Sys2Proof.Machine.execVoteAny g d a s
  | .voteAll g d a => Sys2Proof.Machine.execVoteAll g d a s
  | .voteBal g d a => Sys2Proof.Machine.execVoteBal g d a s
  | .elect g d => Sys2Proof.Machine.execElect g d s
  | .lscan g d a => Sys2Proof.Machine.execLscan g d a s
  | .reduxAdd g d a => Sys2Proof.Machine.execReduxAdd g d a s
  | .reduxMin g d a => Sys2Proof.Machine.execReduxMin g d a s
  | .reduxMax g d a => Sys2Proof.Machine.execReduxMax g d a s
  | .reduxAnd g d a => Sys2Proof.Machine.execReduxAnd g d a s
  | .reduxOr g d a => Sys2Proof.Machine.execReduxOr g d a s
  | .reduxXor g d a => Sys2Proof.Machine.execReduxXor g d a s
  | .fadd g m d a b => Sys2Proof.Machine.execFadd g m d a b s
  | .fsub g m d a b => Sys2Proof.Machine.execFsub g m d a b s
  | .fmul g m d a b => Sys2Proof.Machine.execFmul g m d a b s
  | .fmin g m d a b => Sys2Proof.Machine.execFmin g m d a b s
  | .fmax g m d a b => Sys2Proof.Machine.execFmax g m d a b s
  | .fabs g m d a => Sys2Proof.Machine.execFabs g m d a s
  | .fneg g m d a => Sys2Proof.Machine.execFneg g m d a s
  | .frnd g m mode d a => Sys2Proof.Machine.execFrnd g m mode d a s
  | .ffma g d a b c => Sys2Proof.Machine.execFfma g d a b c s
  | .hfma2 g d a b c => Sys2Proof.Machine.execHfma2 g d a b c s
  | .fdot4 g d a b c => Sys2Proof.Machine.execFdot4 g d a b c s
  | .fcmp g m cc d a b => Sys2Proof.Machine.execFcmp g m cc d a b s
  | .frcp g m d a => Sys2Proof.Machine.execFrcp g m d a s
  | .frsq g m d a => Sys2Proof.Machine.execFrsq g m d a s
  | .fsqrt g m d a => Sys2Proof.Machine.execFsqrt g m d a s
  | .fexp2 g m d a => Sys2Proof.Machine.execFexp2 g m d a s
  | .flog2 g m d a => Sys2Proof.Machine.execFlog2 g m d a s
  | .fsin g m d a => Sys2Proof.Machine.execFsin g m d a s
  | .fcos g m d a => Sys2Proof.Machine.execFcos g m d a s
  | .ftanh g m d a => Sys2Proof.Machine.execFtanh g m d a s
  | .hadd2 g m d a b => Sys2Proof.Machine.execHadd2 g m d a b s
  | .hmul2 g m d a b => Sys2Proof.Machine.execHmul2 g m d a b s
  | .fldexp g m d a b => Sys2Proof.Machine.execFldexp g m d a b s
  | .pack g m d a b => Sys2Proof.Machine.execPack g m d a b s
  | .unpk g m d a imm => Sys2Proof.Machine.execUnpk g m d a imm s
  | .fmtset a b => Sys2Proof.Machine.execFmtset a b s
  | .fmtget d => Sys2Proof.Machine.execFmtget d s
  | .fcvt g dst src d a => Sys2Proof.Machine.execFcvt g dst src d a s
  | .icvt g dst src d a => Sys2Proof.Machine.execIcvt g dst src d a s
  | .ftoi g dst src d a => Sys2Proof.Machine.execFtoi g dst src d a s
  | .tseed g j d a b => Sys2Proof.Machine.execTseed g j d a b s
  | .tget g j d a => Sys2Proof.Machine.execTget g j d a s
  | .tset g j d b => Sys2Proof.Machine.execTset g j d b s
  | .tzero g j d => Sys2Proof.Machine.execTzero g j d s
  | .tcnt d => Sys2Proof.Machine.execTcnt d s
  | .scbind x b => Sys2Proof.Machine.execScbind x b s
  | .scmov x y => Sys2Proof.Machine.execScmov x y s
  | .scset x j b => Sys2Proof.Machine.execScset x j b s
  | .scget x j b => Sys2Proof.Machine.execScget x j b s
  | .scmul x y => Sys2Proof.Machine.execScmul x y s
  | .scmax x y => Sys2Proof.Machine.execScmax x y s
  | .screl x => Sys2Proof.Machine.execScrel x s
  | .ld g w sc ord d a b => Sys2Proof.Machine.execLd g w sc ord d a b s
  | .st g w sc ord d a b => Sys2Proof.Machine.execSt g w sc ord d a b s
  | .lds g w d a b => Sys2Proof.Machine.execLds g w d a b s
  | .sts g w d a b => Sys2Proof.Machine.execSts g w d a b s
  | .ldc w disp d b => Sys2Proof.Machine.execLdc w disp d b s
  | .ldr g q w d a b => Sys2Proof.Machine.execLdr g q w d a b s
  | .str g q w d a b => Sys2Proof.Machine.execStr g q w d a b s
  | .qapp q d b => Sys2Proof.Machine.execQapp q d b s
  | .qpop q d a => Sys2Proof.Machine.execQpop q d a s
  | .atomAddW32 g m d a b => Sys2Proof.Machine.execAtomAddW32 g m d a b s
  | .atomMinW32 g m d a b => Sys2Proof.Machine.execAtomMinW32 g m d a b s
  | .atomMaxW32 g m d a b => Sys2Proof.Machine.execAtomMaxW32 g m d a b s
  | .atomAndW32 g m d a b => Sys2Proof.Machine.execAtomAndW32 g m d a b s
  | .atomOrW32 g m d a b => Sys2Proof.Machine.execAtomOrW32 g m d a b s
  | .atomXorW32 g m d a b => Sys2Proof.Machine.execAtomXorW32 g m d a b s
  | .atomXchgW32 g m d a b => Sys2Proof.Machine.execAtomXchgW32 g m d a b s
  | .atomF32 g m d a b => Sys2Proof.Machine.execAtomF32 g m d a b s
  | .atomAddW64 g m d a b => Sys2Proof.Machine.execAtomAddW64 g m d a b s
  | .atomMinW64 g m d a b => Sys2Proof.Machine.execAtomMinW64 g m d a b s
  | .atomMaxW64 g m d a b => Sys2Proof.Machine.execAtomMaxW64 g m d a b s
  | .atomAndW64 g m d a b => Sys2Proof.Machine.execAtomAndW64 g m d a b s
  | .atomOrW64 g m d a b => Sys2Proof.Machine.execAtomOrW64 g m d a b s
  | .atomXorW64 g m d a b => Sys2Proof.Machine.execAtomXorW64 g m d a b s
  | .atomXchgW64 g m d a b => Sys2Proof.Machine.execAtomXchgW64 g m d a b s
  | .arwRd g sc d a b => Sys2Proof.Machine.execArwRd g sc d a b s
  | .arwRdx g sc d a b => Sys2Proof.Machine.execArwRdx g sc d a b s
  | .arwWr g sc d a b => Sys2Proof.Machine.execArwWr g sc d a b s
  | .arwWrx g sc d a b => Sys2Proof.Machine.execArwWrx g sc d a b s
  | .acasW32 g d a b c => Sys2Proof.Machine.execAcasW32 g d a b c s
  | .acasW64 g d a b c => Sys2Proof.Machine.execAcasW64 g d a b c s
  | .fence sc => Sys2Proof.Machine.execFence sc s
  | .qfree q b => Sys2Proof.Machine.execQfree q b s
  | .tfind g d a b => Sys2Proof.Machine.execTfind g d a b s
  | .tins g d a b => Sys2Proof.Machine.execTins g d a b s
  | .trepl g d a b => Sys2Proof.Machine.execTrepl g d a b s
  | .tdel g d a b => Sys2Proof.Machine.execTdel g d a b s
  | .tfindQ g d a b => Sys2Proof.Machine.execTfindQ g d a b s
  | .tinsQ g d a b => Sys2Proof.Machine.execTinsQ g d a b s
  | .treplQ g d a b => Sys2Proof.Machine.execTreplQ g d a b s
  | .tdelQ g d a b => Sys2Proof.Machine.execTdelQ g d a b s
  | .tscan g cur a b c => Sys2Proof.Machine.execTscan g cur a b c s
  | .tnext g cur n1 d b => Sys2Proof.Machine.execTnext g cur n1 d b s
  | .tclose g cur => Sys2Proof.Machine.execTclose g cur s
  | .tstat sel d b => Sys2Proof.Machine.execTstat sel d b s
  | .txc d => Sys2Proof.Machine.execTxc d s
  | .txst d => Sys2Proof.Machine.execTxst d s
  | .shape g a n => Sys2Proof.Machine.execShape g a n s
  | .cpyIn g n a b => Sys2Proof.Machine.execCpyIn g n a b s
  | .cpyOut g n a b => Sys2Proof.Machine.execCpyOut g n a b s
  | .cpyRem g n a b => Sys2Proof.Machine.execCpyRem g n a b s
  | .mma g nsb nsa z t a b => Sys2Proof.Machine.execMma g nsb nsa z t a b s
  | .mmag g nsb nsa z t a b => Sys2Proof.Machine.execMmag g nsb nsa z t a b s
  | .mmaT g nsb nsa z t a b => Sys2Proof.Machine.execMmaT g nsb nsa z t a b s
  | .oprdy a b => Sys2Proof.Machine.execOprdy a b s
  | .amld g t a => Sys2Proof.Machine.execAmld g t a s
  | .amst g t a => Sys2Proof.Machine.execAmst g t a s
  | .amzero g t => Sys2Proof.Machine.execAmzero g t s
  | .amrow g t d b => Sys2Proof.Machine.execAmrow g t d b s
  | .amscl g m t a b => Sys2Proof.Machine.execAmscl g m t a b s
  | .drainSt g t a b => Sys2Proof.Machine.execDrainSt g t a b s
  | .drainAdd g t a b => Sys2Proof.Machine.execDrainAdd g t a b s
  | .barArv c d => Sys2Proof.Machine.execBarArv c d s
  | .barWt c a => Sys2Proof.Machine.execBarWt c a s
  | .barSync c => Sys2Proof.Machine.execBarSync c s
  | .barArm c b => Sys2Proof.Machine.execBarArm c b s
  | .barTst c d => Sys2Proof.Machine.execBarTst c d s
  | .regroup bar d a b => Sys2Proof.Machine.execRegroup bar d a b s
  | .rqxfer d a b => Sys2Proof.Machine.execRqxfer d a b s
  | .rqget d => Sys2Proof.Machine.execRqget d s
  | .roleset a => Sys2Proof.Machine.execRoleset a s
  | .roleget d => Sys2Proof.Machine.execRoleget d s
  | .kvapp g d a b => Sys2Proof.Machine.execKvapp g d a b s
  | .kvappDrop g a b => Sys2Proof.Machine.execKvappDrop g a b s
  | .qpost g c d a b => Sys2Proof.Machine.execQpost g c d a b s
  | .qget g q d a b => Sys2Proof.Machine.execQget g q d a b s
  | .btld g n1 a b => Sys2Proof.Machine.execBtld g n1 a b s
  | .xmerge g d a b => Sys2Proof.Machine.execXmerge g d a b s
  | .launch d a b => Sys2Proof.Machine.execLaunch d a b s
  | .cancel lvl d a => Sys2Proof.Machine.execCancel lvl d a s
  | .cntrd lvl d a => Sys2Proof.Machine.execCntrd lvl d a s
  | .cntwt lvl d a b => Sys2Proof.Machine.execCntwt lvl d a b s
  | .tsend g c a b => Sys2Proof.Machine.execTsend g c a b s
  | .trecv g c a b => Sys2Proof.Machine.execTrecv g c a b s
  | .ratom g w64 op d a b => Sys2Proof.Machine.execRatom g w64 op d a b s
  | .ared g c a b => Sys2Proof.Machine.execAred g c a b s
  | .mov16bit d b => Sys2Proof.Machine.execMov16bit d b s
  | .movi16bit d imm => Sys2Proof.Machine.execMovi16bit d imm s
  | .add16bit d b => Sys2Proof.Machine.execAdd16bit d b s
  | .addi16bit d imm => Sys2Proof.Machine.execAddi16bit d imm s
  | .sub16bit d b => Sys2Proof.Machine.execSub16bit d b s
  | .and16bit d b => Sys2Proof.Machine.execAnd16bit d b s
  | .or16bit d b => Sys2Proof.Machine.execOr16bit d b s
  | .xor16bit d b => Sys2Proof.Machine.execXor16bit d b s
  | .shl16bit d b => Sys2Proof.Machine.execShl16bit d b s
  | .shr16bit d b => Sys2Proof.Machine.execShr16bit d b s
  | .imin16bit d b => Sys2Proof.Machine.execImin16bit d b s
  | .imax16bit d b => Sys2Proof.Machine.execImax16bit d b s
  | .fadd16bit d b => Sys2Proof.Machine.execFadd16bit d b s
  | .fsub16bit d b => Sys2Proof.Machine.execFsub16bit d b s
  | .fmul16bit d b => Sys2Proof.Machine.execFmul16bit d b s
  | .fmax16bit d b => Sys2Proof.Machine.execFmax16bit d b s
  | .dl mode => Sys2Proof.Machine.execDl mode s
  | .ret => Sys2Proof.Machine.execRet s
  | .endFrag => Sys2Proof.Machine.execEndFrag s
  | .eret => Sys2Proof.Machine.execEret s
  | .eretSkip => Sys2Proof.Machine.execEretSkip s
  | .txb => Sys2Proof.Machine.execTxb s
  | .txa => Sys2Proof.Machine.execTxa s
  | .nop => Sys2Proof.Machine.execNop s
  | .yield => Sys2Proof.Machine.execYield s
  | .placeLaunchRecord q image => Sys2Proof.Machine.execPlaceLaunchRecord q image s
  | .leaseSetup l => Sys2Proof.Machine.execLeaseSetup l s
  | .dispatchBlock choice => Sys2Proof.Machine.execDispatchBlock choice s
  | .preemption => Sys2Proof.Machine.execPreemption s
  | .contextSave l blk => Sys2Proof.Machine.execContextSave l blk s
  | .contextRestore l blk => Sys2Proof.Machine.execContextRestore l blk s
  | .splitEntryReload l blk grp entry => Sys2Proof.Machine.execSplitEntryReload l blk grp entry s
  | .issueRunEnd => Sys2Proof.Machine.execIssueRunEnd s
  | .registersReturn l blk grp => Sys2Proof.Machine.execRegistersReturn l blk grp s
  | .reservedRegisterReturn op => Sys2Proof.Machine.execReservedRegisterReturn op s
  | .loadComplete op lineKept => Sys2Proof.Machine.execLoadComplete op lineKept s
  | .storeComplete op => Sys2Proof.Machine.execStoreComplete op s
  | .atomicPerform op => Sys2Proof.Machine.execAtomicPerform op s
  | .tableOperation op => Sys2Proof.Machine.execTableOperation op s
  | .rebalance job table what => Sys2Proof.Machine.execRebalance job table what s
  | .copyStart op => Sys2Proof.Machine.execCopyStart op s
  | .copyPart op imm => Sys2Proof.Machine.execCopyPart op imm s
  | .copyComplete op => Sys2Proof.Machine.execCopyComplete op s
  | .deferredEntryStart op => Sys2Proof.Machine.execDeferredEntryStart op s
  | .matrixStart op => Sys2Proof.Machine.execMatrixStart op s
  | .matrixComplete op => Sys2Proof.Machine.execMatrixComplete op s
  | .drainStart op => Sys2Proof.Machine.execDrainStart op s
  | .drainComplete op => Sys2Proof.Machine.execDrainComplete op s
  | .determinismBufferApply l => Sys2Proof.Machine.execDeterminismBufferApply l s
  | .blockResolve op => Sys2Proof.Machine.execBlockResolve op s
  | .stackQuery op stack => Sys2Proof.Machine.execStackQuery op stack s
  | .queryComplete op => Sys2Proof.Machine.execQueryComplete op s
  | .pinRelease op => Sys2Proof.Machine.execPinRelease op s
  | .perBankRefresh stack bank => Sys2Proof.Machine.execPerBankRefresh stack bank s
  | .linkSendComplete op => Sys2Proof.Machine.execLinkSendComplete op s
  | .aredComplete op => Sys2Proof.Machine.execAredComplete op s
  | .aredTimeout op => Sys2Proof.Machine.execAredTimeout op s
  | .blockComplete l blk => Sys2Proof.Machine.execBlockComplete l blk s
  | .launchComplete l => Sys2Proof.Machine.execLaunchComplete l s
  | .cancelComplete l => Sys2Proof.Machine.execCancelComplete l s
  | .barrierHang bar => Sys2Proof.Machine.execBarrierHang bar s
  | .pageWalk die cu job va => Sys2Proof.Machine.execPageWalk die cu job va s
  | .hostRequestCompletion id ok digest => Sys2Proof.Machine.execHostRequestCompletion id ok digest s
  | .atsInvalidation pasid page => Sys2Proof.Machine.execAtsInvalidation pasid page s
  | .priResponse pasid page granted => Sys2Proof.Machine.execPriResponse pasid page granted s
  | .hostMemoryWrite off bytes => Sys2Proof.Machine.execHostMemoryWrite off bytes s
  | .hostMemoryRead off len => Sys2Proof.Machine.execHostMemoryRead off len s
  | .patrolScrub codeword found => Sys2Proof.Machine.execPatrolScrub codeword found s
  | .injectorRelease op => Sys2Proof.Machine.execInjectorRelease op s
  | .registerWrite w => Sys2Proof.Machine.execRegisterWrite w s
  | .cntnew lvl id job expected => Sys2Proof.Machine.execCntnew lvl id job expected s
  | .tlbinv job lo hi => Sys2Proof.Machine.execTlbinv job lo hi s
  | .halt p => Sys2Proof.Machine.execHalt p s
  | .resume p => Sys2Proof.Machine.execResume p s
  | .step p slot => Sys2Proof.Machine.execStep p slot s
  | .dump p => Sys2Proof.Machine.execDump p s
  | .snapshot p => Sys2Proof.Machine.execSnapshot p s
  | .clockLock freq => Sys2Proof.Machine.execClockLock freq s
  | .lockBroken die freq power => Sys2Proof.Machine.execLockBroken die freq power s
  | .lockRestored die => Sys2Proof.Machine.execLockRestored die s
  | .clockStepDown die => Sys2Proof.Machine.execClockStepDown die s
  | .clockStepUp die => Sys2Proof.Machine.execClockStepUp die s
  | .fatalState => Sys2Proof.Machine.execFatalState s
  | .conventionalReset => Sys2Proof.Machine.execConventionalReset s
  | .functionLevelReset => Sys2Proof.Machine.execFunctionLevelReset s
  | .d3hotEntry => Sys2Proof.Machine.execD3hotEntry s
  | .d3coldExit => Sys2Proof.Machine.execD3coldExit s
  | .firmwareImageLoad image => Sys2Proof.Machine.execFirmwareImageLoad image s
  | .functionReady f => Sys2Proof.Machine.execFunctionReady f s
  | .bridleFlitReplay link => Sys2Proof.Machine.execBridleFlitReplay link s
  | .bridleLaneLoss link => Sys2Proof.Machine.execBridleLaneLoss link s
  | .bridleRetrainTimeout link => Sys2Proof.Machine.execBridleRetrainTimeout link s
  | .tetherWrite h bytes => Sys2Proof.Machine.execTetherWrite h bytes s
  | .tetherReadRequest h parts => Sys2Proof.Machine.execTetherReadRequest h parts s
  | .tetherReadData f p answer => Sys2Proof.Machine.execTetherReadData f p answer s
  | .tetherAtomic h w64 f x => Sys2Proof.Machine.execTetherAtomic h w64 f x s
  | .tetherAtomicResult f p answer => Sys2Proof.Machine.execTetherAtomicResult f p answer s
  | .tetherAcknowledge port what declined => Sys2Proof.Machine.execTetherAcknowledge port what declined s
  | .tetherBusy f p => Sys2Proof.Machine.execTetherBusy f p s
  | .tetherCollective x => Sys2Proof.Machine.execTetherCollective x s
  | .tetherLinkControl port what => Sys2Proof.Machine.execTetherLinkControl port what s
  | .tetherAckTimeout port => Sys2Proof.Machine.execTetherAckTimeout port s
  | .busyRetry port p => Sys2Proof.Machine.execBusyRetry port p s
  | .routeTimeout op => Sys2Proof.Machine.execRouteTimeout op s
  | .completionReceived stream id keyIndex authentic => Sys2Proof.Machine.execCompletionReceived stream id keyIndex authentic s
  | .linkKeyLoad stream slot job key => Sys2Proof.Machine.execLinkKeyLoad stream slot job key s
  | .keyIndexFlip stream => Sys2Proof.Machine.execKeyIndexFlip stream s
  | .keySetRetire stream => Sys2Proof.Machine.execKeySetRetire stream s
  | .keySlotLoad slot job twbase key => Sys2Proof.Machine.execKeySlotLoad slot job twbase key s
  | .keySlotZeroise slot => Sys2Proof.Machine.execKeySlotZeroise slot s
  | .sealKeyDerive slot job region base policy => Sys2Proof.Machine.execSealKeyDerive slot job region base policy s
  | .weightRegionSet job lo hi policy => Sys2Proof.Machine.execWeightRegionSet job lo hi policy s
  | .tokenRefill job => Sys2Proof.Machine.execTokenRefill job s
  | .logAcknowledge upTo => Sys2Proof.Machine.execLogAcknowledge upTo s
  | .clearSequence cluster => Sys2Proof.Machine.execClearSequence cluster s
  | .heartbeatLoss tdi => Sys2Proof.Machine.execHeartbeatLoss tdi s
  | .rwlDigestWalk tdi => Sys2Proof.Machine.execRwlDigestWalk tdi s
  | .getVersion msg => Sys2Proof.Machine.execGetVersion msg s
  | .getCapabilities msg => Sys2Proof.Machine.execGetCapabilities msg s
  | .negotiateAlgorithms msg => Sys2Proof.Machine.execNegotiateAlgorithms msg s
  | .getDigests msg => Sys2Proof.Machine.execGetDigests msg s
  | .getCertificate msg => Sys2Proof.Machine.execGetCertificate msg s
  | .challenge msg => Sys2Proof.Machine.execChallenge msg s
  | .getMeasurements msg index signed => Sys2Proof.Machine.execGetMeasurements msg index signed s
  | .pskExchange msg session => Sys2Proof.Machine.execPskExchange msg session s
  | .pskFinish msg session => Sys2Proof.Machine.execPskFinish msg session s
  | .heartbeat msg session => Sys2Proof.Machine.execHeartbeat msg session s
  | .keyUpdate msg session => Sys2Proof.Machine.execKeyUpdate msg session s
  | .endSession msg session => Sys2Proof.Machine.execEndSession msg session s
  | .vendorDefinedRequest msg session stream slot job key => Sys2Proof.Machine.execVendorDefinedRequest msg session stream slot job key s
  | .lockInterfaceRequest tdi => Sys2Proof.Machine.execLockInterfaceRequest tdi s
  | .startInterfaceRequest tdi => Sys2Proof.Machine.execStartInterfaceRequest tdi s
  | .stopInterfaceRequest tdi => Sys2Proof.Machine.execStopInterfaceRequest tdi s
  | .illegalEncoding => Sys2Proof.Machine.execIllegalEncoding s
  | .bundleMalformed => Sys2Proof.Machine.execBundleMalformed s
  | .completionTimeout stream id => Sys2Proof.Machine.execCompletionTimeout stream id s
  | .atsTranslationCompletion pasid page present => Sys2Proof.Machine.execAtsTranslationCompletion pasid page present s
  | .unsupportedRequest code => Sys2Proof.Machine.execUnsupportedRequest code s

end Sys2Proof.Machine
end

