-- ==== Sys2Proof/Machine/Auto.lean ====
section
/-! DEFINITION. What the device does by itself, while no fragment can issue and once in a while although one can: one of
the events that its engines, its scheduler and its launches have to come, in turn. Which event comes when is open (R6);
the agenda of the state names any other order (log entry 3). -/

namespace Sys2Proof.Machine

/-- An event's meaning. -/
abbrev Event := State → Host.Outcome State Fault Refusal

/-- The next part of an operation that has not been performed, among the first `n`. -/
def Op.nextPart (o : Op) (n : Nat) : Nat := ((List.range n).find? fun i => !o.parts.contains i).getD n

/-- A copy that has started performs its next part, or completes. -/
def Op.copyGoesOn (o : Op) (k : CopyOp) : Event := fun s =>
  let n := k.memParts.length
  let i := o.nextPart n
  if i < n then execCopyPart o.id i s else execCopyComplete o.id s

/-- The events that one operation in flight may have to come next. -/
def Op.events (o : Op) (kept : Bool) : List Event :=
  let start : List Event := if o.deferred.isSome then [execDeferredEntryStart o.id] else []
  let hold : List Event := if o.hold then [execInjectorRelease o.id] else []
  start ++ hold ++ match o.kind with
  | .load .. => [execLoadComplete o.id kept]
  | .store .. | .kvapp _ | .qapp .. => [execStoreComplete o.id]
  | .results => [execLoadComplete o.id kept, execStoreComplete o.id]
  | .row wr .. => [if wr then execStoreComplete o.id else execLoadComplete o.id kept]
  | .atomic .. => [if o.performed then execLoadComplete o.id kept else execAtomicPerform o.id]
  | .point .. | .tnext .. | .tstat .. => [if o.performed then execLoadComplete o.id kept else execTableOperation o.id]
  | .copy k => [if o.started then o.copyGoesOn k else execCopyStart o.id]
  | .mat .. => [if o.started then execMatrixComplete o.id else execMatrixStart o.id]
  | .drain .. => [if o.started then execDrainComplete o.id else execDrainStart o.id]
  | .query _ => [execBlockResolve o.id, execStackQuery o.id (((List.range 8).find? fun i => !o.records.contains i).getD 8),
                 execQueryComplete o.id]
  | .send .. | .recv .. => [execLinkSendComplete o.id]
  | .ratom .. => [execLinkSendComplete o.id, execLoadComplete o.id kept]
  | .ared .. => [execAredComplete o.id]

/-- The events that a block may have to come next. -/
def Block.events (b : Block) : List Event :=
  let gs := (List.range b.ngrp).filter fun g => b.endedGroups.getLsbD g && !b.returned.getLsbD g
  gs.map (execRegistersReturn b.l b.idx)
    ++ (if b.complete || b.returned == 0 then [] else [execBlockComplete b.l b.idx])
    ++ (if b.stopping then [execContextSave b.l b.idx] else [])
    ++ (if b.saved then [execContextRestore b.l b.idx] else [])

/-- The events that a launch may have to come next. -/
def Launch.events (x : Launch) : List Event :=
  if 3 ≤ x.state then []
  else if x.final.isSome then [execCancelComplete x.uid]
  else if x.state = 2 then
    (if x.lrec.det then [execDeterminismBufferApply x.uid] else []) ++ [execLaunchComplete x.uid]
  else if x.ready then [] else [execLeaseSetup x.uid]

/-- The split-table entries of a group that may have to come back. -/
def Group.events (g : Group) : List Event :=
  (g.frags.filter Frag.written).map fun f => execSplitEntryReload g.id.l g.id.blk g.id.g f.entry

/-- A bound table's next rebalancing step (R221, R222). -/
def Table.events (t : Table) : List Event :=
  if t.users.isEmpty then []
  else [fun s => match t.rebalanceWork.head? with | some w => execRebalance t.job t.num w s | none => .next s]

/-- All that the device may do by itself. (DESIGN CHOICE, log entry 3; DEDUCED, log entry 18) -/
def State.events (s : State) : List Event :=
  let kept := Config.freeBit s.fresh 1
  (s.ops.flatMap fun o => o.events kept) ++ s.blocks.flatMap Block.events ++ s.launches.flatMap Launch.events
    ++ s.groups.flatMap Group.events ++ s.tables.flatMap Table.events
    ++ (s.clusters.filter ClusterProt.clearing).map (fun p => execClearSequence p.n)
    ++ [execDispatchBlock none, execPreemption]

/-- One event in turn: `turn` moves on with each, so that no event is passed over for ever while nothing else
changes. (DESIGN CHOICE, log entry 3) -/
def State.auto (s : State) : Host.Outcome State Fault Refusal :=
  let es := s.unfocus.events
  let t : State := { s with turn := s.turn + 1, picks := 0 }
  match es[s.turn % es.length]? with
  | some e => e t
  | none => .next t

end Sys2Proof.Machine
end

