-- ==== Sys2Proof/Machine/Install.lean ====
section
/-! DEFINITION. How an instruction is put where the next step fetches: into the bundle of the fragment that issues next, or
with a small launch of one group that takes the place of a loader and a host (log entry 4). -/

namespace Sys2Proof.Machine

/-! ### A bundle around one instruction (R17 to R19) -/

/-- Halfwords and codes of a bundle of NOPs with the instruction at slot `i`. (DESIGN CHOICE, log entry 4) -/
def bundleWith (i h0 h1 : Nat) : List Byte :=
  let wide := h0 % 2 = 1
  let code (k : Nat) : Nat := if wide ∧ k = i + 1 then 0 else 1
  let half (k : Nat) : Nat := if k = i then h0 else if wide ∧ k = i + 1 then h1 else nopHalf
  leBytes 4 (((List.range 14).map fun k => code k * 4 ^ k).sum) ++ (List.range 14).flatMap fun k => leBytes 2 (half k)
where
  /-- The halfword of NOP. -/
  nopHalf : Nat := match encode .nop with | h :: _ => h.toNat | [] => 0

/-- The slot of an address, 0 where the instruction would not fit in its bundle. -/
def slotFor (a : VA) (h0 : Nat) : Nat :=
  let i := (a.toNat % 32 - 4) / 2
  if a.toNat % 32 < 4 ∨ (h0 % 2 = 1 ∧ 13 ≤ i) ∨ (h0 % 2 = 0 ∧ 13 ≤ i ∧ h0 / 2 % 32 = 17) then 0 else i

/-- The bundle at an address takes the instruction: physical address and slot, if the fragment in focus may fetch
there. (DESIGN CHOICE, log entry 4) -/
def State.putInstr (s : State) (h0 h1 : Nat) : Option State :=
  let a := s.frag.pc
  match s.fetch a with
  | .lease | .wait => none
  | .bundle _ =>
    match s.translate s.grp.place.part.cu.die (some (cuNum s.grp.place.part.cu)) s.grp.job (bundleBase a) with
    | none => none
    | some p =>
      let i := slotFor a h0
      some { s with
        mem := writeBytes s.mem (physOf (bundleBase a) p) (bundleWith i h0 h1),
        frag := { s.frag with pc := BitVec.ofNat 52 (bundleBase a + 4 + 2 * i) } }

/-! ### A small launch (R168, R201, R205) -/

/-- Where the small launch's code, handler and page table lie. -/
def codeAt : Nat := 0x10000
/-- The bundle of its trap vector. -/
def handlerAt : Nat := 0x10040
/-- The root of its page table. -/
def rootAt : Nat := 0x1000

/-- Its launch record: one block of one group, K = 0, sixteen registers' worth of everything it may need. -/
def smallRec : LaunchRec :=
  { kaddr := BitVec.ofNat 64 codeAt, gx := 1, gy := 1, gz := 1, ngrp := 1, flags := 0, regs := 64, scratch := 8192,
    acc := 32768, em := BitVec.allOnes 32, clb := 0, fmt := 0, trapVec := BitVec.ofNat 64 (handlerAt + 4),
    roles := List.replicate 32 2, bbar := List.replicate 16 1, cbar := List.replicate 8 0, lbar := List.replicate 4 0,
    segt := 0, leasel := 0, nlease := 1, nsucc := 0, preds := 0, succl := 0, launchId := 1, graphId := 1, phaseId := 1,
    jobId := 1, ctxa := 0x200000, bytes := [] }

/-- Its segments: sg0, sg1, sg2, sg3, sg4. -/
def smallSegs : List Seg :=
  [{ base := 0x100000, limit := 0x10000 }, { base := 0, limit := 8192 }, { base := 0, limit := 32768 },
   { base := 0x120000, limit := 0x1000 }, { base := 0x130000, limit := 0x1000 }] ++ List.replicate 3 { base := 0, limit := 0 }

/-- The launch, running. -/
def smallLaunch (uid : Nat) : Launch :=
  { uid := uid, lrec := smallRec, queue := 0, state := 2, cause := 0, done := 0, preds := 0, next := 1, ready := true, pins := true,
    leases := [{ lo := 0, len := 2 ^ 30, host := false }], seg := smallSegs, qcfg := [], detF := [], detUsed := [],
    lbars := Vector.replicate 4 Barrier.none, final := none, priv := true, prot := false,
    hosted := [] }

/-- The job. -/
def smallJob : Job :=
  { id := 1, pasid := 1, priv := true, prot := false, ats := true, ptroot := BitVec.ofNat 64 rootAt, tdir := 0,
    wdog := BitVec.ofNat 64 (2 ^ 33), retired := false, created := true, dispatched := none, sealed := none }

/-- Memory with the small launch's page table, one leaf of 1 GiB, and its handler of NOPs. -/
def smallMem (m : List Host.Cell) : List Host.Cell :=
  let m := writeBytes m rootAt (leBytes 8 0x2001)
  let m := writeBytes m 0x2000 (leBytes 8 0x3001)
  let m := writeBytes m 0x3000 (leBytes 8 3)
  writeBytes m handlerAt (bundleWith 0 (bundleWith.nopHalf) 0)

/-- The machine with the small launch alone on CU 0, its group in focus. (DESIGN CHOICE, log entry 4) -/
def State.small (s : State) : State :=
  let x := smallLaunch s.nextId
  let s : State := { s with
    nextId := s.nextId + 1, launches := [x], jobs := [smallJob], jobsNext := [], mem := smallMem s.mem, groups := [], ops := [], tlb := [],
    clusterLaunches := [], turns := [], dbg := [],
    blocks := [x.newBlock 0 CuRef.zero s.nextOrder 0] }
  let g := x.newGroup 0 0 (placeOf CuRef.zero 0 0) 0
  { s with live := true, grp := { g with frags := [] }, frag := g.frags.headD Frag.start }

end Sys2Proof.Machine
end

