-- ==== Sys2Proof/Machine/Step.lean ====
section
/-! DEFINITION. One step: the instruction that a DL prefixes, the next event of the agenda, the instruction of the fragment that
issues next, or what the device does by itself. -/

namespace Sys2Proof.Machine

/-- The fragment in focus fetches and executes. -/
def State.issueNext (s : State) : Host.Outcome State Fault Refusal :=
  match s.fetchNext with
  | .instr i t => exec i t
  | .settled t => .next t

/-- One step of the machine. (DESIGN CHOICE, log entry 3; DESIGN CHOICE, log entry 53) -/
def step (s : State) : Host.Outcome State Fault Refusal :=
  if s.live && s.latch.dl.isSome then s.issueNext
  else
    match s.agenda with
    | e :: t => exec e { s with agenda := t }
    | [] =>
      match s.pick with
      | some t => t.issueNext
      | none => s.auto

/-- The state with an instruction of `nbits` bits `w` where step fetches next: in the bundle of the fragment that issues next,
else with the small launch of Install.lean. (DESIGN CHOICE, log entry 4) -/
def State.withFetchWord (s : State) (nbits w : Nat) : State :=
  let w := w % 2 ^ nbits
  let s : State := { s with agenda := [], turns := [], picks := 0, latch := s.latch.noDl }
  match s.pick.bind fun t => t.putInstr (w % 2 ^ 16) (w / 2 ^ 16 % 2 ^ 16) with
  | some t => t
  | none => (s.small.putInstr (w % 2 ^ 16) (w / 2 ^ 16 % 2 ^ 16)).getD s.small

end Sys2Proof.Machine
end

