-- ==== Sys2Proof/Safety.lean ====
section
/-! DEFINITION. What a safe run is, and the words that the statements use: states in which an instruction issues, and what an
instruction writes while all else stays as it was. -/

namespace Sys2Proof.Machine

/-! ### Safety -/

/-- Device memory, host memory and every scratchpad are in canonical form. -/
abbrev State.memWf (s : State) : Prop :=
  Memory.wf s.mem = true ∧ Memory.wf s.hostMem = true ∧ ∀ b ∈ s.blocks, Memory.wf b.scratch = true

/-- What the device or the outside does, as against an encoded instruction of a group. -/
def Instr.isEvent (i : Instr) : Bool :=
  match i with
  | .placeLaunchRecord .. | .leaseSetup .. | .dispatchBlock .. | .preemption | .contextSave .. | .contextRestore ..
  | .splitEntryReload .. | .issueRunEnd | .registersReturn .. | .reservedRegisterReturn .. | .loadComplete ..
  | .storeComplete .. | .atomicPerform .. | .tableOperation .. | .rebalance .. | .copyStart .. | .copyPart ..
  | .copyComplete .. | .deferredEntryStart .. | .matrixStart .. | .matrixComplete .. | .drainStart ..
  | .drainComplete .. | .determinismBufferApply .. | .blockResolve .. | .stackQuery .. | .queryComplete ..
  | .pinRelease .. | .perBankRefresh .. | .linkSendComplete .. | .aredComplete .. | .aredTimeout ..
  | .blockComplete .. | .launchComplete .. | .cancelComplete .. | .barrierHang .. | .pageWalk ..
  | .hostRequestCompletion .. | .atsInvalidation .. | .priResponse .. | .hostMemoryWrite .. | .hostMemoryRead ..
  | .patrolScrub .. | .injectorRelease .. | .registerWrite .. | .cntnew .. | .tlbinv .. | .halt .. | .resume ..
  | .step .. | .dump .. | .snapshot .. | .clockLock .. | .lockBroken .. | .lockRestored .. | .clockStepDown ..
  | .clockStepUp .. | .fatalState | .conventionalReset | .functionLevelReset | .d3hotEntry | .d3coldExit
  | .firmwareImageLoad .. | .functionReady .. | .bridleFlitReplay .. | .bridleLaneLoss ..
  | .bridleRetrainTimeout .. | .tetherWrite .. | .tetherReadRequest .. | .tetherReadData .. | .tetherAtomic ..
  | .tetherAtomicResult .. | .tetherAcknowledge .. | .tetherBusy .. | .tetherCollective .. | .tetherLinkControl ..
  | .tetherAckTimeout .. | .busyRetry .. | .routeTimeout .. | .completionReceived .. | .linkKeyLoad ..
  | .keyIndexFlip .. | .keySetRetire .. | .keySlotLoad .. | .keySlotZeroise .. | .sealKeyDerive ..
  | .weightRegionSet .. | .tokenRefill .. | .logAcknowledge .. | .clearSequence .. | .heartbeatLoss ..
  | .rwlDigestWalk .. | .getVersion .. | .getCapabilities .. | .negotiateAlgorithms .. | .getDigests ..
  | .getCertificate .. | .challenge .. | .getMeasurements .. | .pskExchange .. | .pskFinish .. | .heartbeat ..
  | .keyUpdate .. | .endSession .. | .vendorDefinedRequest .. | .lockInterfaceRequest ..
  | .startInterfaceRequest .. | .stopInterfaceRequest .. | .completionTimeout .. | .atsTranslationCompletion ..
  | .unsupportedRequest .. => true
  | _ => false

/-- The machine answers a next state. -/
def goesOnFrom (o : Host.Outcome State Fault Refusal) : Prop := ∃ t : State, o = .next t

/-! ### When an instruction issues -/

/-- A fragment is in focus, and no DL 0 that K = 0 gives an effect stands before the instruction (R129, R130). -/
abbrev State.issues (s : State) : Prop := s.live = true ∧ s.dlDual = false

/-- No result of an earlier instruction is still to come to a vector name (R21, R22). -/
abbrev Group.settledV (g : Group) (n : Reg) : Prop := g.isPending .vec n.toNat = false ∧ g.late .vec n.toNat = none
/-- No result is still to come to a scalar register (R21, R22). -/
abbrev Group.settledS (g : Group) (n : Reg) : Prop := g.isPending .scalar n.toNat = false ∧ g.late .scalar n.toNat = none
/-- No result is still to come to a predicate (R21, R22). -/
abbrev Group.settledK (g : Group) (n : PReg) : Prop := g.isPending .pred n.toNat = false ∧ g.late .pred n.toNat = none

/-- The group after the last-read frees of an instruction (R12 to R14). -/
def Group.freed (g : Group) (ns : List Reg) : Group := ns.foldl Group.freeName g

/-- Lane `l` of component `j` of a vector name as it stands; 0 while the name is unmapped (R12). -/
def Group.lane (g : Group) (n : Reg) (j l : Nat) : BitVec 32 := (compAt ((g.vreg n).getD []) j).get l

/-- A lane-wise instruction with destinations `ds` writes: its active set is not empty, and the quota has room once its
sources are freed (R12, R16, R78). -/
abbrev State.writesV (s : State) (g : PReg) (frees ds : List Reg) : Prop :=
  s.issues ∧ s.active g ≠ 0 ∧ (s.grp.freed frees).room ds = .ok ∧ ∀ d ∈ ds, s.grp.settledV d

/-! ### What an instruction writes -/

/-- `t` is `s` with lanes `act` of vector `d` holding `r` (component, lane), readable after `wait` cycles; the sources
`srcs` are noted as read, the names `frees` freed, and nothing else changes (R12 to R14, R21, R78). -/
structure WroteV (s : State) (srcs frees : List Reg) (d : Reg) (act : Mask) (wait : Nat) (r : Nat → Nat → BitVec 32)
    (t : State) : Prop where
  mapped : t.grp.mapped d = true
  value : ∀ j, j ≤ s.grp.kt → ∀ l, l < 32 →
    t.grp.lane d j l = if act.getLsbD l then r j l else (s.grp.freed frees).lane d j l
  others : ∀ n, n ≠ d → t.grp.vreg n = (s.grp.freed frees).vreg n
  late : ∃ x, t.grp.lat = x :: s.grp.lat ∧ x.cls = .vec ∧ x.name = d.toNat ∧ x.ready = s.grp.cycle + wait
  frame : t = { s with grp := { s.grp.freed frees with
    v := t.grp.v, lat := t.grp.lat,
    deferredFree := (s.grp.freed frees).deferredFree &&& ~~~(1#32 <<< d.toNat),
    unmapped := s.grp.unmapped || !(srcs.all s.grp.mapped) } }

/-- `t` is `s` with scalar register `d` holding `x`, readable after `wait` cycles; nothing else changes. -/
structure WroteS (s : State) (d : Reg) (x : BitVec 64) (wait : Nat) (t : State) : Prop where
  value : t.grp.s[d.toFin] = x
  others : ∀ n : Reg, n ≠ d → t.grp.s[n.toFin] = s.grp.s[n.toFin]
  late : ∃ y, t.grp.lat = y :: s.grp.lat ∧ y.cls = .scalar ∧ y.name = d.toNat ∧ y.ready = s.grp.cycle + wait
  frame : t = { s with grp := { s.grp with s := t.grp.s, lat := t.grp.lat } }

/-- `t` is `s` with lanes `m` of predicate `d` holding `bits`; nothing else changes, and nothing at all for k0 or an empty
set of lanes (R8). -/
structure WroteK (s : State) (d : PReg) (m bits : Mask) (wait : Nat) (t : State) : Prop where
  discarded : d = 0 ∨ m = 0 → t = s
  value : d ≠ 0 → ∀ l, l < 32 →
    (t.grp.k[d.toFin]).getLsbD l = if m.getLsbD l then bits.getLsbD l else (s.grp.k[d.toFin]).getLsbD l
  others : ∀ n : PReg, n ≠ d → t.grp.k[n.toFin] = s.grp.k[n.toFin]
  late : d ≠ 0 → m ≠ 0 →
    ∃ y, t.grp.lat = y :: s.grp.lat ∧ y.cls = .pred ∧ y.name = d.toNat ∧ y.ready = s.grp.cycle + wait
  frame : t = { s with grp := { s.grp with k := t.grp.k, lat := t.grp.lat } }

/-- The instruction takes its effect `t` and execution goes on after it. -/
def Completes (i : Instr) (s : State) (effect : State → Prop) : Prop :=
  ∃ t : State, exec i s = .next (t.goesOn s.latch.next) ∧ effect t

/-- The instruction raises the fault `e` at its own address: one that it meets before it has any effect (R330, R332). -/
def Raises (i : Instr) (s : State) (e : Exc) : Prop :=
  exec i s = .next { ((s.countSlot s.latch.leaf).raise e).stepDone with fresh := s.fresh + 1 }

/-- The instruction waits in its issue slot: its fragment is stalled at the instruction's address. -/
def Waits (i : Instr) (s : State) : Prop := ∃ t : State, exec i s = .next (t.stalled s.latch.start) ∧ t.grp = s.grp ∧ t.mem = s.mem

/-- An operation of kind `k` of the issuing group is in flight after the instruction, on counter `c`: it has the next id,
stands last, and has performed nothing; memory stays, and so do the blocks' memories where no completed engine operation awaits the
WAIT after reading a vector name (R11, R22, R96, R281). -/
structure Started (s : State) (c : Option Ctr) (k : OpKind) (t : State) : Prop where
  op : ∃ o, t.ops = s.ops ++ [o] ∧ o.id = s.nextId ∧ o.gid = s.grp.id ∧ o.ctr = c ∧ o.kind = k ∧ o.performed = false
  count : ∀ x, t.grp.count x = s.grp.count x + if c = some x then 1 else 0
  memory : t.mem = s.mem ∧ t.hostMem = s.hostMem ∧ t.poison = s.poison
  blocks : (∀ n, s.grp.readFrom n = []) → t.blocks = s.blocks
  rest : t.launches = s.launches ∧ t.tables = s.tables ∧ t.groups = s.groups ∧ t.frag = s.frag ∧ t.jobs = s.jobs

/-- `t` is a state in which an operation of `s` is to bring lanes `act` of the names `ns`: those names are mapped and await the
WAIT that observes the operation, their other lanes and all other names, scalars and predicates stay, but for the names
`frees` (R12, R22, R105). -/
structure Awaits (s : State) (frees : List Reg) (act : Mask) (ns : List Reg) (t : State) : Prop where
  pending : act ≠ 0 → ∀ n ∈ ns, t.grp.mapped n = true ∧ t.grp.isPending .vec n.toNat = true
  lanes : ∀ n ∈ ns, ∀ j, j ≤ s.grp.kt → ∀ l, l < 32 → act.getLsbD l = false →
    t.grp.lane n j l = (s.grp.freed frees).lane n j l
  others : ∀ n, n ∉ ns → t.grp.vreg n = (s.grp.freed frees).vreg n
  regs : t.grp.s = s.grp.s ∧ t.grp.k = s.grp.k ∧ t.grp.sp = s.grp.sp ∧ t.grp.tx = s.grp.tx

/-- As `Awaits`, for an operation that also brings lanes `act` of predicate `q` (0: none); other lanes of it and all other
predicates stay (R250). -/
structure AwaitsK (s : State) (act : Mask) (ns : List Reg) (q : Nat) (t : State) : Prop where
  names : Awaits s [] act ns { t with grp := { t.grp with k := s.grp.k } }
  pending : q ≠ 0 → act ≠ 0 → t.grp.isPending .pred q = true
  preds : ∀ n : PReg, ∀ l, l < 32 → n.toNat ≠ q ∨ act.getLsbD l = false →
    (t.grp.k[n.toFin]).getLsbD l = (s.grp.k[n.toFin]).getLsbD l

/-- The operation with id `i` holds these results, for the WAIT that observes its completion (R22, R96). -/
def State.holds (t : State) (i : Nat) (rs : List RegWrite) : Prop :=
  ∃ o ∈ t.ops, o.id = i ∧ o.kind = .results ∧ o.results = rs

/-- A store leaves every register as it was; its reads are noted only. -/
def KeepsRegs (s t : State) : Prop :=
  t.grp.v = s.grp.v ∧ t.grp.s = s.grp.s ∧ t.grp.k = s.grp.k ∧ t.grp.sp = s.grp.sp ∧ t.grp.sg = s.grp.sg

/-! ### Events -/

/-- The state in which an event takes place: no group is in focus. -/
def State.atEvent (s : State) : State := { s.unfocus with fresh := s.fresh + 1 }

/-- The event takes place: `effect` holds between the state before, with no group in focus, and the state after, in which
stalled fragments then look again. -/
def Happens (i : Instr) (s : State) (effect : State → State → Prop) : Prop :=
  ∃ u : State, exec i s = .next { u with groups := u.groups.map Group.wake } ∧ effect s.atEvent u

/-- Operation `o` is in flight under id `i`, and nothing before it in its group's order holds it back (R102, R267). -/
abbrev State.mayGo (s : State) (i : Nat) (o : Op) : Prop := s.op? i = some o ∧ s.mayPerform o = true

/-- Memory, scratchpads and registers of no group change. -/
def KeepsMemory (a u : State) : Prop :=
  u.mem = a.mem ∧ u.hostMem = a.hostMem ∧ u.blocks.map Block.scratch = a.blocks.map Block.scratch

/-- As `KeepsMemory`, but for the records of the trace, which there are none of while TRACEA is 0 (R361). -/
def KeepsTraced (a u : State) : Prop :=
  u.hostMem = a.hostMem ∧ u.blocks.map Block.scratch = a.blocks.map Block.scratch ∧ (a.traceA = 0 → u.mem = a.mem)

/-- Every byte of memory outside the ring of the access log stays (R376). -/
def KeepsOutsideRing (a u : State) : Prop :=
  ∀ x, (x < Config.accessRingAt ∨ Config.accessRingAt + logRingBytes ≤ x) → readByte u.mem x = readByte a.mem x

/-- Every group keeps its registers, its fragments' masks and its trap state. -/
def KeepsGroups (a u : State) : Prop :=
  u.groups.map (fun g => (g.id, g.v, g.s, g.k, g.sp, g.sg, g.tmode, g.tepc)) =
    a.groups.map (fun g => (g.id, g.v, g.s, g.k, g.sp, g.sg, g.tmode, g.tepc))

end Sys2Proof.Machine
end

