-- ==== Sys2Proof/Certificates/Slice0/Obligations.lean ====
section
/-! DEFINITION. The statements for the provers, each named for what it says. -/

open Sys2Proof Sys2Proof.Machine

/-- The lane-wise integer instructions of two sources with what R81 says of each, on 32-bit x and y. -/
def vectorInt2 : List ((PReg → Marks2 → Reg → Reg → Reg → Instr) × (BitVec 32 → BitVec 32 → BitVec 32)) :=
  [(.add, fun x y => x + y), (.sub, fun x y => x - y), (.mul, fun x y => x * y),
   (.mulhi, fun x y => ((x.setWidth 64 * y.setWidth 64) >>> 32).setWidth 32),
   (.imin, fun x y => if x.slt y then x else y), (.imax, fun x y => if x.slt y then y else x),
   (.and, fun x y => x &&& y), (.or, fun x y => x ||| y), (.xor, fun x y => x ^^^ y), (.andn, fun x y => x &&& ~~~y),
   (.shl, fun x y => x <<< (y.toNat % 32)), (.shr, fun x y => x >>> (y.toNat % 32)),
   (.sar, fun x y => x.sshiftRight (y.toNat % 32)), (.rotl, fun x y => x.rotateLeft (y.toNat % 32)),
   (.addc, fun x y => if (x.setWidth 33 + y.setWidth 33).getLsbD 32 then 1 else 0), (.subb, fun x y => if x.ult y then 1 else 0)]

/-- The 16-bit forms with the effects of their 32-bit instructions (R26, R81). -/
def shortInt2 : List ((Reg → Reg → Instr) × (BitVec 32 → BitVec 32 → BitVec 32)) :=
  [(.add16bit, fun x y => x + y), (.sub16bit, fun x y => x - y), (.and16bit, fun x y => x &&& y),
   (.or16bit, fun x y => x ||| y), (.xor16bit, fun x y => x ^^^ y), (.shl16bit, fun x y => x <<< (y.toNat % 32)),
   (.shr16bit, fun x y => x >>> (y.toNat % 32)), (.imin16bit, fun x y => if x.slt y then x else y),
   (.imax16bit, fun x y => if x.slt y then y else x)]

/-- A primal result whose tangents are 0 (R126). -/
def primal (f : Nat → BitVec 32) (j l : Nat) : BitVec 32 := if j = 0 then f l else 0

/-- The scalar integer instructions of two sources with what R81 says of each, on 64-bit x and y. -/
def scalarInt2 : List ((Reg → Reg → Reg → Instr) × (BitVec 64 → BitVec 64 → BitVec 64)) :=
  [(.addScalar, fun x y => x + y), (.subScalar, fun x y => x - y), (.mulScalar, fun x y => x * y),
   (.mulhiScalar, fun x y => ((x.setWidth 128 * y.setWidth 128) >>> 64).setWidth 64),
   (.iminScalar, fun x y => if x.slt y then x else y), (.imaxScalar, fun x y => if x.slt y then y else x),
   (.andScalar, fun x y => x &&& y), (.orScalar, fun x y => x ||| y), (.xorScalar, fun x y => x ^^^ y),
   (.andnScalar, fun x y => x &&& ~~~y), (.shlScalar, fun x y => x <<< (y.toNat % 64)),
   (.shrScalar, fun x y => x >>> (y.toNat % 64)), (.sarScalar, fun x y => x.sshiftRight (y.toNat % 64)),
   (.rotlScalar, fun x y => x.rotateLeft (y.toNat % 64))]

/-- ADD, SUB, MUL, MULHI, IMIN, IMAX, AND, OR, XOR, ANDN, SHL, SHR, SAR, ROTL, ADDC and SUBB, and the 16-bit forms of
nine of them, complete with room for the destination: each active lane of the destination holds R81's result with
tangents 0, every other lane and name stays (but the last-read frees), and nothing else of the machine changes. -/
def Obligations.VectorTwoSourceResults : Prop :=
  (∀ p ∈ vectorInt2, ∀ (g : PReg) (m : Marks2) (d a b : Reg) (s : State), s.writesV g (freed2 m a b) [d] →
    Completes (p.1 g m d a b) s (WroteV s [a, b] (freed2 m a b) d (s.active g) 2
      (primal fun l => p.2 ((s.readV a).get l) ((s.readV b).get l)))) ∧
  (∀ p ∈ shortInt2, ∀ (d b : Reg) (s : State), s.writesV 0 [] [d] →
    Completes (p.1 d b) s (WroteV s [d, b] [] d (s.active 0) 2
      (primal fun l => p.2 ((s.readV d).get l) ((s.readV b).get l))))

/-- IABS, POPC, CLZ, BREV, ADDI, MOVI, MOVHI, IMAD, BFX, BFI, BCAST, SREAD, EMGET, VOTE.BAL and the 16-bit MOVI and
ADDI complete with room for the destination: each active lane holds the rules' result with tangents 0, and nothing
else changes; that SREAD of CLK outside deterministic mode moves the timebase on, by a free number of ticks, and
changes nothing else is the model's choice (log entry 6). -/
def Obligations.VectorOneSourceResults : Prop :=
  ∀ (g : PReg) (m : Marks1) (d a b c : Reg) (k : PReg) (s : State),
    (s.writesV g (freed1 m a) [d] →
      Completes (.iabs g m d a) s (WroteV s [a] (freed1 m a) d (s.active g) 2 (primal fun l => ((s.readV a).get l).abs)) ∧
      Completes (.popc g m d a) s (WroteV s [a] (freed1 m a) d (s.active g) 2 (primal fun l =>
        BitVec.ofNat 32 ((List.range 32).filter ((s.readV a).get l).getLsbD).length)) ∧
      Completes (.clz g m d a) s (WroteV s [a] (freed1 m a) d (s.active g) 2 (primal fun l =>
        BitVec.ofNat 32 (((List.range 32).find? fun i => ((s.readV a).get l).getLsbD (31 - i)).getD 32))) ∧
      Completes (.brev g m d a) s (WroteV s [a] (freed1 m a) d (s.active g) 2 (primal fun l => ((s.readV a).get l).reverse)) ∧
      ∀ i : BitVec 11, m.ua = false → Completes (.addi g m.la d a i) s (WroteV s [a] (freed1 m a) d (s.active g) 2
        (primal fun l => (s.readV a).get l + i.signExtend 32))) ∧
    (s.writesV g [] [d] →
      (∀ i : BitVec 16,
        Completes (.movi g d i) s (WroteV s [] [] d (s.active g) 2 (primal fun _ => i.signExtend 32)) ∧
        Completes (.movhi g d i) s (WroteV s [d] [] d (s.active g) 2 (primal fun l =>
          ((s.readV d).get l <<< 16) ||| i.setWidth 32))) ∧
      Completes (.imad g d a b c) s (WroteV s [a, b, c] [] d (s.active g) 2 (primal fun l =>
        (s.readV a).get l * (s.readV b).get l + (s.readV c).get l)) ∧
      (∀ pos len1 : BitVec 5,
        Completes (.bfx g d a pos len1) s (WroteV s [a] [] d (s.active g) 2 (primal fun l =>
          ((s.readV a).get l >>> pos.toNat) &&& BitVec.ofNat 32 (2 ^ (len1.toNat + 1) - 1))) ∧
        Completes (.bfi g d a pos len1) s (WroteV s [d, a] [] d (s.active g) 2 (primal fun l =>
          let ones := BitVec.ofNat 32 (2 ^ (len1.toNat + 1) - 1) <<< pos.toNat
          ((s.readV d).get l &&& ~~~ones) ||| (((s.readV a).get l <<< pos.toNat) &&& ones)))) ∧
      Completes (.bcast g d a) s (WroteV s [] [] d (s.active g) 6 (primal fun _ => (s.readS a).setWidth 32)) ∧
      (∀ r, Completes (.sread g d r) s (WroteV (s.readTime r) [] [] d (s.active g) 2
        (primal fun l => ((s.readTime r).special r l).setWidth 32))) ∧
      Completes (.emget g d) s (WroteV s [] [] d (s.active g) 2 (primal fun _ => s.frag.em)) ∧
      Completes (.voteBal g d k) s (WroteV s [] [] d (s.active g) 6 (primal fun _ => s.readK k &&& s.active g))) ∧
    (s.writesV 0 [] [d] → ∀ i : BitVec 5,
      Completes (.movi16bit d i) s (WroteV s [] [] d (s.active 0) 2 (primal fun _ => i.signExtend 32)) ∧
      Completes (.addi16bit d i) s (WroteV s [d] [] d (s.active 0) 2 (primal fun l => (s.readV d).get l + i.signExtend 32)))

/-- MOV, SEL, LANEGET, the four SHFL and the 16-bit MOV write the source's primal and tangents (+0 tangents under DL
1), TSEED, TGET, TSET and TZERO the components that R131 gives when J is at most K; nothing else changes. With J above
K those four raise tangent capacity (12). -/
def Obligations.VectorMoves : Prop :=
  ∀ (g : PReg) (d a b : Reg) (s : State),
    let x (n : Reg) (j l : Nat) : BitVec 32 := (compAt (s.readDual n) j).get l
    let act := s.active g
    (∀ n : BitVec 5, s.issues → s.grp.kt < n.toNat → ∀ i ∈ [Instr.tseed g n d a b, .tget g n d a, .tset g n d b, .tzero g n d],
      Raises i s { code := 12, addr := 0, mask := 0, info := 0 }) ∧
    (∀ m : Marks1, s.writesV g (freed1 m a) [d] →
      Completes (.mov g m d a) s (WroteV s [a] (freed1 m a) d act 2 (x a)) ∧
      Completes (.laneget g m d a b) s (WroteV s [a] (freed1 m a) d act 6 fun j _ => x a j ((s.readS b).toNat % 32)) ∧
      ∀ n : BitVec 5,
        Completes (.shflUp g m d a n) s (WroteV s [a] (freed1 m a) d act 6 fun j l =>
          x a j (if n.toNat ≤ l then l - n.toNat else l)) ∧
        Completes (.shflDown g m d a n) s (WroteV s [a] (freed1 m a) d act 6 fun j l =>
          x a j (if l + n.toNat ≤ 31 then l + n.toNat else l)) ∧
        Completes (.shflXor g m d a n) s (WroteV s [a] (freed1 m a) d act 6 fun j l => x a j (l ^^^ n.toNat))) ∧
    (∀ m : Marks2, s.writesV g (freed2 m a b) [d] →
      Completes (.shflIdx g m d a b) s (WroteV s [a, b] (freed2 m a b) d act 6 fun j l =>
        x a j (((s.readV b).get l).toNat % 32))) ∧
    (s.writesV g [] [d] →
      (∀ k : PReg, Completes (.sel g d a b k) s (WroteV s [a, b] [] d act 2 fun j l =>
        if (s.readK k).getLsbD l then x a j l else x b j l)) ∧
      ∀ n : BitVec 5, 1 ≤ n.toNat → n.toNat ≤ s.grp.kt →
        let y (n : Reg) (j l : Nat) : BitVec 32 := (compAt (s.readVAll n) j).get l
        Completes (.tseed g n d a b) s (WroteV s [a, b] [] d act 4 fun j l =>
          if j = 0 then y a 0 l else if j = n.toNat then y b 0 l else 0) ∧
        Completes (.tget g n d a) s (WroteV s [a] [] d act 4 fun j l => if j = 0 then y a n.toNat l else 0) ∧
        ((s.readVAll d).length = s.grp.kt + 1 →
          Completes (.tset g n d b) s (WroteV s [d, b] [] d act 4 fun j l => if j = n.toNat then y b 0 l else y d j l) ∧
          Completes (.tzero g n d) s (WroteV s [d] [] d act 4 fun j l => if j = n.toNat then 0 else y d j l))) ∧
    (s.writesV 0 [] [d] → Completes (.mov16bit d b) s (WroteV s [b] [] d (s.active 0) 2 (x b)))

/-- The scalar forms of R81 and R82, SREAD, KTOS, SPGET, FMTGET, TCNT, ROLEGET, RQGET and SYSRD write the value that
their rules give into their scalar register and change nothing else; that SREAD of CLK outside deterministic mode
moves the timebase on, by a free number of ticks, and changes nothing else is the model's choice (log entry 6). RQXFER
writes 3 when its target names no other group of the block or one that has ended, 1 when that group's partition
differs, 2 when less quota is free than asked; else it writes 0 and moves the quota. -/
def Obligations.ScalarResults : Prop :=
  (∀ (d a b : Reg) (s : State), s.issues → s.grp.settledS d →
     (∀ p ∈ scalarInt2, Completes (p.1 d a b) s (WroteS s d (p.2 (s.readS a) (s.readS b)) 2)) ∧
     Completes (.movScalar d a) s (WroteS s d (s.readS a) 2) ∧
     (∀ i, Completes (.addiScalar d a i) s (WroteS s d (s.readS a + i.signExtend 64) 2)) ∧
     (∀ i, Completes (.moviScalar d i) s (WroteS s d (i.signExtend 64) 2)) ∧
     (∀ i, Completes (.movhiScalar d i) s (WroteS s d ((s.readS d <<< 16) ||| i.setWidth 64) 2)) ∧
     (∀ r, Completes (.sreadScalar d r) s (WroteS (s.readTime r) d ((s.readTime r).special r 0) 2)) ∧
     (∀ k, Completes (.ktos d k) s (WroteS s d ((s.readK k).setWidth 64) 2)) ∧
     Completes (.spget d) s (WroteS s d s.grp.sp 2) ∧
     Completes (.fmtget d) s (WroteS s d (s.frag.fmt &&& ~~~0xFF800000#64) 4) ∧
     Completes (.tcnt d) s (WroteS s d (BitVec.ofNat 64 s.grp.kt) 4) ∧
     Completes (.roleget d) s (WroteS s d (BitVec.ofNat 64 s.grp.role) 2) ∧
     Completes (.rqget d) s (WroteS s d (BitVec.ofNat 64 (s.grp.held * 2 ^ 16 + s.grp.quota)) 2) ∧
     ∀ c, Completes (.sysrd c d) s (WroteS s d (match c with
       | .tcause => s.grp.tcause
       | .taddr => s.grp.taddr
       | .tmask => s.grp.tmask.setWidth 64
       | .tepc => s.grp.tepc.setWidth 64
       | .tem => s.grp.tem.setWidth 64
       | .tstate => BitVec.ofNat 64 ((if s.grp.waitr then 8 else 0) + (if s.grp.pend then 4 else 0)
           + (if s.grp.supp then 2 else 0) + (if s.grp.tmode then 1 else 0))
       | .cst => s.grp.cst.setWidth 64) 2)) ∧
  (∀ (d a b : Reg) (s : State), s.issues → s.grp.settledS d →
     let i := (s.readS a).toNat
     let n := (s.readS b).toNat
     (s.grp.ngrp ≤ i ∨ i = s.grp.id.g → Completes (.rqxfer d a b) s (WroteS s d 3 2)) ∧
     ∀ x, i < s.grp.ngrp → i ≠ s.grp.id.g → s.groups.find? (fun y => y.id == { s.grp.id with g := i }) = some x →
       (x.ended = true → Completes (.rqxfer d a b) s (WroteS s d 3 2)) ∧
       (x.ended = false → x.place.part ≠ s.grp.place.part → Completes (.rqxfer d a b) s (WroteS s d 1 2)) ∧
       (x.ended = false → x.place.part = s.grp.place.part → s.grp.quota - s.grp.held < n →
         Completes (.rqxfer d a b) s (WroteS s d 2 2)) ∧
       (x.ended = false → x.place.part = s.grp.place.part → n ≤ s.grp.quota - s.grp.held →
         Completes (.rqxfer d a b) s fun t => t.grp.s[d.toFin] = 0 ∧ t.grp.quota = s.grp.quota - n ∧ t.mem = s.mem ∧
           t.grp.v = s.grp.v ∧ t.grp.k = s.grp.k ∧ ∃ y ∈ t.groups, y.id = x.id ∧ y.quota = x.quota + n ∧ y.v = x.v))

/-- ICMP, ICMPI, ICMP scalar, FCMP, KAND, KOR, KXOR, KNOT, KMOV, KFROMS, VOTE.ANY, VOTE.ALL and ELECT write the bits
of the active lanes (ICMP scalar: of all) and leave the others; a write to k0 changes nothing but the frees and the
notes of the sources read. LSCAN gives each active lane the sum of the source over the active lanes below it, REDUX
the fold of the source over all active lanes; both write active lanes only, with tangents 0. -/
def Obligations.PredicateResults : Prop :=
  (∀ (g d p q : PReg) (a b : Reg) (s : State), s.issues → s.grp.settledK d →
     let act := s.active g
     (∀ m : Marks2,
       let t := (s.touch [a, b]).freeNames (freed2 m a b)
       (∀ cc, ∃ bits, (∀ l, l < 32 → bits.getLsbD l = icond cc ((s.readV a).get l) ((s.readV b).get l)) ∧
         Completes (.icmp g m cc d a b) s (WroteK t d act bits 2)) ∧
       ∀ cc, ∃ bits, (∀ l, l < 32 → bits.getLsbD l = fcond cc (val32 ((s.readV a).get l)) (val32 ((s.readV b).get l))) ∧
         Completes (.fcmp g m cc d a b) s (WroteK t d act bits 4)) ∧
     (∀ la cc i, ∃ bits, (∀ l, l < 32 → bits.getLsbD l = icond (ICond4.toICond cc) ((s.readV a).get l) (i.signExtend 32)) ∧
       Completes (.icmpi g la cc d a i) s (WroteK ((s.touch [a]).freeNames (if la then [a] else [])) d act bits 2)) ∧
     (∀ cc, Completes (.icmpScalar cc d a b) s (WroteK s d (BitVec.allOnes 32)
       (if icond cc (s.readS a) (s.readS b) then BitVec.allOnes 32 else 0) 2)) ∧
     Completes (.kand g d p q) s (WroteK s d act (s.readK p &&& s.readK q) 2) ∧
     Completes (.kor g d p q) s (WroteK s d act (s.readK p ||| s.readK q) 2) ∧
     Completes (.kxor g d p q) s (WroteK s d act (s.readK p ^^^ s.readK q) 2) ∧
     Completes (.knot g d p) s (WroteK s d act (~~~(s.readK p)) 2) ∧
     Completes (.kmov g d p) s (WroteK s d act (s.readK p) 2) ∧
     Completes (.kfroms g d a) s (WroteK s d act ((s.readS a).setWidth 32) 2) ∧
     Completes (.voteAny g d p) s (WroteK s d act (if s.readK p &&& act = 0 then 0 else BitVec.allOnes 32) 6) ∧
     Completes (.voteAll g d p) s (WroteK s d act (if act &&& ~~~(s.readK p) = 0 then BitVec.allOnes 32 else 0) 6) ∧
     Completes (.elect g d) s (WroteK s d act (act &&& -act) 6)) ∧
  (∀ (g : PReg) (d a : Reg) (s : State), s.writesV g [] [d] →
     let x (l : Nat) : BitVec 32 := (s.readV a).get l
     let act (l : Nat) : Bool := (s.active g).getLsbD l
     let on := (List.range 32).filter act
     let wrote := fun (r : Nat → BitVec 32) => WroteV s [a] [] d (s.active g) 6 (primal r)
     Completes (.lscan g d a) s (wrote fun l => ((List.range l).filter act).foldl (fun y i => y + x i) 0) ∧
     Completes (.reduxAdd g d a) s (wrote fun _ => on.foldl (fun y i => y + x i) 0) ∧
     Completes (.reduxAnd g d a) s (wrote fun _ => on.foldl (fun y i => y &&& x i) (BitVec.allOnes 32)) ∧
     Completes (.reduxOr g d a) s (wrote fun _ => on.foldl (fun y i => y ||| x i) 0) ∧
     Completes (.reduxXor g d a) s (wrote fun _ => on.foldl (fun y i => y ^^^ x i) 0) ∧
     (∃ m ∈ on, (∀ i ∈ on, (x m).toInt ≤ (x i).toInt) ∧ Completes (.reduxMin g d a) s (wrote fun _ => x m)) ∧
     ∃ m ∈ on, (∀ i ∈ on, (x i).toInt ≤ (x m).toInt) ∧ Completes (.reduxMax g d a) s (wrote fun _ => x m))

/-- In an unsplit group the freed names are unmapped and no other name changes; in a split group every name stays
mapped and the freed ones that are mapped join the deferred-free list (R143). A read of an unmapped name gives 0 in
every lane and component. A lane-wise instruction with no active lane completes whatever the quota: its last-read
frees take effect, and no name is mapped or written. With an active lane, an unmapped destination that does not fit in
the quota raises quota exceeded (5) with no effect, and one that only reserved registers keep out waits. Said of
integer, exchange and float instructions of one shape each. -/
def Obligations.AllocationAndFrees : Prop :=
  (∀ (g : Group) (ns : List Reg),
     (g.split? = false → ∀ n, (g.freed ns).vreg n = if n ∈ ns then none else g.vreg n) ∧
     (g.split? = true → (g.freed ns).v = g.v ∧ ∀ n : Reg,
       (g.freed ns).deferredFree.getLsbD n.toNat = (g.deferredFree.getLsbD n.toNat || (decide (n ∈ ns) && g.mapped n))) ∧
     ∀ (s : State) (n : Reg), s.grp.vreg n = none → ∀ j l, l < 32 → (compAt (s.readVAll n) j).get l = 0) ∧
  ((∀ (g : PReg) (d a b : Reg) (s : State), s.issues → s.active g = 0 →
     (∀ m : Marks2, ∀ i ∈ (vectorInt2.map fun p => p.1 g m d a b) ++
         [.shflIdx g m d a b, .fadd g m d a b, .fsub g m d a b, .fmul g m d a b, .fmin g m d a b, .fmax g m d a b],
       Completes i s fun t => t.grp.v = (s.grp.freed (freed2 m a b)).v ∧ t.grp.s = s.grp.s ∧ t.grp.k = s.grp.k ∧
         t.mem = s.mem ∧ t.frag = s.frag) ∧
     ∀ m : Marks1, ∀ i ∈ [Instr.mov g m d a, .iabs g m d a, .laneget g m d a b],
       Completes i s fun t => t.grp.v = (s.grp.freed (freed1 m a)).v ∧ t.grp.s = s.grp.s ∧ t.grp.k = s.grp.k ∧
         t.mem = s.mem ∧ t.frag = s.frag) ∧
   ∀ p ∈ vectorInt2, ∀ (g : PReg) (m : Marks2) (d a b : Reg) (s : State), s.issues → s.active g ≠ 0 →
     let h := s.grp.freed (freed2 m a b)
     h.mapped d = false →
     (h.quota < (h.mappedCount + 1) * (h.kt + 1) →
       Raises (p.1 g m d a b) s { code := 5, addr := 0, mask := 0, info := 0 }) ∧
     ((h.mappedCount + 1) * (h.kt + 1) ≤ h.quota → h.quota < (h.mappedCount + 1) * (h.kt + 1) + h.reservedCount →
       Waits (p.1 g m d a b) s))

/-- The float instructions that DL 0 may prefix when K = 0 (R130), by R111 to R117, R121 and R26: the instruction, its value
sources and other sources, its last-read frees, its latency (R21) and what each lane makes of the seed. -/
def floatRows (g : PReg) (m : Marks2) (m1 : Marks1) (mode : BitVec 4) (dst src : BitVec 6) (d a b c : Reg) (s : State) :
    List (Instr × List Reg × List Reg × List Reg × Nat × (Nat → LaneFn)) :=
  let x (n : Reg) (l : Nat) := laneComps (s.readDual n) l
  let two (f : List (BitVec 32) → List (BitVec 32) → LaneFn) (l : Nat) := f (x a l) (x b l)
  let one (f : List (BitVec 32) → LaneFn) (l : Nat) := f (x a l)
  let three (f : List (BitVec 32) → List (BitVec 32) → List (BitVec 32) → LaneFn) (l : Nat) := f (x a l) (x b l) (x c l)
  let fa := freed1 m1 a
  [(.fadd g m d a b, [a, b], [], freed2 m a b, 4, two (addLane s false)),
   (.fsub g m d a b, [a, b], [], freed2 m a b, 4, two (addLane s true)),
   (.fmul g m d a b, [a, b], [], freed2 m a b, 4, two (mulLane s)),
   (.fmin g m d a b, [a, b], [], freed2 m a b, 4, two (minMaxLane s false)),
   (.fmax g m d a b, [a, b], [], freed2 m a b, 4, two (minMaxLane s true)),
   (.hadd2 g m d a b, [a, b], [], freed2 m a b, 4, two (haddLane s)),
   (.hmul2 g m d a b, [a, b], [], freed2 m a b, 4, two (hmulLane s)),
   (.fldexp g m d a b, [a], [b], freed2 m a b, 4, fun l => ldexpLane s (x a l) ((s.readV b).get l)),
   (.fabs g m1 d a, [a], [], fa, 4, one (absLane s)),
   (.fneg g m1 d a, [a], [], fa, 4, one (negLane s)),
   (.frnd g m1 mode d a, [a], [], fa, 4,
     one (rndLane s (if mode.getLsbD 3 then fmtRM s.frag.fmt else RM.ofCode (mode.setWidth 3)))),
   (.frcp g m1 d a, [a], [], fa, 12, one (fnLane s rcpNum fun t _ r => tterm t.neg (r.mul r))),
   (.frsq g m1 d a, [a], [], fa, 12, one (fnLane s rsqrtNum fun t _ r => (tterm t.neg ((r.mul r).mul r)).scale (-1))),
   (.fsqrt g m1 d a, [a], [], fa, 12, one (fnLane s sqrtNum fun t _ r => tquot t (r.scale 1))),
   (.fexp2 g m1 d a, [a], [], fa, 12, one (fnLane s exp2Num fun t _ r => tterm t (r.mul ln2Num))),
   (.flog2 g m1 d a, [a], [], fa, 12, one (fnLane s log2Num fun t y _ => tquot t (y.mul ln2Num))),
   (.fsin g m1 d a, [a], [], fa, 12, one (refLane s (refSinCos true) fun t y _ => tterm t (val32 (refSinCos false y)))),
   (.fcos g m1 d a, [a], [], fa, 12, one (refLane s (refSinCos false) fun t y _ => tterm t.neg (val32 (refSinCos true y)))),
   (.ftanh g m1 d a, [a], [], fa, 12, one (refLane s refTanh fun t _ r => tterm t ((Num.ofNat 1).add false (r.mul r).neg))),
   (.ffma g d a b c, [a, b, c], [], [], 4, three (fmaLane s)),
   (.hfma2 g d a b c, [a, b, c], [], [], 4, three (hfmaLane s)),
   (.fdot4 g d a b c, [c], [a, b], [], 4, fun l => dotLane s ((s.readV a).get l) ((s.readV b).get l) (x c l)),
   (.fcvt g dst src d a, [a], [], [], 4, one (fcvtLane s dst src))]

/-- The 16-bit float forms: destination and first source are one name (R26). -/
def floatShort (d b : Reg) (s : State) : List (Instr × (Nat → LaneFn)) :=
  let x (n : Reg) (l : Nat) := laneComps (s.readDual n) l
  [(.fadd16bit d b, fun l => addLane s false (x d l) (x b l)), (.fsub16bit d b, fun l => addLane s true (x d l) (x b l)),
   (.fmul16bit d b, fun l => mulLane s (x d l) (x b l)), (.fmax16bit d b, fun l => minMaxLane s true (x d l) (x b l))]

/-- What the lanes of `act` make of fmt.SEED in ascending order: the state with the seed they leave (R66, R68). -/
def seeded (f : Nat → LaneFn) (act : Mask) (s : State) : State :=
  { s with frag := { s.frag with
      fmt := fmtWithSeed s.frag.fmt (runLanes f (lanesOf act) (fmtSeed s.frag.fmt)).1 } }

/-- The component `j` that lane `l` of `act` makes. -/
def laneResult (f : Nat → LaneFn) (act : Mask) (s : State) (j l : Nat) : BitVec 32 :=
  match (runLanes f (lanesOf act) (fmtSeed s.frag.fmt)).2.find? (·.1 == l) with
  | some r => r.2.getD j 0
  | none => 0

/-- The binary32 code of an integer below 2^24 in magnitude: sign, exponent, trailing bits (R55, R76). -/
def intCode (i : Int) : BitVec 32 :=
  if i = 0 then 0
  else
    let n := i.natAbs
    BitVec.ofNat 32 ((if i < 0 then 2 ^ 31 else 0) + (n.log2 + 127) * 2 ^ 23 + (n * 2 ^ (23 - n.log2) - 2 ^ 23))

/-- Every float instruction that makes numbers (and the 16-bit ops 12 to 15) completes, without a DL 0 that acts, with
room for its destination: the active lanes take, in ascending order, their draws from fmt.SEED and hold the primal and
K tangents of the lane's function; fmt keeps all but the seed, and nothing else changes. On the codes of integers
below 2^24, in every rounding mode and whatever the draw, the lanes' functions of FADD, FSUB, FMUL and FFMA give the
code of the exact result where that is such an integer and not 0, those of FMIN, FMAX, FABS and FNEG the code of the
minimum, the maximum, the magnitude and the negation; infinity plus its negation and infinity times 0 are the
canonical NaN, and FMIN and FMAX take a number rather than a NaN and -0 to lie below +0. -/
def Obligations.FloatResults : Prop :=
  (∀ (s : State) (seed : BitVec 32) (i j k : Int),
    let exact (x : BitVec 32 × List (BitVec 32)) (n : Int) : Prop := n ≠ 0 → n.natAbs < 2 ^ 24 → x.2.headD 0 = intCode n
    let c := intCode
    i.natAbs < 2 ^ 24 → j.natAbs < 2 ^ 24 → k.natAbs < 2 ^ 24 →
    exact (addLane s false [c i] [c j] seed) (i + j) ∧ exact (addLane s true [c i] [c j] seed) (i - j) ∧
    exact (mulLane s [c i] [c j] seed) (i * j) ∧ exact (fmaLane s [c i] [c j] [c k] seed) (i * j + k) ∧
    (minMaxLane s false [c i] [c j] seed).2.headD 0 = c (min i j) ∧ (minMaxLane s true [c i] [c j] seed).2.headD 0 = c (max i j) ∧
    (absLane s [c i] seed).2.headD 0 = c i.natAbs ∧ exact (negLane s [c i] seed) (-i)) ∧
  (∀ (s : State) (seed : BitVec 32),
    (addLane s false [0x7F800000] [0xFF800000] seed).2.headD 0 = 0x7FC00000 ∧
    (mulLane s [0x7F800000] [0] seed).2.headD 0 = 0x7FC00000 ∧
    ∀ max : Bool, (∀ x y : BitVec 32, isNan32 x = true → isNan32 y = false →
        (minMaxLane s max [x] [y] seed).2.headD 0 = y ∧ (minMaxLane s max [y] [x] seed).2.headD 0 = y) ∧
      (minMaxLane s max [0x80000000] [0] seed).2.headD 0 = (if max then 0 else 0x80000000) ∧
      (minMaxLane s max [0] [0x80000000] seed).2.headD 0 = if max then 0 else 0x80000000) ∧
  ∀ (g : PReg) (m : Marks2) (m1 : Marks1) (mode : BitVec 4) (dst src : BitVec 6) (d a b c : Reg) (s : State),
    (∀ p ∈ floatRows g m m1 mode dst src d a b c s, s.writesV g p.2.2.2.1 [d] →
      Completes p.1 s (WroteV (seeded p.2.2.2.2.2 (s.active g) s) (p.2.1 ++ p.2.2.1) p.2.2.2.1 d (s.active g) p.2.2.2.2.1
        (laneResult p.2.2.2.2.2 (s.active g) s))) ∧
    ∀ p ∈ floatShort d b s, s.writesV 0 [] [d] →
      Completes p.1 s (WroteV (seeded p.2 (s.active 0) s) [d, b] [] d (s.active 0) 4 (laneResult p.2 (s.active 0) s))

/-- Under DL 0 with K = 0 a float instruction writes its primal to d and its one tangent to d + 1; with v31 among its
destination and value sources it raises tangent capacity (12); and before the integer instructions of two sources DL 0
raises illegal encoding (1), TEPC standing at the DL. -/
def Obligations.DualPrefix : Prop :=
  ∀ (g : PReg) (m : Marks2) (m1 : Marks1) (mode : BitVec 4) (dst src : BitVec 6) (d a b c : Reg) (s : State),
    s.live = true → s.dlDual = true →
    (∀ p ∈ floatRows g m m1 mode dst src d a b c s,
      (31#5 ∈ d :: p.2.1 → Raises p.1 s { code := 12, addr := 0, mask := 0, info := 0 }) ∧
      (31#5 ∉ d :: p.2.1 → s.active g ≠ 0 → (s.grp.freed p.2.2.2.1).room [d, d + 1] = .ok → s.grp.settledV d →
        s.grp.settledV (d + 1) → Completes p.1 s fun t => ∃ u,
          WroteV (seeded p.2.2.2.2.2 (s.active g) s) (p.2.1 ++ p.2.1.map (· + 1) ++ p.2.2.1) p.2.2.2.1 d (s.active g)
            p.2.2.2.2.1 (laneResult p.2.2.2.2.2 (s.active g) s) u ∧
          WroteV u [] [] (d + 1) (s.active g) p.2.2.2.2.1 (fun _ => laneResult p.2.2.2.2.2 (s.active g) s 1) t)) ∧
    ∀ p ∈ vectorInt2, Raises (p.1 g m d a b) s { code := 1, addr := 0, mask := 0, info := 0 }

/-- PACK, UNPK, ICVT and FTOI complete with room for their destinations: the active lanes hold the code that their
rule forms from the sources as they stood, with tangents 0; PACK, ICVT and FTOI leave the seed that their draws make;
a 64-bit FTOI writes the high words to the next name. In every rounding mode and whatever the draw, an integer below
2^24 converts from S32 to its binary32 code and back to itself, and the byte that UNPK takes of S8 elements is the
code of its signed value. -/
def Obligations.PackAndConvert : Prop :=
  (∀ (s : State) (seed : BitVec 32) (i : Int), i.natAbs < 2 ^ 24 →
    (convert s 0x08 0x02 (BitVec.ofInt 32 i).toNat seed).2 = (intCode i).setWidth 64 ∧
    (convert s 0x02 0x08 (intCode i).toNat seed).2 = BitVec.ofInt 64 i) ∧
  (∀ (s : State) (x : BitVec 32) (e : Nat), e < 4 → fmtAF s.frag.fmt = 0 →
    unpkLane s e x = intCode (x.extractLsb' (8 * e) 8).toInt) ∧
  ∀ (g : PReg) (m : Marks2) (m1 : Marks1) (dst src : BitVec 6) (i : BitVec 5) (d a b : Reg) (s : State),
    let act := s.active g
    let x (n : Reg) (l : Nat) := (s.readV n).get l
    (s.writesV g (freed2 m a b) [d] →
      let f := fun l => packLane s (x d l) (x a l) (x b l)
      Completes (.pack g m d a b) s
        (WroteV (seeded f act s) [d, a, b] (freed2 m a b) d act 4 (primal (laneResult f act s 0)))) ∧
    (s.writesV g (freed1 m1 a) [d] →
      Completes (.unpk g m1 d a i) s (WroteV s [a] (freed1 m1 a) d act 4 (primal fun l => unpkLane s i.toNat (x a l)))) ∧
    (s.writesV g [] [d] →
      let f : Nat → LaneFn := fun l seed =>
        ((convert s dst src (convSrc src (x a l) (x (a + 1) l)) seed).1,
         [(convert s dst src (convSrc src (x a l) (x (a + 1) l)) seed).2.setWidth 32])
      Completes (.icvt g dst src d a) s
        (WroteV (seeded f act s) (if fmt64 src then [a, a + 1] else [a]) [] d act 4 (primal (laneResult f act s 0)))) ∧
    let h : Nat → LaneFn := fun l seed =>
      ((convert s dst src (x a l).toNat seed).1,
       [(convert s dst src (x a l).toNat seed).2.setWidth 32, (convert s dst src (x a l).toNat seed).2.extractLsb' 32 32])
    (fmt64 dst = false → s.writesV g [] [d] →
      Completes (.ftoi g dst src d a) s (WroteV (seeded h act s) [a] [] d act 4 (primal (laneResult h act s 0)))) ∧
    (fmt64 dst = true → s.writesV g [] [d, d + 1] →
      Completes (.ftoi g dst src d a) s fun t => ∃ u,
        WroteV (seeded h act s) [a] [] d act 4 (primal (laneResult h act s 0)) u ∧
        WroteV u [] [] (d + 1) act 4 (primal (laneResult h act s 1)) t)

/-- A draw replaces a zero seed by 1, applies the three shift and exclusive-or steps in order, stores the result as
the new seed and yields bits [31:8] of it. -/
def Obligations.SeedDraw : Prop :=
  ∀ seed : BitVec 32,
    let s0 := if seed = 0 then 1#32 else seed
    let s1 := s0 ^^^ (s0 <<< 13)
    let s2 := s1 ^^^ (s1 >>> 17)
    let s3 := s2 ^^^ (s2 <<< 5)
    srDraw seed = (s3, (s3.extractLsb' 8 24).toNat)

/-- For every binary32 code that is no NaN and every rounding mode and draw, rounding the code's own value gives the
code back, the sign of zero included. -/
def Obligations.RoundingKeepsValues : Prop :=
  ∀ (x : BitVec 32) (rm : RM) (u : Nat), u < 2 ^ 24 → isNan32 x = false → round32 rm u (val32 x) = x

/-- NOP and YIELD change no register; YIELD goes on as slot code 11 does; DL becomes the mode of the next instruction
of the bundle and before another DL is an illegal encoding; EMSET sets em to S(a) within the fragment's own lanes;
FMTSET the bits that S(b) selects but the reserved ones; JOIN sets JR once its address passes the check; ROLESET sets
ROLE and above 4 raises bad role. -/
def Obligations.PlainControl : Prop :=
  ∀ (a b : Reg) (o : BitVec 22) (mode : Bool) (s : State), s.issues →
    Completes .nop s (fun t => t = s) ∧
    Completes .yield s (fun t => t = { s with latch := { s.latch with code := 3 } }) ∧
    (s.latch.dl = none → exec (.dl mode) s = .next { s with latch := { s.latch with dl := some mode } }) ∧
    (s.latch.dl.isSome → Raises (.dl mode) s { code := 1, addr := 0, mask := 0, info := 0 }) ∧
    Completes (.emset a) s (fun t => t = { s with frag := { s.frag with
      em := (s.readS a).setWidth 32 &&& s.frag.lanes } }) ∧
    Completes (.fmtset a b) s (fun t => ∃ f : BitVec 64, t = { s with frag := { s.frag with fmt := f } } ∧
      ∀ i, i < 64 → f.getLsbD i = if (s.readS b).getLsbD i ∧ ¬ (23 ≤ i ∧ i < 32) then (s.readS a).getLsbD i
        else s.frag.fmt.getLsbD i) ∧
    (let t := s.latch.here + (o.signExtend 52 <<< 1)
     (s.checkTarget t = .ok → Completes (.join o) s (fun u => u = { s with frag := { s.frag with jr := t } })) ∧
     (s.checkTarget t = .bad → Raises (.join o) s { code := 3, addr := t.setWidth 64, mask := 0, info := 0 })) ∧
    ((s.readS a).toNat ≤ 4 → s.traceA = 0 → Completes (.roleset a) s (fun t => t =
      { s with grp := { s.grp with role := (s.readS a).toNat } })) ∧
    (4 < (s.readS a).toNat → Raises (.roleset a) s { code := 10, addr := 0, mask := 0, info := 0 })

/-- SPGET writes sp into its scalar register; SPSET writes any value to sp, its low four bits cleared, whatever the
limit of sg3; each changes nothing else. -/
def Obligations.SpillPointer : Prop :=
  ∀ (r : Reg) (s : State), s.issues →
    (s.grp.settledS r → Completes (.spget r) s (WroteS s r s.grp.sp 2)) ∧
    Completes (.spset r) s fun t => ∃ x : BitVec 64, t = { s with grp := { s.grp with sp := x } } ∧
      ∀ i, i < 64 → x.getLsbD i = (decide (4 ≤ i) && (s.readS r).getLsbD i)

/-- BRI sets pc to bits [51:0] of its scalar once they pass the check; a target that fails raises bad target with it
in TADDR, and a target outside the lease is a lease violation. No register changes and no fragment diverges. -/
def Obligations.BriTarget : Prop :=
  ∀ (a : Reg) (s : State), s.issues →
    let t : VA := (s.readS a).extractLsb' 0 52
    (s.checkTarget t = .ok → exec (.bri a) s = .next (s.goesOn t)) ∧
    (s.checkTarget t = .bad → Raises (.bri a) s { code := 3, addr := t.setWidth 64, mask := 0, info := 0 }) ∧
    (s.checkTarget t = .lease →
      exec (.bri a) s = .next { (s.leaseViolation s.grp.id.l).stepDone with fresh := s.fresh + 1 })

/-- A BRA whose target passes the check goes there when all lanes of em take it, on to the next instruction when none
does, and else splits: the issuing fragment keeps the lanes that do not take it, a new fragment at the target has
those that do, both are members of a split with the fragment's lanes and JR (one level deeper, with no write-back to
memory, while the split table has three free entries), and no register changes; beyond depth 8 or in a handler it
raises split overflow (4). In a fragment that is already a member of a split with the same JR the new fragment becomes
one more member of that split, at whatever depth (said while the group has no entry written back and one entry is
free). The target is checked in every case. -/
def Obligations.BranchOutcomes : Prop :=
  ∀ (g : PReg) (o : BitVec 22) (s : State), s.issues →
    let target := s.latch.here + (o.signExtend 52 <<< 1)
    let em := s.frag.em
    let tk := em &&& s.readK g
    let inHandler := s.grp.tmode = true ∧ s.grp.handler = some s.frag.entry
    let sibling (x : Split) := s.frag.split = some x.entry ∧ x.join = s.frag.jr ∧ x ∈ s.grp.splits
    (s.checkTarget target = .bad → Raises (.bra g o) s { code := 3, addr := target.setWidth 64, mask := 0, info := 0 }) ∧
    (s.checkTarget target = .ok →
      (tk = em → exec (.bra g o) s = .next (s.goesOn target)) ∧
      (tk = 0 → em ≠ 0 → exec (.bra g o) s = .next (s.goesOn s.latch.next)) ∧
      (tk ≠ em → tk ≠ 0 →
        (inHandler → Raises (.bra g o) s { code := 4, addr := target.setWidth 64, mask := tk, info := 0 }) ∧
        (¬ inHandler → (∀ x, ¬ sibling x) → 8 ≤ s.grp.depthOf s.frag →
          Raises (.bra g o) s { code := 4, addr := target.setWidth 64, mask := tk, info := 0 }) ∧
        (¬ inHandler → (∀ x, ¬ sibling x) → s.grp.depthOf s.frag < 8 →
          Completes (.bra g o) s fun t =>
            t.frag.em = em &&& ~~~tk ∧ t.frag.lanes = s.frag.lanes &&& ~~~tk ∧ t.frag.fmt = s.frag.fmt ∧
            t.grp.v = s.grp.v ∧ t.grp.s = s.grp.s ∧ t.grp.k = s.grp.k ∧ t.grp.tx = s.grp.tx ∧ (3 ≤ s.tableFree.length → t.mem = s.mem) ∧
            (∃ y ∈ t.grp.frags, y.pc = target ∧ y.em = tk ∧ y.lanes = tk ∧ y.split = t.frag.split) ∧
            ∃ x ∈ t.grp.splits, t.frag.split = some x.entry ∧ x.lanes = s.frag.lanes ∧ x.join = s.frag.jr ∧
              x.members = 2 ∧ x.parent = s.frag.split ∧
              (3 ≤ s.tableFree.length → x.depth = s.grp.depthOf s.frag + 1)) ∧
        (¬ inHandler → ∀ x, sibling x → s.grp.writtenEntries = [] → 1 ≤ s.tableFree.length →
          Completes (.bra g o) s fun t =>
            t.frag.em = em &&& ~~~tk ∧ t.frag.lanes = s.frag.lanes &&& ~~~tk ∧ t.frag.split = s.frag.split ∧ t.frag.entry = s.frag.entry ∧
            t.grp.v = s.grp.v ∧ t.grp.s = s.grp.s ∧ t.grp.k = s.grp.k ∧ t.grp.tx = s.grp.tx ∧ t.mem = s.mem ∧
            (∃ y ∈ t.grp.frags, y.pc = target ∧ y.em = tk ∧ y.lanes = tk ∧ y.split = s.frag.split) ∧
            ∃ z ∈ t.grp.splits, z.entry = x.entry ∧ z.members = x.members + 1 ∧ z.lanes = x.lanes ∧ z.join = x.join ∧
              z.depth = x.depth ∧ z.parent = x.parent)))

/-- END of the only fragment ends the group: it stands among the ended groups without fragments, cursors or
watchpoints, its live transaction aborted with cause 5, and its block notes it. END of another fragment leaves a live
group of fewer fragments. -/
def Obligations.FragmentEnds : Prop :=
  ∀ s : State, s.issues →
    (s.grp.frags = [] → ∃ t, exec .endFrag s = .next t ∧ t.live = false ∧
      (∃ g ∈ t.groups, g.id = s.grp.id ∧ g.ended = true ∧ g.frags = [] ∧ g.cursors = [] ∧ g.tx = none ∧
        g.w = Vector.replicate 4 { kind := .rd, lo := 0, hi := 0, table := 0, en := false } ∧
        g.v = s.grp.v ∧ (s.grp.tx.any (fun x => x.cause == 0) = true → g.txCause = 5)) ∧
      ∀ b ∈ t.blocks, b.l = s.grp.id.l → b.idx = s.grp.id.blk → s.grp.id.g < 32 → b.endedGroups.getLsbD s.grp.id.g = true) ∧
    (s.grp.frags ≠ [] → ∃ t, exec .endFrag s = .next t ∧ t.live = true ∧ t.grp.id = s.grp.id ∧
      t.grp.ended = s.grp.ended ∧ t.grp.s = s.grp.s ∧ t.grp.k = s.grp.k ∧ t.blocks = s.blocks ∧
      (t.frag :: t.grp.frags).length ≤ s.grp.frags.length)

/-- What going on after an instruction changes: pc, issue bookkeeping, latencies that have passed, slot and event
counters and, at its split's join, the fragments. Scalars, predicates, pointers, trap registers, counters of
operations and transactions stay; so do vectors, em and lanes away from a join; and with no debugger's step, and no
entry of the group to reload at a join, nothing else of the machine changes. -/
def Obligations.GoesOnFrame : Prop :=
  ∀ (t : State) (a : VA),
    let u := t.goesOn a
    u.grp.s = t.grp.s ∧ u.grp.k = t.grp.k ∧ u.grp.sp = t.grp.sp ∧ u.grp.sh = t.grp.sh ∧ u.grp.sg = t.grp.sg ∧
    u.grp.id = t.grp.id ∧ u.grp.quota = t.grp.quota ∧ u.grp.role = t.grp.role ∧ u.grp.count = t.grp.count ∧
    u.grp.tcause = t.grp.tcause ∧ u.grp.taddr = t.grp.taddr ∧ u.grp.tmask = t.grp.tmask ∧ u.grp.tepc = t.grp.tepc ∧
    u.grp.tem = t.grp.tem ∧ u.grp.tmode = t.grp.tmode ∧ u.grp.pend = t.grp.pend ∧ u.grp.waitr = t.grp.waitr ∧
    u.grp.w = t.grp.w ∧ u.grp.cst = t.grp.cst ∧ u.grp.cursors = t.grp.cursors ∧ u.grp.tx = t.grp.tx ∧
    u.grp.txCause = t.grp.txCause ∧ u.grp.unmapped = t.grp.unmapped ∧
    u.grp.pending.map (fun p => (p.op, p.cls, p.name, p.source, p.clobbered)) =
      t.grp.pending.map (fun p => (p.op, p.cls, p.name, p.source, p.clobbered)) ∧
    u.grp.issued = t.grp.issued + 1 ∧ u.grp.cycle = t.grp.cycle + 1 + t.latch.gap ∧
    (∀ x, x ∈ u.grp.lat ↔ x ∈ t.grp.lat ∧ u.grp.cycle < x.ready) ∧
    (t.grp.joins { t.frag with pc := a, st := .ready } = none →
      u.frag.pc = a ∧ u.frag.em = t.frag.em ∧ u.frag.lanes = t.frag.lanes ∧ u.frag.fmt = t.frag.fmt ∧
      u.frag.jr = t.frag.jr ∧ u.grp.v = t.grp.v ∧ u.grp.splits = t.grp.splits ∧ u.grp.frags = t.grp.frags ∧
      u.grp.pending = t.grp.pending ∧ u.grp.reserved = t.grp.reserved) ∧
    ((∀ d ∈ t.dbg, d.stepping = false) →
      t.grp.joins { t.frag with pc := a, st := .ready } = none ∨ t.grp.writtenEntries = [] →
      u = { t with grp := u.grp, frag := u.frag, latch := u.latch, dbg := u.dbg, counts := u.counts, fresh := t.fresh + 1,
                   nextRot := u.nextRot })

/-- Outside a transaction, with the target passing its check, room below the limit of sg3 and the record's bytes
accessible, CALL and CALLI start the store of the 16-byte record (next address, then zero) at sp, add 16 to sp and go
to the target; a record that passes the limit raises spill overflow with sp in TADDR; inside a transaction they raise
transaction misuse. RET reads the 8 bytes at sp - 16, once no earlier access to them is still to come and while no
engine is writing them, goes to their low 52 bits when they pass the check (that the others are ignored is the model's
choice, log entry 57), and takes 16 from sp; below 16 it raises spill overflow; an address that fails raises bad
target. With the record inside sg3 and accessible, PUSHM starts the store of the record at sp and adds its size to sp,
freeing its names at once in its free form; POPM of scalars starts an operation that returns the words, as they stand,
of the record that a PUSHM of its class, count and K left there, and takes the size from sp (which records those are
is the model's choice, log entry 19). A record that does not fit raises spill overflow. POPM of vectors completes when
the names of such a record, its header as it was, find room, and always on any other record, whose names and values
are undefined. -/
def Obligations.CallsAndSpills : Prop :=
  (∀ (o : BitVec 22) (a : Reg) (s : State), s.issues →
     (s.grp.tx = none →
       (s.grp.sp.toNat < 16 → Raises .ret s { code := 6, addr := s.grp.sp, mask := 0, info := 0 }) ∧
       ∀ accs, 16 ≤ s.grp.sp.toNat → s.checkSpill .rd (s.grp.sp.toNat - 16) 8 = .ok accs →
         let ps := accs.flatMap Acc.locs
         let raw := BitVec.ofNat 64 (leNat (s.readLocs ps))
         (s.busyLocs ps = true → Waits .ret s) ∧
         (s.busyLocs ps = false → (∀ q ∈ s.ops, ∀ p ∈ ps, q.writesTo p = false) →
           (s.checkTarget (raw.setWidth 52) = .ok → ∃ t : State, exec .ret s = .next (t.goesOn (raw.setWidth 52)) ∧
             t.grp = { s.grp with sp := s.grp.sp - 16, seen := t.grp.seen } ∧ t.frag = s.frag ∧ t.mem = s.mem ∧ t.blocks = s.blocks ∧
             t.ops = s.ops) ∧
           (s.checkTarget (raw.setWidth 52) = .bad → Raises .ret s { code := 3, addr := raw, mask := 0, info := 0 }))) ∧
     ∀ p ∈ [(Instr.call o, s.latch.here + (o.signExtend 52 <<< 1)), (.calli a, (s.readS a).setWidth 52)],
       (s.grp.tx.isSome → Raises p.1 s { code := 20, addr := 0, mask := 0, info := 0 }) ∧
       (s.grp.tx = none → s.checkTarget p.2 = .ok →
         (s.grp.limit 3 < s.grp.sp.toNat + 16 → Raises p.1 s { code := 6, addr := s.grp.sp, mask := 0, info := 0 }) ∧
         ∀ accs, s.grp.sp.toNat + 16 ≤ s.grp.limit 3 → s.checkSpill .wr s.grp.sp.toNat 16 = .ok accs →
           s.inj[s.grp.place.part.cu.die.toFin].en = false →
           ∃ t : State, exec p.1 s = .next (t.goesOn p.2) ∧
             Started s none (.store (accs.map fun c => { c with
               data := leBytes 8 s.latch.next.toNat ++ leBytes 8 0 }) none) t ∧
             t.grp = { s.grp with sp := s.grp.sp + 16 })) ∧
  (∀ (c d : BitVec 5) (s : State), s.issues → s.grp.tx = none → c.toNat + d.toNat ≤ 31 →
     let ns := nameRange d c
     let sp := s.grp.sp
     let bytes (accs : List Acc) := s.readLocs (accs.flatMap Acc.locs)
     let left (scalar : Bool) (accs : List Acc) : Prop :=
       { scalar := scalar, count := c.toNat + 1, kt := s.grp.kt, locs := accs.flatMap Acc.locs } ∈ s.spills ∧
         (scalar = false → headerFits (bytes accs) (c.toNat + 1) s.grp.kt = true)
     let still (accs : List Acc) : Prop :=
       s.busyLocs (accs.flatMap Acc.locs) = false ∧ ∀ q ∈ s.ops, ∀ p ∈ accs.flatMap Acc.locs, q.writesTo p = false
     (∀ scalar free : Bool, (free = true → scalar = false) →
       let size := recordSize scalar (c.toNat + 1) s.grp.kt
       (s.grp.limit 3 < sp.toNat + size → Raises (.pushm c scalar free d) s { code := 6, addr := sp, mask := 0, info := 0 }) ∧
       ∀ accs, sp.toNat + size ≤ s.grp.limit 3 → s.checkSpill .wr sp.toNat size = .ok accs → s.grp.st < 31 →
         s.inj[s.grp.place.part.cu.die.toFin].en = false →
         Completes (.pushm c scalar free d) s fun t =>
           Started s (some .st) (.store (accs.map fun x => { x with data := s.spillRecord scalar ns d }) none) t ∧
           t.grp.sp = sp + BitVec.ofNat 64 size ∧ t.grp.s = s.grp.s ∧ t.grp.k = s.grp.k ∧
           t.grp.v = if free then (s.grp.freed ns).v else s.grp.v) ∧
     (let size := recordSize true (c.toNat + 1) s.grp.kt
      (sp.toNat < size → Raises (.popm c true d) s { code := 6, addr := sp, mask := 0, info := 0 }) ∧
      ∀ accs, size ≤ sp.toNat → s.checkSpill .rd (sp.toNat - size) size = .ok accs → s.grp.ld < 31 → still accs →
       Completes (.popm c true d) s fun t =>
         Started s (some .ld) .results t ∧ t.grp.sp = sp - BitVec.ofNat 64 size ∧ t.grp.v = s.grp.v ∧ t.grp.k = s.grp.k ∧
         ∃ o ∈ t.ops, o.id = s.nextId ∧ ∀ i, i ≤ c.toNat → ∃ w ∈ o.results, w.cls = .scalar ∧ w.name = d.toNat + i ∧
           (left true accs → w.word = BitVec.ofNat 64 (leNat (((bytes accs).drop (8 * i)).take 8)))) ∧
     (let size := recordSize false (c.toNat + 1) s.grp.kt
      ∀ accs, size ≤ sp.toNat → s.checkSpill .rd (sp.toNat - size) size = .ok accs → s.grp.ld < 31 → still accs →
       let bits := leNat ((bytes accs).take 4)
       let popped (t : State) : Prop :=
         Started s (some .ld) .results t ∧ t.grp.sp = sp - BitVec.ofNat 64 size ∧ t.grp.s = s.grp.s ∧ t.grp.k = s.grp.k
       (left false accs →
         ((ns.filter fun n => !bits.testBit (n - d).toNat).foldl Group.unmap s.grp).room
             (ns.filter fun n => bits.testBit (n - d).toNat) = .ok →
         Completes (.popm c false d) s fun t => popped t ∧
           ∀ n ∈ ns, t.grp.mapped n = bits.testBit (n - d).toNat) ∧
       (¬ left false accs → Completes (.popm c false d) s popped)))

/-- A term below 31 is live. WAIT completes when every live term holds, WAIT.ANY when one does or none is live, and
otherwise they wait; the completed results of the counters whose terms hold are delivered, and their names are
undefined no longer. Where one of them is of an ARED the WAIT is an acquire at .FAB, which leaves no line of global
memory in the CU's L1; else nothing but the group changes. -/
def Obligations.WaitTerms : Prop :=
  ∀ (mx cp st ld : BitVec 5) (s : State), s.issues →
    let terms := [(Ctr.ld, ld.toNat), (.st, st.toNat), (.cp, cp.toNat), (.mx, mx.toNat)].filter fun t => decide (t.2 < 31)
    let holds (t : Ctr × Nat) : Bool := decide (s.grp.count t.1 ≤ t.2)
    let observed (cs : List Ctr) (t : State) : Prop :=
      (if s.grp.done.any fun d => cs.contains d.ctr && d.fab then
         t.mem = s.mem ∧ t.ops = s.ops ∧ t.frag = s.frag ∧ ∀ x ∈ t.l1, x.cu = s.grp.place.part.cu → x.const.isSome = true
       else t = { s with grp := t.grp }) ∧
      t.grp.done = s.grp.done.filter (fun d => !cs.contains d.ctr) ∧
      (∀ p, p ∈ t.grp.pending ↔ p ∈ s.grp.pending ∧ ∀ d ∈ s.grp.done, cs.contains d.ctr = true → d.op ≠ p.op) ∧
      ∀ d w, s.grp.done = [d] → cs.contains d.ctr = true → d.writes = [w] → w.cls = .scalar → w.name < 32 →
        (∀ p ∈ s.grp.pending, p.clobbered = false ∧ p.first = none) → t.grp.s.toList[w.name]? = some w.word
    (if terms.all holds then Completes (.wait mx cp st ld) s (observed (terms.map Prod.fst)) else Waits (.wait mx cp st ld) s) ∧
    (if terms = [] ∨ terms.any holds then
        Completes (.waitAny mx cp st ld) s (observed ((terms.filter holds).map Prod.fst))
      else Waits (.waitAny mx cp st ld) s)

/-- With TMODE 0 and a trap vector that passes its check, TRAP n (fault 26, INFO n), an illegal encoding (1) and a
malformed bundle (2, TADDR its address) save cause, address, lanes, pc and em, set TMODE, and go on at the vector with
em the fragment's lanes; vectors, scalars, predicates and memory stay, and an open transaction is doomed with cause 4.
With no usable vector, or in the fragment that handles a fault, a fault stops the running launch with STATE 5 and
CAUSE 0 to be recorded (CAUSE 1 where fetching the vector is a lease violation), and no group of it issues any more;
where it is no lease violation the 64 bytes at CTXA, on a page that is not protected, hold the fault record: cause
word, pc, address, lanes, group index, block coordinates, zeros. While the host has still to walk the vector's page
the fragment waits (that a fault does so is the model's choice, log entry 31). Under TMODE a fault of another fragment
sets PEND and holds that fragment at the instruction, and commits nothing. -/
def Obligations.ExceptionEntry : Prop :=
  (∀ (n : BitVec 10) (s : State), s.issues → s.grp.tmode = false → s.checkVector = .ok → (∀ d ∈ s.dbg, d.stepping = false) →
     ∀ p ∈ [(Instr.trap n, 26, 0, n.setWidth 16), (.illegalEncoding, 1, 0, 0),
         (.bundleMalformed, 2, BitVec.ofNat 64 (s.latch.here.toNat / 32 * 32), 0)],
       ∃ t, exec p.1 s = .next t ∧
         t.grp.tcause = BitVec.ofNat 64 (p.2.2.2.toNat * 256 + p.2.1) ∧ t.grp.taddr = p.2.2.1 ∧ t.grp.tmask = 0 ∧
         t.grp.tepc = s.latch.start ∧ t.grp.tem = s.frag.em ∧ t.grp.tmode = true ∧ t.grp.supp = false ∧
         t.frag = { s.frag with pc := s.grp.trapVec, em := s.frag.lanes, st := .ready, skip := false } ∧ t.live = true ∧
         t.grp.v = s.grp.v ∧ t.grp.s = s.grp.s ∧ t.grp.k = s.grp.k ∧ t.grp.sp = s.grp.sp ∧ t.mem = s.mem ∧
         t.hostMem = s.hostMem ∧ t.blocks = s.blocks ∧ t.groups = s.groups ∧
         t.grp.tx = s.grp.tx.map fun x =>
           if x.cause = 0 then { x with cause := 4, ops := [], stores := [], rows := [], lines := [] } else x) ∧
  (∀ (e : Exc) (s : State) (x : Launch), s.live = true → s.launch? s.grp.id.l = some x → x.state < 3 → x.final = none →
     (s.grp.tmode = false → s.checkVector = .wait →
       (s.raise e).live = true ∧ (s.raise e).grp = s.grp ∧ (s.raise e).mem = s.mem ∧ (s.raise e).launches = s.launches ∧
       (s.raise e).frag = { s.frag with pc := s.latch.start, st := .stalled, again := false }) ∧
     ((s.grp.tmode = true ∧ s.grp.handler = some s.frag.entry) ∨ (s.grp.tmode = false ∧ s.checkVector = .bad) →
       ∀ pa : Nat, Memory.wf s.mem = true → (∀ m : List Host.Cell, (∀ y, y < pa ∨ pa + 64 ≤ y → readByte m y = readByte s.mem y) → ∀ k, k < 4 →
           ({ s with mem := m } : State).areaPart s.grp.job (x.lrec.ctxa.toNat + 16 * k) = some (pa + 16 * k, none)) →
         readBytes (s.raise e).mem pa 64 =
           leBytes 8 (e.info.toNat * 256 + e.code) ++ leBytes 8 s.latch.start.toNat ++ leBytes 8 e.addr.toNat ++ leBytes 4 e.mask.toNat
             ++ leBytes 4 s.grp.id.g ++ leBytes 4 s.grp.bx.toNat ++ leBytes 4 s.grp.byy.toNat ++ leBytes 4 s.grp.bz.toNat
             ++ List.replicate 20 0) ∧
     ((s.grp.tmode = true ∧ s.grp.handler = some s.frag.entry) ∨
         (s.grp.tmode = false ∧ (s.checkVector = .bad ∨ s.checkVector = .lease)) →
       (s.raise e).live = false ∧
       (∀ y, (s.raise e).launch? s.grp.id.l = some y →
         y.final = some (5, if s.grp.tmode = false ∧ s.checkVector = .lease then 1 else 0)) ∧
       (∀ g ∈ (s.raise e).groups, g.id.l = s.grp.id.l → g.ended = true)) ∧
     (s.grp.tmode = true → s.grp.handler ≠ some s.frag.entry →
       (s.raise e).grp.pend = true ∧ (s.raise e).grp.tcause = s.grp.tcause ∧
       (s.raise e).frag = { s.frag with pc := s.latch.start, st := .stalled, again := false, held := true } ∧
       (s.raise e).grp.tx = s.grp.tx ∧ (s.raise e).mem = s.mem ∧ (s.raise e).launches = s.launches))

/-- Under TMODE with no recorded wait and a TEPC that the handler has not written, ERET goes on at TEPC with SUPP set,
ERET.SKIP after the instruction there; em comes back from TEM, TMODE, PEND and WAITR end, and fragments held back may
issue. Only TEM's bits within the fragment's lane set enter em, which R134 asks of every em where R337 says em := TEM
(the model's reading, log entry 20). A written TEPC is checked as a branch target. At a TEPC that is the fragment's
join it arrives there, SUPP set all the same. With TMODE 0 both are illegal encodings. -/
def Obligations.ReturnFromHandler : Prop :=
  ∀ s : State, s.issues →
    (s.grp.tmode = false → ∀ i ∈ [Instr.eret, .eretSkip], Raises i s { code := 1, addr := 0, mask := 0, info := 0 }) ∧
    (s.grp.tmode = true → s.grp.resumes = none →
      let left : State := { s with
        frag := { s.frag with em := s.grp.tem &&& s.frag.lanes },
        grp := { s.grp with
          tmode := false, pend := false, waitr := false, handler := none, waitRec := none,
          frags := s.grp.frags.map fun f => { f with again := f.again || f.st == .stalled, held := false } } }
      (s.grp.tepcWritten = false ∨ s.checkTarget s.grp.tepc = .ok →
        (∃ t, exec .eret s = .next t ∧ t.grp.supp = true ∧ t.grp.tmode = false ∧ t.grp.pend = false ∧ t.grp.waitr = false ∧
          t.grp.s = s.grp.s ∧ t.grp.k = s.grp.k ∧
          (left.retire.grp.joins { left.retire.frag with pc := s.grp.tepc } = none →
            t = State.stepDone { left.retire with
              frag := { left.retire.frag with pc := s.grp.tepc },
              grp := { left.retire.grp with supp := true, handler := some s.frag.entry } })) ∧
        ∀ b, s.fetch s.grp.tepc = .bundle b → exec .eretSkip s = .next (left.goesOn (skipTarget b s.grp.tepc))) ∧
      (s.grp.tepcWritten = true → s.checkTarget s.grp.tepc = .bad →
        Raises .eret s { code := 3, addr := s.grp.tepc.setWidth 64, mask := 0, info := 0 }))

/-- SYSWR writes TEPC (bit 0 cleared) and TEM under TMODE only, clears the CST bits that are set in its source, and
raises privilege (23) on every other register; WPSET arms a watchpoint from a scalar pair and a table number, WPCLR
disables one. In a privileged launch, with the 16 bytes of the descriptor accessible and no earlier access to them to
come, SEGLD loads base and limit when they pass the descriptor check and raises segment limit when not; of segment 7
it raises segment limit; in any other launch it raises privilege. Nothing else changes. -/
def Obligations.SystemRegisterWrites : Prop :=
  ∀ (a b : Reg) (k : WpKind) (r : BitVec 4) (n : BitVec 2) (s : State), s.issues →
    (s.grp.tmode = true →
      (∃ x : VA, (∀ i, i < 52 → x.getLsbD i = (decide (1 ≤ i) && (s.readS a).getLsbD i)) ∧
        Completes (.syswr .tepc a) s fun t => t = { s with grp := { s.grp with tepc := x, tepcWritten := true } }) ∧
      Completes (.syswr .tem a) s fun t => t = { s with grp := { s.grp with tem := (s.readS a).setWidth 32 } }) ∧
    (Completes (.syswr .cst a) s fun t => t = { s with grp := { s.grp with cst := s.grp.cst &&& ~~~((s.readS a).setWidth 4) } }) ∧
    (∀ c, c = .tcause ∨ c = .taddr ∨ c = .tmask ∨ c = .tstate ∨ (s.grp.tmode = false ∧ (c = .tepc ∨ c = .tem)) →
      Raises (.syswr c a) s { code := 23, addr := 0, mask := 0, info := 0 }) ∧
    (let w : Watch := { kind := k, lo := s.readS (r ++ 0#1), hi := s.readS (r ++ 1#1), table := (s.readS b).setWidth 16, en := true }
     Completes (.wpset k b r n) s fun t => t = { s with grp := { s.grp with w := s.grp.w.set n.toNat w n.isLt } }) ∧
    (let w : Watch := { kind := .rd, lo := 0, hi := 0, table := 0, en := false }
     Completes (.wpclr n) s fun t => t = { s with grp := { s.grp with w := s.grp.w.set n.toNat w n.isLt } }) ∧
    ∀ n : BitVec 3,
      (s.grp.priv = false → Raises (.segld a n) s { code := 23, addr := 0, mask := 0, info := 0 }) ∧
      ∀ accs, s.grp.priv = true →
        let x := s.readS a
        s.checkRecord x 16 = .ok accs →
        s.busyLocs (accs.flatMap Acc.locs) = false →
        let bs := s.readNow (accs.flatMap Acc.locs)
        let lo := BitVec.ofNat 64 (leNat (bs.take 8))
        let hi := BitVec.ofNat 64 (leNat (bs.drop 8))
        (descriptorOk n.toNat lo hi = true → Completes (.segld a n) s fun t => t.grp = { s.grp with
            sg := s.grp.sg.set n.toNat { base := lo.setWidth 52, limit := hi.setWidth 52 } n.isLt, seen := t.grp.seen } ∧
          t.frag = s.frag ∧ t.mem = s.mem ∧ t.blocks = s.blocks ∧ t.ops = s.ops) ∧
        (descriptorOk n.toNat lo hi = false →
          Raises (.segld a n) s { code := 7, addr := BitVec.ofNat 64 (x.toNat % 2 ^ 52), mask := 0, info := 0 }) ∧
      (s.grp.priv = true → segOf (s.readS a) = 7 →
        Raises (.segld a n) s { code := 7, addr := BitVec.ofNat 64 ((s.readS a).toNat % 2 ^ 52), mask := 0, info := 0 })

/-- The atomic instructions of R239 on a 32-bit word, with their operation. -/
def atomRows32 : List ((PReg → Marks1 → Reg → Reg → Reg → Instr) × AtomOp) :=
  [(.atomAddW32, .add), (.atomMinW32, .min), (.atomMaxW32, .max), (.atomAndW32, .and), (.atomOrW32, .or),
   (.atomXorW32, .xor), (.atomXchgW32, .xchg)]

/-- The atomic instructions of R239 on a 64-bit word. -/
def atomRows64 : List ((PReg → Marks1 → Reg → Reg → Reg → Instr) × AtomOp) :=
  [(.atomAddW64, .add), (.atomMinW64, .min), (.atomMaxW64, .max), (.atomAndW64, .and), (.atomOrW64, .or),
   (.atomXorW64, .xor), (.atomXchgW64, .xchg)]

/-- With every active lane's bytes accessible, the counter below 31 and room for the destinations, LD and LDS start a
load of the lanes' bytes into the name (or pair, at 64 bits), LDC one of one word into a scalar; memory and every
other register stay. LD with .ACQ inside a transaction raises transaction misuse. -/
def Obligations.LoadsStart : Prop :=
  ∀ (g : PReg) (wd : Width) (sc : Scope) (ord : Bool) (disp : BitVec 5) (d a b : Reg) (s : State), s.issues →
    let act := s.active g
    let x := s.readS b
    let ns := Width.names wd d
    let n := Width.bytes wd
    (s.grp.tx.isSome → Raises (.ld g wd sc true d a b) s { code := 20, addr := 0, mask := 0, info := 0 }) ∧
    (s.grp.ld < 31 → (act = 0 ∨ s.grp.room ns = .ok) →
      (∀ accs, (ord = true → s.grp.tx = none) →
        s.checkAccess .rd (segOf x) (baseHigh x) [0, 3, 4, 6] 1 n (laneOffs x (s.readV a) act) false = .ok accs →
        Completes (.ld g wd sc ord d a b) s fun t => Awaits s [] act ns t ∧
          Started s (some .ld) (.load (.vec d.toNat (wd == .w64)) accs (if ord then some sc else none) (segOf x == 4)) t) ∧
      ∀ accs, s.checkAccess .rd 1 false [1] 1 n (laneOffsScratch x (s.readV a) act) false = .ok accs →
        Completes (.lds g wd d a b) s fun t => Awaits s [] act ns t ∧
          Started s (some .ld) (.load (.vec d.toNat (wd == .w64)) accs none false) t) ∧
    (s.grp.ld < 31 → ∀ accs,
      s.checkAccess .rd 4 false [4] 1 n [{ lane := 0, off := x.toNat + disp.toNat * n }] true = .ok accs →
      Completes (.ldc wd disp d b) s fun t => Started s (some .ld) (.load (.scalar d.toNat) accs none true) t ∧
        t.grp.isPending .scalar d.toNat = true ∧ t.grp.v = s.grp.v ∧ t.grp.k = s.grp.k ∧
        ∀ r : Reg, r ≠ d → t.grp.s[r.toFin] = s.grp.s[r.toFin])

/-- With every active lane's bytes accessible and the counter below 31, ST and STS outside a transaction start a store
of the lanes' low bytes (no injector holding it), and inside one a relaxed ST to sg0 is held in the transaction while
its lines are at most 32. No register changes. ST with .REL waits while the injector holds a store of the group. STS,
and ST with .REL or to another segment, raise transaction misuse inside a transaction. -/
def Obligations.StoresStart : Prop :=
  ∀ (g : PReg) (wd : Width) (sc : Scope) (ord : Bool) (d a b : Reg) (s : State), s.issues →
    let act := s.active g
    let x := s.readS b
    let n := Width.bytes wd
    let filled (accs : List Acc) := accs.map fun c => { c with data := s.dataBytes wd d c.lane }
    (s.grp.tx.isSome → Raises (.sts g wd d a b) s { code := 20, addr := 0, mask := 0, info := 0 }) ∧
    (s.grp.tx.isSome → (ord = true ∨ segOf x ≠ 0) →
      Raises (.st g wd sc ord d a b) s { code := 20, addr := 0, mask := 0, info := 0 }) ∧
    (s.grp.st < 31 → s.inj[s.grp.place.part.cu.die.toFin].en = false →
      (∀ accs, s.grp.tx = none →
        s.checkAccess .wr (segOf x) (baseHigh x) [0, 3, 6] 1 n (laneOffs x (s.readV a) act) false = .ok accs →
        (ord = true → s.holding = true → Waits (.st g wd sc ord d a b) s) ∧
        ((ord = true → s.holding = false) → Completes (.st g wd sc ord d a b) s fun t => KeepsRegs s t ∧
          Started s (some .st) (.store (filled accs) (if ord then some sc else none)) t)) ∧
      (∀ accs, s.grp.tx = none →
        s.checkAccess .wr 1 false [1] 1 n (laneOffsScratch x (s.readV a) act) false = .ok accs →
        Completes (.sts g wd d a b) s fun t => KeepsRegs s t ∧ Started s (some .st) (.store (filled accs) none) t) ∧
      ∀ accs y, s.grp.tx = some y → y.cause = 0 → segOf x = 0 →
        s.checkAccess .wr (segOf x) (baseHigh x) [0, 3, 6] 1 n (laneOffs x (s.readV a) act) false = .ok accs →
        let ps := accs.flatMap Acc.locs
        s.busyLocs ps = false → (y.lines ++ linesOf ps).eraseDups.length ≤ 32 →
        Completes (.st g wd sc false d a b) s fun t => KeepsRegs s t ∧ Started s (some .st) .results t ∧
          t.grp.tx = some { y with
            stores := overlay y.stores ps ((filled accs).flatMap Acc.data),
            rows := overlay y.rows ps ((filled accs).flatMap Acc.data),
            lines := (y.lines ++ linesOf ps).eraseDups })

/-- With every active lane's word accessible and aligned, the counter below 31 and room for the destinations, outside
a transaction, the atomic instructions start one access of their lanes with the operands of d (and c); memory and
every other register stay. ATOM.F32 to sg0 in deterministic mode adds one buffer entry for each active lane instead,
in the block's determinism buffer in the context area (its layout is the model's choice, log entry 26), and is to
return 0. ARW.RDX and ARW.WRX wait while the injector holds a store of the group. Inside a transaction they raise
transaction misuse. -/
def Obligations.AtomicsStart : Prop :=
  ∀ (g : PReg) (m : Marks1) (sc : Scope) (d a b c : Reg) (s : State), s.issues →
    let act := s.active g
    let checked (n : Nat) (accs : List Acc) : Prop := s.grp.tx = none ∧ s.checkAtomic .both g n a b = .ok accs ∧ s.grp.ld < 31
    let atomic (i : Instr) (k : AtomKind) (scope : Scope) (wide : Bool) (frees ns : List Reg) (accs : List Acc)
        (x y : Nat → BitVec 64) : Prop :=
      (act = 0 ∨ (s.grp.freed frees).room ns = .ok) → Completes i s fun t => Awaits s frees act ns t ∧
        Started s (some .ld) (.atomic k scope wide d.toNat (atomLanes accs x y)) t
    (s.grp.tx.isSome → ∀ i ∈ [Instr.acasW32 g d a b c, .acasW64 g d a b c, .arwRd g sc d a b, .arwRdx g sc d a b, .arwWr g sc d a b,
        .arwWrx g sc d a b, .atomF32 g m d a b] ++ (atomRows32 ++ atomRows64).map fun p => p.1 g m d a b,
      Raises i s { code := 20, addr := 0, mask := 0, info := 0 }) ∧
    (∀ accs, checked 4 accs →
      (∀ p ∈ atomRows32,
        atomic (p.1 g m d a b) (.atom p.2) .lane false (freed1 m a) [d] accs (s.laneWord false d) fun _ => 0) ∧
      (s.grp.det = false ∨ segOf (s.readS b) ≠ 0 →
        atomic (.atomF32 g m d a b) (.atom .f32) .lane false (freed1 m a) [d] accs (s.laneWord false d) fun _ => 0) ∧
      atomic (.acasW32 g d a b c) .cas .lane false [] [d] accs (s.laneWord false d) (s.laneWord false c)) ∧
    (∀ accs, checked 8 accs →
      (∀ p ∈ atomRows64,
        atomic (p.1 g m d a b) (.atom p.2) .lane true (freed1 m a) [d, d + 1] accs (s.laneWord true d) fun _ => 0) ∧
      atomic (.acasW64 g d a b c) .cas .lane true [] [d, d + 1] accs (s.laneWord true d) (s.laneWord true c) ∧
      atomic (.arwRd g sc d a b) .rd sc true [] [d] accs (s.laneWord false d) (fun _ => 0) ∧
      atomic (.arwWr g sc d a b) .wr sc true [] [d] accs (s.laneWord false d) (fun _ => 0) ∧
      (s.holding = true → Waits (.arwRdx g sc d a b) s ∧ Waits (.arwWrx g sc d a b) s) ∧
      (s.holding = false → atomic (.arwRdx g sc d a b) .rdx sc true [] [d] accs (s.laneWord false d) (fun _ => 0) ∧
        atomic (.arwWrx g sc d a b) .wrx sc true [] [d] accs (s.laneWord false d) fun _ => 0)) ∧
    ∀ accs blk, s.grp.det = true → segOf (s.readS b) = 0 → s.grp.tx = none → s.grp.ld < 31 →
      s.checkAtomic .buffered g 4 a b = .ok accs → s.block? s.grp.id.l s.grp.id.blk = some blk →
      s.detFits blk (16 * accs.length) = true → act ≠ 0 → (s.grp.freed (freed1 m a)).room [d] = .ok →
      Completes (.atomF32 g m d a b) s fun t => ∃ u, Awaits s (freed1 m a) act [d] u ∧ Started s (some .ld) .results u ∧
        (∃ o ∈ u.ops, o.id = s.nextId ∧
          ∃ w, o.results = [w] ∧ w.name = d.toNat ∧ w.mask = act ∧ w.comps = [Lanes.splat 0]) ∧
        t = u.bufferDet s.grp.id.l s.grp.id.blk (accs.map fun c =>
          .lane s.grp.id.g (c.locs.filterMap fun p => match p with | .dev q => some q | _ => none) ((s.readV d).get c.lane)) ∧
        ∀ z, t.block? s.grp.id.l s.grp.id.blk = some z → z.detBuf.length = blk.detBuf.length + accs.length

/-- ATOM writes the sum, minimum, maximum, conjunction, disjunction, exclusive or, or exchange at its width and
returns the old word; ACAS writes its operand only where the word equals the comparand and returns the old word, at
both widths; each row of R243's table for ARW, the refused ones and those at the highest counts too, updates the lock
word or leaves it, with its result. -/
def Obligations.AtomicWords : Prop :=
  (∀ old x cmp : BitVec 64, old.toNat < 2 ^ 32 → x.toNat < 2 ^ 32 →
    let o := old.setWidth 32
    let y := x.setWidth 32
    let is (op : AtomOp) (r : BitVec 32) : Prop := atomLane (.atom op) 32 old x cmp = (some (r.setWidth 64), old)
    is .add (o + y) ∧ is .min (if y.slt o then y else o) ∧ is .max (if o.slt y then y else o) ∧ is .and (o &&& y) ∧
    is .or (o ||| y) ∧ is .xor (o ^^^ y) ∧ is .xchg y ∧
    atomLane .cas 32 old x cmp = (if old = cmp then some x else none, old)) ∧
  ∀ old x cmp : BitVec 64,
    let is (op : AtomOp) (r : BitVec 64) : Prop := atomLane (.atom op) 64 old x cmp = (some r, old)
    let held := old.getLsbD 63
    let wait := (old.extractLsb' 32 31).toNat
    let readers := (old.extractLsb' 0 32).toNat
    is .add (old + x) ∧ is .min (if x.slt old then x else old) ∧ is .max (if old.slt x then x else old) ∧ is .and (old &&& x) ∧
    is .or (old ||| x) ∧ is .xor (old ^^^ x) ∧ is .xchg x ∧
    atomLane .cas 64 old x cmp = (if old = cmp then some x else none, old) ∧
    (held = false → wait = 0 → readers < 2 ^ 32 - 1 → atomLane .rd 64 old x cmp = (some (old + 1), 1)) ∧
    (held = true ∨ wait ≠ 0 ∨ readers = 2 ^ 32 - 1 → atomLane .rd 64 old x cmp = (none, 0)) ∧
    (0 < readers → atomLane .rdx 64 old x cmp = (some (old - 1), 1)) ∧
    (readers = 0 → atomLane .rdx 64 old x cmp = (none, 0)) ∧
    (held = false → readers = 0 → x.setWidth 32 ≠ 1#32 ∨ wait = 0 → atomLane .wr 64 old x cmp = (some (old ||| 1#64 <<< 63), 2)) ∧
    (held = false → readers = 0 → x.setWidth 32 = 1#32 → 0 < wait →
      atomLane .wr 64 old x cmp = (some ((old ||| 1#64 <<< 63) - 1#64 <<< 32), 2)) ∧
    (held = true ∨ 0 < readers →
      (x.setWidth 32 ≠ 1#32 → wait < 2 ^ 31 - 1 → atomLane .wr 64 old x cmp = (some (old + 1#64 <<< 32), 1)) ∧
      (x.setWidth 32 ≠ 1#32 → wait = 2 ^ 31 - 1 → atomLane .wr 64 old x cmp = (none, 0)) ∧
      (x.setWidth 32 = 1#32 → atomLane .wr 64 old x cmp = (none, 1))) ∧
    (held = true → atomLane .wrx 64 old x cmp = (some (old &&& ~~~(1#64 <<< 63)), 1)) ∧
    (held = false → atomLane .wrx 64 old x cmp = (none, 0))

/-- An access divides into pieces at 16-byte boundaries, which together are its bytes. When nothing before it holds a
store back and it sends nothing to the host, STORE.COMPLETE makes the device bytes of one or of all of the pieces that
are left read as their data and leaves every other byte of device memory, host memory and scratchpads; with the last
piece the operation ends and its counter falls, and until then the pieces written are noted. Lanes that name one byte
come in order. When nothing holds a load back, LOAD.COMPLETE reads one or all of the pieces left; with the last it
ends the load, lowers ld and adds its results to those that a WAIT will observe; no register and no byte of memory
changes. A byte that no L1 line or engine stands for is the byte in memory. Which pieces are performed together is
open; that it is one or all of those left is the model's reading (log entry 16). -/
def Obligations.AccessesComplete : Prop :=
  (∀ c : Acc, c.data.length = c.locs.length →
     c.pieces.flatMap Acc.locs = c.locs ∧ (c.data ≠ [] → c.pieces.flatMap Acc.data = c.data) ∧
     ∀ x ∈ c.pieces, x.lane = c.lane ∧ x.data.length = x.locs.length ∧ ∀ p ∈ x.locs, ∀ q ∈ x.locs, p.part = q.part) ∧
  (∀ (i : Nat) (o : Op) (accs : List Acc) (rel : Option Scope) (s : State), s.memWf → s.atEvent.mayGo i o →
     o.kind = .store accs rel → o.ctr = some .st → o.kind.hostBytes = 0 → o.performed = false →
     let all := accs.flatMap Acc.pieces
     (all.flatMap Acc.locs).Nodup → (∀ c ∈ all, c.data.length = c.locs.length) →
     Happens (.storeComplete i) s fun a u => ∃ now : List Nat,
       (now = o.left all.length ∨ ∃ j ∈ openPieces all (o.left all.length), now = [j]) ∧
       (∀ j ∈ now, ∀ c, all[j]? = some c → ∀ n x : Nat, c.locs[n]? = some (Loc.dev x) → c.data[n]? = some (readByte u.mem x)) ∧
       (let written := now.flatMap fun j => match all[j]? with | some c => c.locs | none => []
        (∀ x, Loc.dev x ∉ written → readByte u.mem x = readByte a.mem x) ∧
        ∀ l b y, Loc.scr l b y ∉ written → u.readLoc (.scr l b y) = a.readLoc (.scr l b y)) ∧
       u.hostMem = a.hostMem ∧
       (now.length < (o.left all.length).length → KeepsGroups a u ∧ ∀ q ∈ u.ops, q.id = i → q.parts = o.parts ++ now) ∧
       (now.length = (o.left all.length).length → (∀ q ∈ u.ops, q.id ≠ i) ∧
         ∀ g ∈ a.groups, g.id = o.gid → ∃ h ∈ u.groups, h.id = g.id ∧ h.st = g.st - 1 ∧ h.v = g.v ∧ h.s = g.s ∧ h.k = g.k)) ∧
  (∀ (i : Nat) (kept : Bool) (o : Op) (dst : LoadDst) (accs : List Acc) (acq : Option Scope) (const : Bool) (s : State),
     s.atEvent.mayGo i o → o.kind = .load dst accs acq const → o.ctr = some .ld → o.clobbered = false →
     (∀ d ∈ s.dbg, d.stopped = false ∧ d.pendings.contains i = false) → (∀ x ∈ s.streams, ∀ f ∈ x.flight, f.1 ≠ i) →
     let all := accs.flatMap Acc.pieces
     (Happens (.loadComplete i kept) s fun a u => KeepsMemory a u ∧ KeepsGroups a u ∧
       ∃ now : List Nat, (now = o.left all.length ∨ ∃ j ∈ openPieces all (o.left all.length), now = [j]) ∧
       let p := a.readPieces o (o.constOf const) all now
       (now.length < (o.left all.length).length → ∀ q ∈ u.ops, q.id = i → q.parts = p.parts ∧ q.buf = p.buf) ∧
       (now.length = (o.left all.length).length → (∀ q ∈ u.ops, q.id ≠ i) ∧
         ∀ g ∈ a.groups, g.id = o.gid → accs ≠ [] → ∃ h ∈ u.groups, h.id = g.id ∧ h.ld = g.ld - 1 ∧
           { op := o.id, ctr := .ld, instant := p.instant, writes := loadResults dst (p.laneValues accs all), wrote := [], tile := none,
             fab := false, bar := o.bar.map BarRef.code } ∈ h.done)) ∧
     ∀ n p, (∀ x ∈ s.l1, x.cu ≠ o.cu) → (∀ q ∈ s.atEvent.ops, q.writesTo p = false) →
       s.atEvent.loadByte o (o.constOf const) none n p = s.atEvent.readLoc p)

/-- ATOMIC.PERFORM of one lane outside deterministic mode, on a word that no engine is writing, writes the word that
the operation makes and notes the result; RESERVED.REGISTER.RETURN ends what registers are reserved for its operation;
INJECTOR.RELEASE lets a held store go once the group's earlier held stores to its bytes have. -/
def Obligations.AccessEvents : Prop :=
  ∀ (i : Nat) (o : Op) (s : State), s.atEvent.op? i = some o →
    (∀ (op : AtomOp) (sc : Scope) (x : Nat × AtomLane) (pa : Nat), o.kind = .atomic (.atom op) sc false x.1 [x.2] →
      x.2.locs = [.dev pa, .dev (pa + 1), .dev (pa + 2), .dev (pa + 3)] →
      s.memWf → o.performed = false → o.parts = [] → o.buf = [] → s.atEvent.mayPerform o = true →
      (∀ g ∈ s.atEvent.groups, g.det = false) →
      (∀ q ∈ s.atEvent.ops, ∀ p ∈ x.2.locs, q.writesTo p = false) →
      Happens (.atomicPerform i) s fun a u =>
        let old := BitVec.ofNat 64 (leNat (readBytes a.mem pa 4))
        readBytes u.mem pa 4 = leBytes 4 (atomNew op 32 old x.2.x).toNat ∧
        (∀ y, y < pa ∨ pa + 4 ≤ y → readByte u.mem y = readByte a.mem y) ∧ u.hostMem = a.hostMem ∧
        ∃ p ∈ u.ops, p.id = i ∧ p.performed = true ∧ p.results = laneResults x.1 false [(x.2.lane, old)]) ∧
    (Happens (.reservedRegisterReturn i) s fun a u => KeepsMemory a u ∧ KeepsGroups a u ∧ u.ops = a.ops ∧
      ∀ g ∈ u.groups, ∀ r ∈ g.reserved, i ∉ r.ops ∧ r.ops ≠ []) ∧
    (o.hold = true → (∀ p ∈ opsBefore s.atEvent.ops i, p.hold = true → p.gid = o.gid →
        ∀ x ∈ p.kind.locs, x ∉ o.kind.locs) →
      Happens (.injectorRelease i) s fun a u => KeepsMemory a u ∧ u.groups = a.groups ∧
        ∀ p ∈ u.ops, p.id = i → p.hold = false)

/-- FENCE waits while the injector holds a store of the group, at .DEV and wider until what it orders has been
performed, and at .PEER and wider for link operations; then it completes, discarding the CU's L1 lines (but those of
sg4) at scopes wider than .CU, and at .MEM and wider what L2 holds of the writes that it orders is to be written back
to the stacks. A narrower one with accesses outstanding leaves a mark, which keeps the order toward the parties that
share its scope (that a FENCE stalls or leaves a mark is the model's reading, log entry 16). QAPP with a credit and no
held store takes the credit and starts the append of its names' bytes; QPOP of an empty queue writes 2^63 and else,
with its bytes accessible and clean, hands out the oldest entry; QFREE returns popped entries with their credits.
Inside a transaction all raise misuse. -/
def Obligations.FencesAndQueues : Prop :=
  ∀ (sc : Scope) (q : BitVec 3) (d a b : Reg) (s : State), s.issues →
    let i := s.grp.id
    let c := s.queueConfig q.toNat
    let names := queueNames c d
    (s.grp.tx.isSome → ∀ x ∈ [Instr.fence sc, .qapp q d b, .qpop q d a, .qfree q b],
      Raises x s { code := 20, addr := 0, mask := 0, info := 0 }) ∧
    (s.grp.tx = none →
      (let waits := s.holding = true ∨ (Scope.wide sc = true ∧ s.quiet = false) ∨ (Scope.far sc = true ∧ s.linksBusy = true)
       (waits → Waits (.fence sc) s) ∧
       (¬ waits → Scope.orders sc = false → Completes (.fence sc) s fun t => t = s) ∧
       (¬ waits → Scope.orders sc = true → Completes (.fence sc) s fun t =>
          t = { s with l1 := t.l1, dirty := t.dirty, fences := t.fences, grp := { s.grp with seen := max s.grp.seen s.fresh } } ∧
          (s.quiet = true → t.fences = s.fences) ∧
          (s.quiet = false → { gid := i, cu := s.grp.place.part.cu, scope := sc, before := s.nextId } ∈ t.fences) ∧
          (t.dirty.map fun x => (x.pa, x.old)) = (s.dirty.map fun x => (x.pa, x.old)) ∧
          (∀ x ∈ s.dirty, i ∈ x.known → ∃ y ∈ t.dirty, y.pa = x.pa ∧ y.released = true ∧ (Scope.mem sc = true → y.atMem = true)) ∧
          ∀ x, x ∈ t.l1 ↔ x ∈ s.l1 ∧ (Scope.widerThanCu sc = true → x.cu ≠ s.grp.place.part.cu ∨ x.const.isSome = true))) ∧
      (∀ blk r, queueBad s q.toNat ((s.readS b).toNat % 8) = false → d.toNat + names.length ≤ 32 →
        s.block? i.l (s.clusterBlock ((s.readS b).toNat % 8)) = some blk → blk.queues[q.toNat]? = some r →
        0 < r.credit s.clusterIndex → s.grp.st < 31 → s.holding = false →
        Completes (.qapp q d b) s fun t => t.mem = s.mem ∧ KeepsRegs s t ∧ t.grp.st = s.grp.st + 1 ∧
          ∃ o ∈ t.ops, o.id = s.nextId ∧ o.kind = .qapp i.l (s.clusterBlock ((s.readS b).toNat % 8)) q.toNat s.clusterIndex 0
            ((names.flatMap fun n => lanesBytes (s.readV n)).take (queueEntrySize c))) ∧
      (∀ blk r, queueBad s q.toNat 0 = false → d.toNat + names.length ≤ 32 → s.block? i.l i.blk = some blk →
        blk.queues[q.toNat]? = some r →
        ((∀ e ∈ r.entries, e.popped = true) → s.grp.settledS a →
          Completes (.qpop q d a) s (WroteS s a (BitVec.ofNat 64 (2 ^ 63)) 2)) ∧
        ∀ e, r.entries.find? (fun e => !e.popped) = some e → s.grp.ld < 31 → s.grp.room names = .ok → s.grp.settledS a →
          s.busyLocs ((List.range (queueEntrySize c)).map fun j => Loc.scr i.l i.blk (e.off + j)) = false →
          s.poisonCheck (entryLanes i e.off (queueEntrySize c)) = none →
          Completes (.qpop q d a) s fun t => t.mem = s.mem ∧ t.grp.ld = s.grp.ld + 1 ∧
            t.grp.s[a.toFin] = BitVec.ofNat 64 (e.off * 2 ^ 8 + e.src) ∧
            ∃ o ∈ t.ops, o.id = s.nextId ∧ o.kind = .results ∧ o.results.map RegWrite.name = names.map BitVec.toNat) ∧
      (queueBad s q.toNat 0 = false → Completes (.qfree q b) s fun t => t.mem = s.mem ∧ KeepsRegs s t ∧ t.ops = s.ops ∧
        ∀ blk r x, s.block? i.l i.blk = some blk → blk.queues[q.toNat]? = some r → t.block? i.l i.blk = some x →
          x.queues[q.toNat]? = some (r.free (min (s.readS b).toNat (r.entries.filter QEntry.popped).length))))

/-- An arrival outside a transaction, of an unsplit group that has not yet arrived, at a configured barrier with no
access outstanding, is counted in the barrier; BAR.ARV writes the generation, BAR.SYNC and REGROUP make the group wait
for the phase; BAR.ARM adds its bytes to the target; BAR.WT completes once the generation differs, as an acquire (at
.FAB where an ARED on the barrier has completed), and waits until then; BAR.TST writes the status word. A second
arrival and an unconfigured barrier raise barrier misuse. -/
def Obligations.BarrierInstructions : Prop :=
  ∀ (c : BitVec 5) (d a b : Reg) (s : State), s.issues →
    let x := s.barOf c.toNat
    let i := s.grp.id
    let misuse : Exc := { code := 11, addr := BitVec.ofNat 64 c.toNat, mask := 0, info := BitVec.ofNat 16 c.toNat }
    let arrived (y : Barrier) : Barrier := { y with arrived := y.arrived + 1, arrivals := y.arrivals ++ [(i.blk, i.g)] }
    (s.grp.settledS d → Completes (.barTst c d) s (WroteS s d
      (BitVec.ofNat 64 (x.expected.toNat * 2 ^ 32 + x.arrived.toNat * 2 ^ 16 + x.gen.toNat)) 2)) ∧
    (x.gen = (s.readS a).extractLsb' 0 16 → exec (.barWt c a) s = .next (s.stalled s.latch.start).traceHolds) ∧
    (x.gen ≠ (s.readS a).extractLsb' 0 16 → Completes (.barWt c a) s fun t =>
      t = { s with l1 := t.l1, dirty := t.dirty, grp := { s.grp with seen := max s.grp.seen s.fresh } } ∧
      (t.dirty.map fun y => (y.pa, y.old, y.released)) = (s.dirty.map fun y => (y.pa, y.old, y.released)) ∧
      ∀ y, y ∈ t.l1 ↔ y ∈ s.l1 ∧ (16 ≤ c.toNat ∨ (∃ z ∈ s.grp.done, z.fab = true ∧ z.bar = some c.toNat) →
        y.cu = s.grp.place.part.cu → y.const.isSome = true)) ∧
    (∀ r, s.barRef c.toNat = some r →
      (s.grp.tx = none → x.expected = 0 ∨ s.grp.splits ≠ [] ∨ (i.blk, i.g) ∈ x.arrivals →
        Raises (.barArv c d) s misuse ∧ Raises (.barSync c) s misuse) ∧
      (x.expected = 0 ∨ 2 ^ 32 ≤ x.target.toNat + (s.readS b).toNat → Raises (.barArm c b) s misuse) ∧
      (x.expected ≠ 0 → x.target.toNat + (s.readS b).toNat < 2 ^ 32 →
        exec (.barArm c b) s = .next ((s.goesOn s.latch.next).applyBar r fun y =>
          { y with target := y.target + (s.readS b).setWidth 32 })) ∧
      (s.grp.tx = none → x.expected ≠ 0 → s.grp.splits = [] → (i.blk, i.g) ∉ x.arrivals → s.quiet = true →
        let released := s.releaseL2 i false
        (s.grp.settledS d → ∃ t, WroteS released d (x.gen.setWidth 64) 2 t ∧
          exec (.barArv c d) s = .next ((t.goesOn s.latch.next).applyBar r arrived)) ∧
        (let w : Wait := { regroup := false, code := c.toNat, gen := x.gen, addr := s.latch.start, next := s.latch.next, d := 0, a := 0, b := 0 }
         ∃ t, t = released.waitOn w ∧ t.grp.wait = some w ∧ exec (.barSync c) s = .next (t.stepDone.applyBar r arrived).traceHolds) ∧
        (c.toNat < 16 → s.grp.ld = 0 → s.grp.mx = 0 →
         let w : Wait := { regroup := true, code := c.toNat, gen := x.gen, addr := s.latch.start, next := s.latch.next, d := d, a := a, b := b }
         ∃ t, t = released.waitOn w ∧ t.grp.wait = some w ∧ exec (.regroup (c.setWidth 4) d a b) s = .next (t.stepDone.applyBar r fun y =>
          { arrived y with regroups := y.regroups ++ [{ g := i.g, addr := s.latch.start, cycle := s.grp.cycle, d := d, a := a, b := b, dl := s.dlConst }] }).traceHolds)))

/-- A change of a block's barrier that leaves arrivals or bytes short keeps the phase; one that makes both complete
begins the next generation with nothing arrived, and every group of the block that waits on the barrier goes on at its
next instruction. Where both groups of a pair have issued REGROUP, their lanes, those of the even group first, are
dealt out to the even group and from the 33rd on to the odd one: em, k1 to k7 and the names in both ranges, mapped in
a group with lanes where either had them mapped; S(d) says whether the group has lanes, quota is kept in all, and
names outside the range, the other scalars, sp and the role stay. Where the free quota cannot cover the allocations no
lane or quota changes, and both groups meet quota exceeded at their REGROUP. -/
def Obligations.PhaseCompletion : Prop :=
  ∀ (l blk : Nat) (n : BitVec 4) (f : Barrier → Barrier) (x : Block) (s : State), s.live = false →
    s.block? l blk = some x →
    let y := f x.bars[n.toFin]
    let t := s.applyBar (.block l blk n) f
    let full := y.expected ≠ 0 ∧ y.arrived = y.expected ∧ y.bytes = y.target
    (¬ full → t.bar? (.block l blk n) = some y ∧ t.groups = s.groups) ∧
    (full → y.regroups = [] → t.bar? (.block l blk n) =
        some { y with gen := y.gen + 1, arrived := 0, target := 0, bytes := 0, arrivals := [], regroups := [] } ∧
      ∀ g ∈ s.groups, g.id.l = l → g.id.blk = blk → ∀ w, g.wait = some w → w.code = n.toNat →
        ∃ h ∈ t.groups, h.id = g.id ∧ h.wait = none ∧ h.s = g.s ∧ h.v = g.v ∧ ∀ z ∈ h.frags, z.pc = w.next) ∧
    ∀ (r p : Regrouping) (e o : Group), full → y.regroups = [r, p] ∨ y.regroups = [p, r] → r.g % 2 = 0 → p.g = r.g + 1 →
      r.dl = false → p.dl = false → (s.groups.map Group.id).Nodup → e ∈ s.groups → o ∈ s.groups →
      e.id = { l := l, blk := blk, g := r.g } → o.id = { l := l, blk := blk, g := p.g } → e.kt = o.kt →
      (∀ h ∈ [e, o], h.lat = [] ∧ h.pending = [] ∧ h.tmode = false ∧ h.tx = none ∧ h.splits = [] ∧ h.frags.length = 1 ∧ h.held ≤ h.quota) →
      let src := ((lanesOf e.em).map fun q => (e, q)) ++ (lanesOf o.em).map fun q => (o, q)
      let inRange (m : Reg) : Bool := decide (max r.a.toNat p.a.toNat ≤ m.toNat ∧ m.toNat ≤ min r.b.toNat p.b.toNat)
      let needs (h other : Group) : Nat := (((List.range 32).map (BitVec.ofNat 5)).filter fun m =>
        inRange m && !h.mapped m && other.mapped m).length * (h.kt + 1)
      let fits := src.length ≤ 32 ∨ needs e o + needs o e ≤ (e.quota - e.held) + (o.quota - o.held)
      (fits → ∃ e' ∈ t.groups, ∃ o' ∈ t.groups, e'.quota + o'.quota = e.quota + o.quota ∧ e'.held ≤ e'.quota ∧ o'.held ≤ o'.quota ∧
        ∀ z ∈ [(e, e', src.take 32, r.d), (o, o', src.drop 32, p.d)],
          let h := z.1
          let u := z.2.1
          let mine := z.2.2.1
          u.id = h.id ∧ u.sp = h.sp ∧ u.role = h.role ∧ u.opCache = [] ∧
          (∀ w, h.wait = some w → w.code = n.toNat → u.wait = none ∧ ∀ c ∈ u.frags, c.pc = w.next) ∧
          (∀ c ∈ u.frags, c.em = BitVec.ofNat 32 (2 ^ mine.length - 1)) ∧
          (∀ m : Reg, u.s[m.toFin] = if m = z.2.2.2 then (if mine = [] then 0 else 1) else h.s[m.toFin]) ∧
          (∀ k : PReg, k ≠ 0 → ∀ j, j < 32 → (u.k[k.toFin]).getLsbD j =
            match mine[j]? with | some q => (q.1.k[k.toFin]).getLsbD q.2 | none => false) ∧
          ∀ m : Reg, if inRange m then
              u.mapped m = (!mine.isEmpty && (e.mapped m || o.mapped m)) ∧
              ∀ j, j ≤ h.kt → ∀ i, i < 32 → u.lane m j i = match mine[i]? with | some q => q.1.lane m j q.2 | none => 0
            else u.vreg m = h.vreg m) ∧
      (¬ fits → (∃ x, s.launch? l = some x ∧ x.state < 3 ∧ x.final = none) → t.bar? (.block l blk n) =
          some { y with gen := y.gen + 1, arrived := 0, target := 0, bytes := 0, arrivals := [], regroups := [] } ∧
        ∀ z ∈ [(e, r), (o, p)], ∃ u ∈ t.groups, u.id = z.1.id ∧ u.v = z.1.v ∧ u.k = z.1.k ∧ u.quota = z.1.quota ∧
          ((u.tmode = true ∧ u.tcause = 5 ∧ u.tepc = z.2.addr) ∨ u.ended = true ∨ ∃ c ∈ u.frags, c.pc = z.2.addr))

/-- The point operations of R250, plain and .Q, with what they do. -/
def pointRows : List ((PReg → Reg → Reg → Reg → Instr) × PointOp × Bool) :=
  [(.tfind, .find, false), (.tins, .ins, false), (.trepl, .repl, false), (.tdel, .del, false),
   (.tfindQ, .find, true), (.tinsQ, .ins, true), (.treplQ, .repl, true), (.tdelQ, .del, true)]

/-- A point operation on a table that is not bound, or with an invalid descriptor, raises bad table. Else, where its
rows may be reached, no watchpoint matches a key, and with room, ld below 31 and a slot of the table queue, a .Q form
outside a transaction starts a table operation; a plain form, and any form in a live transaction, has its lanes
decided now, their results awaiting a WAIT, where a plain form raises the fault of a lane with duplicate key or table
full; a protected page or a watchpoint raises its fault first. In a doomed transaction the results are undefined and
no table changes. That bad table is raised with no lane active too, and that row and watchpoint checks come before the
operation's own faults, is the model's reading (log entry 38), as is the order inside a transaction (log entry 37). -/
def Obligations.PointOperations : Prop :=
  ∀ r ∈ pointRows, ∀ (g : PReg) (d a b : Reg) (s : State), s.issues →
    let i := r.1 g d a b
    let p := r.2.1
    let act := s.active g
    let word := s.readS b
    let desc := TDesc.ofWord word
    let names := desc.names desc.m
    let lanes : List KeyLane := (lanesOf act).map fun l =>
      { lane := l, key := s.readPair a l, words := if p.returns then [] else names.map fun n => (s.readV n).get l }
    let dsts := [d, d + 1] ++ (if p.returns then names else [])
    let read := s.touch ([a, a + 1] ++ (if p.returns then [] else names))
    let start := if s.inTx then read.setGrp fun g => g.txCount lanes.length else read
    let later := r.2.2 = true ∧ s.inTx = false
    let room := s.grp.ld < 31 ∧ s.queueFull s.grp.place.part.cu .table = false ∧ (act = 0 ∨ s.grp.room dsts = .ok)
    (s.tableOf s.grp.job desc.table s.grp.id.l = none → Raises i s (excTable desc.table act)) ∧
    ∀ t, s.tableOf s.grp.job desc.table s.grp.id.l = some t →
      (desc.bad word 1 = true ∨ desc.passes t = true → Raises i s (excTable desc.table act)) ∧
      (desc.bad word 1 = false → desc.passes t = false →
        (later → ∀ u rs, s.pointLanes false s.grp.id s.grp.job p desc lanes = (u, rs) →
          (∀ e, s.pointChecks desc t lanes rs = some (.trap e) → Raises i s e) ∧
          (s.pointChecks desc t lanes rs = none → rowPoison rs = none → room → Completes i s fun v =>
            AwaitsK s act dsts desc.q v ∧ Started s (some .ld) (.point p d.toNat desc lanes) v)) ∧
        (¬ later → s.heldBack (.point p d.toNat desc lanes) = false →
          (start.grp.doomed = true → s.pointChecks desc t lanes [] = none → room → Completes i s fun v =>
            AwaitsK start act dsts desc.q v ∧ v.holds s.nextId (freeResults s act dsts desc.q) ∧ v.mem = s.mem ∧ v.tables = s.tables) ∧
          (start.grp.doomed = false → ∀ u rs,
            (start.opening (s.newOp none (.point p d.toNat desc lanes))).pointLanes s.inTx s.grp.id s.grp.job p desc lanes = (u, rs) →
            (∀ e, s.pointChecks desc t lanes rs = some (.trap e) → Raises i s e) ∧
            (s.pointChecks desc t lanes rs = none →
              (∀ e, r.2.2 = false → plainFault rs = some e → Raises i s e) ∧
              ((r.2.2 = true ∨ plainFault rs = none) → rowPoison rs = none → room → Completes i s fun v =>
                AwaitsK u act dsts desc.q v ∧ v.holds s.nextId (pointResults p d.toNat desc rs) ∧
                v.mem = u.mem ∧ v.tables = u.tables ∧ v.grp.ld = s.grp.ld + 1)))))

/-- Outside a transaction: a lookup of a present key gives its reference and words, of an absent key the null
reference, and changes nothing; an insert of a present key changes nothing; an insert of an absent one takes a free
slot, zero-fills the row and writes its words; a replace rewrites the words under the same reference; a delete frees
the slot and advances its generation. Of an insert that may not reach its row nothing is done. Other keys of the table
stay. The reference of a slot names that slot until a delete advances the slot's generation; an insert that finds room
adds one key and keeps every generation; a delete of the last key leaves height 0; no rebalancing step changes the
keys, the slots or the generations. -/
def Obligations.TableEffects : Prop :=
  (∀ (l : Nat) (i : GroupId) (job : BitVec 32) (desc : TDesc) (x : KeyLane) (t : Table) (s : State), i.l = l → s.memWf →
     s.tableOf job desc.table l = some t → desc.passes t = false →
     let zeros := List.replicate desc.m (0 : BitVec 32)
     let lane (p : PointOp) := s.pointLane false i job p desc x
     let tells (r : LaneRes) (hit : Bool) (ref : BitVec 64) (ws : List (BitVec 32)) (fault : Option Nat) : Prop :=
       r.lane = x.lane ∧ r.hit = hit ∧ r.ref = ref ∧ r.words = ws ∧ r.fault = fault
     let keeps (u : State) (v : Table) : Prop := u.tableOf job desc.table l = some v ∧
       ∀ k, k ≠ x.key → v.find k = t.find k
     (t.find x.key = none →
       (∀ p ∈ [PointOp.find, .repl, .del], ∃ r, lane p = (s, r) ∧ tells r false 0 zeros none) ∧
       (s.insertSlot i t x.lane = none → ∃ r, lane .ins = (s, r) ∧ tells r false 0 [] (some 19)) ∧
       ∀ slot v, s.insertSlot i t x.lane = some slot → t.insert x.key slot = some v →
         (∀ q, s.rowLocs l t slot 0 t.rowBytes = q → (∀ ps, q ≠ .ok ps) → (lane .ins).1 = s ∧ (lane .ins).2.reach = q) ∧
         ∀ ps, s.rowLocs l t slot 0 t.rowBytes = .ok ps → ∃ u r v, lane .ins = (u, r) ∧ tells r true (t.ref slot) [] none ∧ keeps u v ∧ v.find x.key = some slot ∧
           (ps.Nodup → x.words.length = desc.m → u.readLocs ps =
             List.replicate (4 * desc.w) 0 ++ wordBytes x.words ++ List.replicate (t.rowBytes - 4 * (desc.w + desc.m)) 0)) ∧
     ∀ slot, t.find x.key = some slot →
       (∃ r, lane .ins = (s, r) ∧ tells r false (t.ref slot) [] (some 18)) ∧
       (∀ ps, s.rowLocs l t slot (4 * desc.w) (4 * desc.m) = .ok ps → ∃ r, lane .find = (s, r) ∧
         tells r true (t.ref slot) (s.rowWords false desc x.lane ps).1 none) ∧
       (∀ ps, s.rowLocs l t slot (4 * desc.w) (4 * desc.m) = .ok ps → ∃ u r v, lane .repl = (u, r) ∧
         tells r true (t.ref slot) [] none ∧ keeps u v ∧ v.find x.key = some slot ∧ v.gen slot = t.gen slot ∧
         (ps.Nodup → x.words.length = desc.m → u.readLocs ps = wordBytes x.words)) ∧
       ∀ ps, s.rowLocs l t slot 0 t.rowBytes = .ok ps → ∃ u r v, lane .del = (u, r) ∧
         tells r true (t.ref slot) (s.rowWords false desc x.lane ((ps.drop (4 * desc.w)).take (4 * desc.m))).1 none ∧ keeps u v ∧ v.find x.key = none ∧ v.gen slot = t.gen slot + 1) ∧
  (∀ (t : Table) (k : BitVec 64) (slot : Nat), t.rcap ≤ 2 ^ 40 → slot < t.rcap →
     (t.slotOfRef (t.ref slot) = if t.ref slot = 0 then none else some slot) ∧
     (∀ v, t.insert k slot = some v → v.rows = t.rows ++ [(k, slot)] ∧ (∀ x, v.gen x = t.gen x) ∧ v.nodesUsed + v.primaryPages ≤ v.ipages ∧
       (t.find k = none → v.find k = some slot)) ∧
     (∀ freeze, t.find k = some slot →
       let v := t.delete k freeze
       v.find k = none ∧ v.slotOfRef (t.ref slot) = none ∧ v.gen slot = t.gen slot + 1 ∧
       (∀ x, x ≠ slot → v.gen x = t.gen x) ∧ (∀ x, x ≠ k → v.find x = t.find x) ∧ (v.rows = [] → v.height = 0)) ∧
     ∀ step, (t.rebalance step).rows = t.rows ∧ (t.rebalance step).gens = t.gens ∧
       (∀ x, (t.rebalance step).find x = t.find x) ∧ (∀ x, (t.rebalance step).ref x = t.ref x))

/-- LDR and STR with a lane that names no table, is stale (in the plain form) or passes its row raise bad table, stale
row or segment limit. Else, with room, a counter below 31 and (LDR) a slot of the table queue: a .Q form outside a
transaction starts the row operation, checked again when performed; a plain one is decided now, LDR bringing the
lanes' bytes and STR, with the injector off, writing them, held in a transaction if one is open; no other byte of
memory changes. A plain STR that the injector holds enters its buffer and waits; it waits until it is let go, and is
decided and performed then (the order of the checks is the model's reading, log entry 38, and that a held STR waits in
its slot log entry 51). -/
def Obligations.RowsByReference : Prop :=
  ∀ (g q : PReg) (wd : Width) (d a b : Reg) (s : State), s.issues → s.memWf →
    let act := s.active g
    let n := Width.bytes wd
    let wide := wd == .w64
    let names := Width.names wd d
    let xs : List RefLane := (lanesOf act).map fun l => { lane := l, ref := s.readPair a l, off := ((s.readV b).get l).toNat }
    let tab (x : RefLane) : Option Table := (s.tableOf s.grp.job (refTable x.ref) s.grp.id.l).map (s.seeTable s.inTx)
    let row (x : RefLane) : Option Nat := (tab x).bind fun t => (t.slotOfRef x.ref).map fun slot => t.rowVa slot x.off
    let bits := xs.map fun x => (x.lane, (row x).isSome)
    let held (accs : List Acc) (wr : Bool) : List Acc := accs.map fun c =>
      { c with data := if wr then s.dataBytes wd d c.lane else [] }
    let rows (accs : List Acc) (wr : Bool) : List RowLane := xs.map fun x =>
      { lane := x.lane, ref := x.ref, off := x.off, len := n,
        locs := match accs.find? (·.lane == x.lane) with | some c => c.locs | none => [],
        data := if wr then s.dataBytes wd d x.lane else [] }
    let reach (k : AccKind) (wr : Bool) := s.refAccess k n (xs.filterMap fun x => (row x).map fun va => (x, va)) wr
    let check := refCheck tab (fun x => (row x).isNone) (q = 0) n xs
    (∀ o, s.heldStr = some o → q = 0 →
      (o.hold = true → Waits (.str g q wd d a b) s) ∧
      (o.hold = false → ∀ e, check = some e → ∃ t : State, t.mem = s.mem ∧ t.grp = s.grp ∧ t.frag = s.frag ∧ o ∉ t.ops ∧
        exec (.str g q wd d a b) s = .next { ((t.countSlot t.latch.leaf).raise e).stepDone with fresh := s.fresh + 1 })) ∧
    (∀ e, check = some e → Raises (.ldr g q wd d a b) s e ∧ ((q = 0 → s.heldStr = none) → Raises (.str g q wd d a b) s e)) ∧
    (check = none →
      (∀ accs, reach .rd false = .ok accs → s.grp.ld < 31 → s.queueFull s.grp.place.part.cu .table = false →
        (act = 0 ∨ s.grp.room names = .ok) →
        (q ≠ 0 → s.inTx = false → Completes (.ldr g q wd d a b) s fun t => AwaitsK s act names q.toNat t ∧
          Started s (some .ld) (.row false wide d.toNat q.toNat (rows accs false)) t) ∧
        (q = 0 ∨ s.inTx = true → s.heldBack (.load (.vec 0 false) (held accs false) none false) = false →
          Completes (.ldr g q wd d a b) s fun t => AwaitsK s act names q.toNat t ∧ t.mem = s.mem ∧
            t.holds s.nextId (if s.grp.doomed then freeResults s act names q.toNat
              else loadResults (.vec d.toNat wide) (xs.map fun x => (x.lane, match accs.find? (·.lane == x.lane) with
                | some c => s.seeRow s.inTx (8 * x.lane) c.locs
                | none => [])) ++ predResult q.toNat bits))) ∧
      ∀ accs, reach .wr true = .ok accs → s.grp.st < 31 → (q = 0 → s.heldStr = none) →
        let ps := accs.flatMap Acc.locs
        let vs := (held accs true).flatMap Acc.data
        (q ≠ 0 → s.inTx = false → s.inj[s.grp.place.part.cu.die.toFin].en = false →
          Completes (.str g q wd d a b) s fun t => AwaitsK s act [] q.toNat t ∧
          Started s (some .st) (.row true wide d.toNat q.toNat (rows accs true)) t) ∧
        (s.heldBack (.store (held accs true) none) = false →
          (q = 0 → s.inTx = false → s.inj[s.grp.place.part.cu.die.toFin].en = false →
            Completes (.str g q wd d a b) s fun t => KeepsRegs s t ∧ t.grp.st = s.grp.st + 1 ∧
            (ps.Nodup → t.readLocs ps = vs) ∧ ∀ y, Loc.dev y ∉ ps → readByte t.mem y = readByte s.mem y) ∧
          (∀ o, q = 0 → s.inTx = false → o.hold = true →
            s.holdParts { s.newOp none (.row true wide d.toNat 0 (rows accs true)) with performed := true }
              (xs.filterMap fun x => (row x).map fun va => (x.lane, va, n)) = some o →
            exec (.str g q wd d a b) s = .next ((s.enqueue o).stalled s.latch.start)) ∧
          (s.inTx = true → Completes (.str g q wd d a b) s fun t => AwaitsK (s.txHold ps vs) act [] q.toNat t ∧
            t.mem = s.mem ∧ t.grp.st = s.grp.st + 1 ∧
            t.holds s.nextId (if (s.txHold ps vs).grp.doomed then freeResults s act [] q.toNat else predResult q.toNat bits))))

/-- TSCAN of an ordered table opens a cursor per active lane over its range; TCLOSE discards the active lanes'
cursors; TNEXT starts a scan step, with its destinations awaiting it; TSTAT starts a read of the selected statistic
(both with a slot of the table queue). A table that is not bound raises bad table, a transaction around TSCAN or TNEXT
transaction misuse. A row that TNEXT may not reach raises its fault (what is checked when is the model's reading, log
entry 38). A scan step returns the cursor's next N present keys, ascending. -/
def Obligations.ScansAndStatistics : Prop :=
  (∀ (g : PReg) (cur : BitVec 2) (n1 : BitVec 3) (sel : StatSel) (d a b c : Reg) (s : State), s.issues →
    let act := s.active g
    let num := (s.readS b).setWidth 16
    let n := n1.toNat + 1
    let word := s.readS b
    let desc := TDesc.ofWord word
    let tab (l : Nat) : Option (BitVec 16) := (s.grp.cursors.find? fun c => c.slot == cur && c.lane == l).map Cursor.table
    let lanes := (lanesOf act).map fun l => (l, tab l)
    let first := (lanes.findSome? Prod.snd).getD desc.table
    let passes : Prop := ∃ x ∈ lanes, ∃ y t, x.2 = some y ∧ s.tableOf s.grp.job y s.grp.id.l = some t ∧ desc.passes t = true
    let names := (List.range (4 * n)).map (fun i => d + BitVec.ofNat 5 i) ++ desc.names (n * desc.m)
    let xs := (lanesOf act).map fun l => (l, s.readPair a l, s.readPair c l)
    (s.grp.tx.isSome → Raises (.tscan g cur a b c) s excTx ∧ Raises (.tnext g cur n1 d b) s excTx) ∧
    (s.tableOf s.grp.job num s.grp.id.l = none → Raises (.tstat sel d b) s (excTable num s.frag.em) ∧
      (s.grp.tx = none → Raises (.tscan g cur a b c) s (excTable num act))) ∧
    (∀ t, s.tableOf s.grp.job num s.grp.id.l = some t →
      (s.grp.tx = none → t.ordered = false → Raises (.tscan g cur a b c) s (excTable num act)) ∧
      (s.grp.tx = none → t.ordered = true → s.cursorBusy cur = false →
        s.watchKeys num (xs.filter fun x => decide (x.2.1.toNat ≤ x.2.2.toNat)) = .clear →
        Completes (.tscan g cur a b c) s fun u =>
          u = { s with grp := { s.grp with cursors := u.grp.cursors, unmapped := u.grp.unmapped } } ∧
          u.grp.cursors = (s.grp.closeCursors cur act).cursors ++ xs.map fun x => {
            slot := cur, lane := x.1, table := num, hi := x.2.2, last := x.2.1, returned := false, exhausted := false }) ∧
      (s.grp.ld < 31 → s.queueFull s.grp.place.part.cu .table = false → s.grp.tx = none → Completes (.tstat sel d b) s fun u =>
        Started s (some .ld) (.tstat sel d.toNat num) u ∧ u.grp.isPending .scalar d.toNat = true ∧ u.grp.v = s.grp.v ∧
          u.grp.k = s.grp.k ∧ ∀ r : Reg, r ≠ d → u.grp.s[r.toFin] = s.grp.s[r.toFin]) ∧
      (s.grp.ld < 31 → s.queueFull s.grp.place.part.cu .table = false → s.inTx = true → s.grp.doomed = false → s.heldBack (.tstat sel d.toNat num) = false →
        let x := BitVec.ofNat 64 (s.tableStat (s.seeTable true t) sel)
        Completes (.tstat sel d b) s fun u => u.mem = s.mem ∧ u.grp.isPending .scalar d.toNat = true ∧
          u.holds s.nextId [{ cls := .scalar, name := d.toNat, mask := 0, comps := [], word := x }])) ∧
    (s.cursorBusy cur = false → Completes (.tclose g cur) s fun u => u = s.setGrp fun x => x.closeCursors cur act) ∧
    (s.grp.tx = none →
      (desc.bad word n = true ∨ passes → Raises (.tnext g cur n1 d b) s (excTable first act)) ∧
      (desc.bad word n = false → ¬ passes → s.cursorBusy cur = false → s.grp.ld < 31 → s.queueFull s.grp.place.part.cu .table = false →
        (act = 0 ∨ s.grp.room names = .ok) →
        (∀ e, s.scanStops s.grp.id s.grp.job cur n desc lanes = some (.trap e) → Raises (.tnext g cur n1 d b) s e) ∧
        ∀ y, s.scanStops s.grp.id s.grp.job cur n desc lanes = none → s.scanLanes s.grp.id s.grp.job cur n desc lanes = .ok y →
          (∀ r ∈ y.2, r.bad = none) →
        Completes (.tnext g cur n1 d b) s fun u => AwaitsK s act names desc.q u ∧
          Started s (some .ld) (.tnext cur n d.toNat desc lanes) u))) ∧
  ∀ (t : Table) (c : Cursor) (n : Nat), (t.rows.map Prod.fst).Nodup →
    let ks := t.scan c n
    let due (r : BitVec 64 × Nat) : Prop := r ∈ t.rows ∧ r.1.toNat ≤ c.hi.toNat ∧
      (if c.returned then c.last.toNat < r.1.toNat else c.last.toNat ≤ r.1.toNat)
    (c.exhausted = true → ks = []) ∧ (ks.map fun r => r.1.toNat).Pairwise (· < ·) ∧ ks.length ≤ n ∧ (∀ r ∈ ks, due r) ∧
    (c.exhausted = false → ∀ r, due r → r ∉ ks → ks.length = n ∧ ∀ y ∈ ks, y.1.toNat < r.1.toNat)

/-- TXB opens a live transaction and discards the CU's L1 lines; TXA ends it with cause 5, or the cause that doomed
it; TXC of a live transaction that commits writes 0 (once no earlier access of the group is still to be performed and
the table queue has a slot) and makes its held bytes the bytes of memory; TXC of a doomed one, or of one that lacks
room, writes the cause and changes no table and no byte. TXST writes the cause. TXB inside a transaction, and TXC and
TXA outside, raise transaction misuse. What TXC and TXA wait for is the model's reading (log entry 37). -/
def Obligations.Transactions : Prop :=
  ∀ (d : Reg) (s : State), s.issues →
    (s.grp.settledS d → Completes (.txst d) s (WroteS s d
      (BitVec.ofNat 64 (match s.grp.tx with | some y => y.cause | none => s.grp.txCause)) 2)) ∧
    (s.grp.tx = none → Raises (.txc d) s excTx ∧ Raises .txa s excTx ∧
      Completes .txb s fun t =>
        t.grp.tx = some { cause := 0, count := 0, ops := [], stores := [], rows := [], lines := [] } ∧
        t = { s with grp := { s.grp with tx := t.grp.tx, seen := max s.grp.seen s.fresh }, l1 := t.l1, dirty := t.dirty } ∧
        (t.dirty.map fun y => (y.pa, y.old, y.released)) = (s.dirty.map fun y => (y.pa, y.old, y.released)) ∧
        ∀ y, y ∈ t.l1 ↔ y ∈ s.l1 ∧ (y.cu ≠ s.grp.place.part.cu ∨ y.const.isSome = true)) ∧
    ∀ y, s.grp.tx = some y →
      let ends (c : Nat) (t : State) : Prop := t.grp.tx = none ∧ t.grp.txCause = c ∧ t.grp.v = s.grp.v ∧ t.grp.k = s.grp.k
      let fails (c : Nat) : Prop := Completes (.txc d) s fun t => ends c t ∧ t.grp.s[d.toFin] = BitVec.ofNat 64 c ∧
        t.mem = s.mem ∧ t.tables = s.tables ∧ ∀ r : Reg, r ≠ d → t.grp.s[r.toFin] = s.grp.s[r.toFin]
      Raises .txb s excTx ∧
      (s.busyLocs (y.stores.map fun c => .dev c.1) = false → Completes .txa s fun t =>
        ends (if y.cause = 0 then 5 else y.cause) t ∧ t.mem = s.mem ∧ t.tables = s.tables ∧ t.grp.s = s.grp.s) ∧
      (s.grp.ld ≠ 0 ∨ s.grp.st ≠ 0 → Waits (.txc d) s) ∧
      (s.grp.ld = 0 → s.grp.st = 0 → s.grp.settledS d → s.replayVerdict = .go →
        (y.cause ≠ 0 → fails y.cause) ∧
        (y.cause = 0 → s.quiet = false ∨ s.queueFull s.grp.place.part.cu .table = true → Waits (.txc d) s) ∧
        (y.cause = 0 → s.quiet = true → s.queueFull s.grp.place.part.cu .table = false →
          (s.commit y = none → fails 2) ∧ ∀ u, s.commit y = some u →
          (Completes (.txc d) s fun t => ends 0 t ∧ t.grp.s[d.toFin] = 0 ∧ t.mem = u.mem ∧ t.tables = u.tables ∧
            ∀ r : Reg, r ≠ d → t.grp.s[r.toFin] = s.grp.s[r.toFin]) ∧
          (s.memWf → (y.rows.map Prod.fst).Nodup → ∀ c ∈ y.rows, readByte u.mem c.1 = c.2) ∧
          (y.ops = [] → ∀ a, (∀ c ∈ y.stores ++ y.rows, c.1 ≠ a) → readByte u.mem a = readByte s.mem a)))

/-- Room for an engine operation: its counter is below 31, and its queue or, under a start condition, the group's share of the
deferred pool has a free place (R293, R294, R298). -/
def roomFor (s : State) (c : Ctr) (q : QueueClass) (cond : Option (BarRef × BitVec 16)) : Prop :=
  s.grp.count c < 31 ∧ (cond = none → s.queueFull s.grp.place.part.cu q = false) ∧ (cond ≠ none → s.deferredCount < 2)

/-- A start condition is met (R294). -/
def condMet (s : State) (cond : Option (BarRef × BitVec 16)) : Prop :=
  ∀ r gen, cond = some (r, gen) → ∃ b, s.bar? r = some b ∧ b.gen ≠ gen

/-- What completion does once an engine operation's last effect on memory is made (R280): the operation leaves and its counter cp falls,
CST takes its bits, and its bytes are counted on the barrier that it names, whose phase then completes if it is full (R156). -/
def Settles (a u : State) (o : Op) (c : BitVec 4) : Prop :=
  (∀ p ∈ u.ops, p.id ≠ o.id) ∧
  (∀ g ∈ a.groups, g.id = o.gid → ∃ h ∈ u.groups, h.id = g.id ∧ h.cp = g.cp - 1 ∧ h.cst = g.cst ||| c) ∧
  ∀ r y, o.bar = some r → a.bar? r = some y →
    let n := y.bytes + BitVec.ofNat 32 o.bytes
    u.bar? r = some (if y.expected ≠ 0 ∧ y.arrived = y.expected ∧ n = y.target then
        { y with gen := y.gen + 1, arrived := 0, target := 0, bytes := 0, arrivals := [], regroups := [] }
      else { y with bytes := n })

/-- The barrier on which an operation's bytes count has no REGROUP waiting, and no trace is kept: what its phase does is then only to let groups
go on (R156, R361). -/
def plainBar (s : State) (o : Op) : Prop :=
  o.bar = none ∨ (s.traceA = 0 ∧ ∀ r y, o.bar = some r → s.bar? r = some y → y.regroups = [])

/-- An event writes parts of 16 bytes of an image into a block's sg1 from byte `at_` on, one or all of those that are left, numbered from
`first` (R258, R268); `last` holds once none is left. -/
def WritesImage (a u : State) (o : Op) (first blk at_ : Nat) (bs : List Byte) (last : Prop) : Prop :=
  let left := (List.range ((bs.length + 15) / 16)).filter fun j => !o.parts.contains (first + j)
  ∃ now : List Nat, (now = left ∨ ∃ j ∈ left, now = [j]) ∧
    (∀ n v, n / 16 ∈ now → bs[n]? = some v → u.readLoc (.scr o.gid.l blk (at_ + n)) = v) ∧
    (∀ n, n < at_ ∨ at_ + bs.length ≤ n → u.readLoc (.scr o.gid.l blk n) = a.readLoc (.scr o.gid.l blk n)) ∧
    (now.length < left.length → ∃ p ∈ u.ops, p.id = o.id ∧ p.kind = o.kind ∧
      ∀ x, first ≤ x → (x ∈ p.parts ↔ x ∈ o.parts ∨ ∃ j ∈ now, x = first + j)) ∧
    (now.length = left.length → last)

/-- The cache record at S(a), read now, names a bound ordered table and is valid (R313). -/
def cacheRecord (s : State) (a : Reg) (r : BitVec 512) (t : Table) : Prop :=
  ∃ accs, s.checkAccess .unwatched (segOf (s.readS a)) (baseHigh (s.readS a)) [0, 4] 1 64
      [{ lane := 0, off := (s.readS a).toNat % 2 ^ 52 }] true = .ok accs ∧
    s.busyLocs (accs.flatMap Acc.locs) = false ∧ r = BitVec.ofNat 512 (leNat (s.readNow (accs.flatMap Acc.locs))) ∧
    (s.tableOf s.grp.job (Cache.of r).table s.grp.id.l).filter Table.ordered = some t ∧ (Cache.of r).bad = false

/-- With no lane active, SHAPE, the copies, the matrix, drain, cache-append, query and block-load instructions take no
effect but their last-read frees; with one active, inside a transaction, they raise transaction misuse, as OPRDY and
XMERGE do always; of those that read a cache record KVAPP and QPOST raise illegal encoding first where their data
names pass v31. -/
def Obligations.SingleIssue : Prop :=
  ∀ (g q : PReg) (n : BitVec 3) (x y z : Bool) (t : BitVec 4) (c n1 : BitVec 5) (m : Marks2) (d a b : Reg) (s : State),
    s.issues →
    let is : List Instr := [.shape g a n, .cpyIn g n a b, .cpyOut g n a b, .cpyRem g n a b, .mma g x y z t a b,
      .mmag g x y z t a b, .mmaT g x y z t a b, .amld g t a, .amst g t a, .amzero g t, .amrow g t d b, .drainSt g t a b,
      .drainAdd g t a b, .qget g q d a b]
    let cached : List Instr := [.kvapp g d a b, .kvappDrop g a b, .qpost g c d a b, .btld g n1 a b]
    (s.active g = 0 → (∀ i ∈ is ++ cached, Completes i s fun u => u = s) ∧
      Completes (.amscl g m t a b) s fun u => u = s.freeNames (freed2 m a b)) ∧
    (s.grp.tx.isSome → (s.active g ≠ 0 → (∀ i ∈ Instr.amscl g m t a b :: is, Raises i s excTx) ∧
        let read := s.checkAccess .unwatched (segOf (s.readS a)) (baseHigh (s.readS a)) [0, 4] 1 64
          [{ lane := 0, off := (s.readS a).toNat % 2 ^ 52 }] true
        (∀ e, read = .stop e → ∀ i ∈ cached, Raises i s excTx) ∧
        ∀ accs, read = .ok accs → s.busyLocs (accs.flatMap Acc.locs) = false →
          let k := Cache.of (BitVec.ofNat 512 (leNat (s.readNow (accs.flatMap Acc.locs))))
          Raises (.kvappDrop g a b) s excTx ∧ Raises (.btld g n1 a b) s excTx ∧
          Raises (.kvapp g d a b) s (if 31 < d.toNat + 2 * k.nk - 1 then excIllegal else excTx) ∧
          Raises (.qpost g c d a b) s (if k.dh = 128 ∧ 30 < d.toNat then excIllegal else excTx)) ∧
      Raises (.oprdy a b) s excTx ∧ Raises (.xmerge g d a b) s excTx)

/-- SHAPE loads a valid record into a shape register and raises bad shape for one that breaks a rule. A copy whose
record, ranges and barriers pass their checks starts an operation on cp that counts its image's bytes on the barrier
named; it waits in the deferred pool unless its condition is met and its queue has a place. Else it raises bad shape,
segment limit or barrier misuse. No register of the group changes. -/
def Obligations.CopiesStart : Prop :=
  ∀ (g : PReg) (n : BitVec 3) (a b : Reg) (s : State), s.issues → s.active g ≠ 0 → s.grp.tx = none →
    (∀ accs, s.checkAccess .unwatched (segOf (s.readS a)) (baseHigh (s.readS a)) [0, 4] 1 64
        [{ lane := 0, off := (s.readS a).toNat % 2 ^ 52 }] true = .ok accs →
      s.busyLocs (accs.flatMap Acc.locs) = false →
      let r := BitVec.ofNat 512 (leNat (s.readNow (accs.flatMap Acc.locs)))
      ((Shape.of r).bad = true → Raises (.shape g a n) s excShape) ∧
      ((Shape.of r).bad = false → Completes (.shape g a n) s fun t => t = { s with grp := { s.grp with sh := t.grp.sh } } ∧
        t.grp.sh[n.toFin] = r ∧ ∀ k : BitVec 3, k ≠ n → t.grp.sh[k.toFin] = s.grp.sh[k.toFin])) ∧
    ∀ x ∈ [(Instr.cpyIn g n a b, CopyDir.into), (.cpyOut g n a b, .out), (.cpyRem g n a b, .rem)],
      let sh := Shape.of s.grp.sh[n.toFin]
      let c := s.readS a
      let cs := s.coords b
      let blk := if x.2 = .rem then s.clusterBlock (ctlTgt c) else s.grp.id.blk
      let segs := [s.grp.segRange 0, s.grp.segRange 7] ++ (if x.2 = .out then [] else [s.grp.segRange 4])
      let k : CopyOp := { dir := x.2, shape := s.grp.sh[n.toFin], coords := cs, ctl := c, blk := blk, segs := segs }
      let inRange := (x.2 = .rem → ctlTgt c < s.clusterSize) ∧ ctlSlot c + (sh.imgBytes + 1023) / 1024 ≤ s.mySlots ∧
        (sh.regs ≠ 0 → ctlSC c + sh.regs ≤ s.mySlots / 8)
      let shaped := sh.bad = false ∧ sh.badCoords (x.2 == .out) cs = false
      (¬ shaped → Raises x.1 s excShape) ∧
      (shaped → ¬ inRange → Raises x.1 s s.excLimit) ∧
      (shaped → inRange →
        (∀ e, s.ctlBars c blk (x.2 != .into) = .error e → Raises x.1 s (excBarrier e)) ∧
        ∀ bar cond, s.ctlBars c blk (x.2 != .into) = .ok (bar, cond) → roomFor s .cp .copy cond →
          Completes x.1 s fun t => KeepsRegs s t ∧ Started s (some .cp) (.copy k) t ∧
            ∃ o ∈ t.ops, o.id = s.nextId ∧ o.bar = bar ∧ o.bytes = sh.imgBytes ∧
              (o.deferred = none ↔ condMet s cond ∧ s.queueFull s.grp.place.part.cu .copy = false) ∧
              (o.deferred ≠ none → o.deferred = cond))

/-- On scale registers of the block's share: SCBIND binds the register to a slot at its version, unbinding any other
with that tag; SCMOV copies, SCSET writes 8 bytes, SCMUL and SCMAX combine byte by byte, SCREL unbinds; SCGET writes 8
bytes to a scalar. Poison travels with the bytes, and SCGET of a poisoned one raises uncorrectable data. The
register's tag, or its bytes, and every other register stay. A register outside the share, or a slot outside it,
raises segment limit. -/
def Obligations.ScaleRegisters : Prop :=
  ∀ (x y : BitVec 6) (j : BitVec 4) (b : Reg) (k : Block) (s : State), s.issues → s.myBlock = some k →
    let slot := (s.readS b).toNat % 512
    let past (i : Instr) : Prop := Raises i s s.excLimit
    (k.sc.length ≤ x.toNat → (∀ i ∈ [Instr.scbind x b, .scmov x y, .scmov y x, .scset x j b, .scget x j b, .scmul x y,
      .scmul y x, .scmax x y, .scmax y x, .screl x], past i)) ∧
    (x.toNat < k.sc.length → y.toNat < k.sc.length →
      let data (n : BitVec 6) := k.scaleData n
      let sets (i : Instr) (bs : List (Byte × Bool)) : Prop := Completes i s fun t => t.mem = s.mem ∧ t.grp = s.grp ∧
        ∃ z, t.myBlock = some z ∧ z.scale x = bs.map Prod.fst ∧ z.scaleData x = bs ∧ z.sc.length = k.sc.length ∧
          z.scratch = k.scratch ∧ z.acc = k.acc ∧ (∀ n : BitVec 6, n ≠ x → z.scaleData n = k.scaleData n) ∧
          z.sc.map ScaleReg.tag = k.sc.map ScaleReg.tag
      let tags (i : Instr) (f : Nat → Option (Nat × BitVec 8) → Option (Nat × BitVec 8)) : Prop :=
        Completes i s fun t => t.mem = s.mem ∧ t.grp = s.grp ∧ ∃ z, t.myBlock = some z ∧ z.scratch = k.scratch ∧
          ∀ n : Nat, z.sc[n]? = (k.sc[n]?).map fun r => { r with tag := f n r.tag }
      sets (.scmov x y) (data y) ∧
      sets (.scset x j b) ((data x).take (8 * j.toNat) ++ (leBytes 8 (s.readS b).toNat).map (fun w => (w, false)) ++
        (data x).drop (8 * j.toNat + 8)) ∧
      sets (.scmul x y) (((data x).zip (data y)).map fun p => (scaleMul p.1.1 p.2.1, p.1.2 || p.2.2)) ∧
      sets (.scmax x y) (((data x).zip (data y)).map fun p => (scaleMax p.1.1 p.2.1, p.1.2 || p.2.2)) ∧
      (k.slots ≤ slot → past (.scbind x b)) ∧
      (slot < k.slots → tags (.scbind x b) fun n t =>
        if n = x.toNat then some (slot, k.version slot) else if t = some (slot, k.version slot) then none else t) ∧
      (tags (.screl x) fun n t => if n = x.toNat then none else t) ∧
      (∀ e, k.scalePoison x (8 * j.toNat) 8 = some e → Raises (.scget x j b) s e) ∧
      (k.scalePoison x (8 * j.toNat) 8 = none → s.grp.settledS b → Completes (.scget x j b) s
        (WroteS s b (BitVec.ofNat 64 (leNat (((k.scale x).drop (8 * j.toNat)).take 8))) 2))) ∧
    ∀ p q : Byte, scaleMul p q = scaleMul q p ∧ scaleMax p q = scaleMax q p ∧
      (p = 0xFF → scaleMul p q = 0xFF ∧ scaleMax p q = 0xFF) ∧
      (p ≠ 0xFF → q ≠ 0xFF → (scaleMul p q).toNat = min (p.toNat + q.toNat - 127) 254 ∧
        (scaleMax p q).toNat = max p.toNat q.toNat)

/-- In a group of role 2, with a format pair of one class, a tile and slots of the block's share and a binding for
every scaled operand, MMA, MMAG and MMA.T start the product on mx with the scale registers found now. Else they raise
role violation, bad format, segment limit (of the tile, or of any operand's slots) or stale binding (of the first
operand whose binding is missing), in that order. No register changes. -/
def Obligations.MatrixIssue : Prop :=
  ∀ (g : PReg) (nsb nsa z : Bool) (t : BitVec 4) (a b : Reg) (s : State), s.issues → s.active g ≠ 0 → s.grp.tx = none →
    let f := s.frag.fmt
    let x := (s.readS a).toNat
    let y := (s.readS b).toNat
    let nr := x / 2 ^ 9 % 2 ^ 14
    let lo := x / 2 ^ 32
    let is : List Instr := [.mma g nsb nsa z t a b, .mmag g nsb nsa z t a b, .mmaT g nsb nsa z t a b]
    let fits (c : BitVec 6) (slot rows : Nat) : Prop := slot + matSlots c rows ≤ s.mySlots
    (s.grp.role ≠ 2 → ∀ i ∈ is, Raises i s excRole) ∧
    (s.grp.role = 2 → matPairOk f = false → ∀ i ∈ is, Raises i s excFormat) ∧
    (s.grp.role = 2 → matPairOk f = true →
      let A := fmtAF f
      let B := fmtBF f
      let operands : List (Instr × List (BitVec 6 × Bool × Nat × Nat)) :=
        [(.mma g nsb nsa z t a b, [(A, nsa, x % 512, 64), (B, nsb, y % 512, 64)]),
         (.mmag g nsb nsa z t a b, [(A, nsa, x % 512, nr), (B, nsb, y % 512, 64)]),
         (.mmaT g nsb nsa z t a b, [(A, nsa, x % 512, 64), (A, nsa, x / 2 ^ 16 % 512, 64), (B, nsb, y % 512, 64),
           (B, nsb, y / 2 ^ 16 % 512, 64)])]
      (s.myTiles ≤ t.toNat → ∀ i ∈ is, Raises i s s.excLimit) ∧
      (∀ p ∈ operands, (∃ o ∈ p.2, ¬ fits o.1 o.2.2.1 o.2.2.2) → Raises p.1 s s.excLimit) ∧
      (∀ k, s.myBlock = some k → t.toNat < s.myTiles → ∀ p ∈ operands, (∀ o ∈ p.2, fits o.1 o.2.2.1 o.2.2.2) →
        (p.1 = .mmag g nsb nsa z t a b → nr ≠ 0 ∧ lo % 2 = 0 ∧ lo + 128 ≤ s.grp.limit 1) →
        let found (o : BitVec 6 × Bool × Nat × Nat) := k.findTags (k.tags o.1 o.2.1 o.2.2.1 o.2.2.2)
        ∀ before o after e, p.2 = before ++ o :: after → (∀ q ∈ before, ∃ rs, found q = .ok rs) → found o = .error e →
          Raises p.1 s (excStale e)) ∧
      ∀ k, s.myBlock = some k → t.toNat < s.myTiles →
        let tagsA (slot rows : Nat) := k.findTags (k.tags (fmtAF f) nsa slot rows)
        let tagsB (slot : Nat) := k.findTags (k.tags (fmtBF f) nsb slot 64)
        let starts (i : Instr) (m : MatKind) : Prop := Completes i s fun v => KeepsRegs s v ∧
          Started s (some .mx) (.mat m t.toNat f) v
        (fits (fmtAF f) (x % 512) 64 → fits (fmtBF f) (y % 512) 64 →
          ∀ ra rb, tagsA (x % 512) 64 = .ok ra → tagsB (y % 512) = .ok rb → roomFor s .mx .matrix none →
            starts (.mma g nsb nsa z t a b) (.mma z { slot := x % 512, ns := nsa, regs := ra } { slot := y % 512, ns := nsb, regs := rb })) ∧
        (fits (fmtAF f) (x % 512) nr → fits (fmtBF f) (y % 512) 64 → nr ≠ 0 → lo % 2 = 0 → lo + 128 ≤ s.grp.limit 1 →
          ∀ ra rb, tagsA (x % 512) nr = .ok ra → tagsB (y % 512) = .ok rb → roomFor s .mx .matrix none →
            starts (.mmag g nsb nsa z t a b)
              (.mmag z { slot := x % 512, ns := nsa, regs := ra } nr lo { slot := y % 512, ns := nsb, regs := rb })) ∧
        (nr = 0 ∨ lo % 2 = 1 ∨ s.grp.limit 1 < lo + 128 → Raises (.mmag g nsb nsa z t a b) s s.excLimit) ∧
        (fits (fmtAF f) (x % 512) 64 → fits (fmtAF f) (x / 2 ^ 16 % 512) 64 → fits (fmtBF f) (y % 512) 64 →
          fits (fmtBF f) (y / 2 ^ 16 % 512) 64 → ∀ ra rda rb rdb, tagsA (x % 512) 64 = .ok ra → tagsA (x / 2 ^ 16 % 512) 64 = .ok rda →
          tagsB (y % 512) = .ok rb → tagsB (y / 2 ^ 16 % 512) = .ok rdb → roomFor s .mx .matrix none →
            starts (.mmaT g nsb nsa z t a b) (.mmat z { slot := x % 512, ns := nsa, regs := ra }
              { slot := x / 2 ^ 16 % 512, ns := nsa, regs := rda } { slot := y % 512, ns := nsb, regs := rb }
              { slot := y / 2 ^ 16 % 512, ns := nsb, regs := rdb })))

/-- With a tile and slots of the block's share and room, the accumulator instructions start on mx, AMROW with its four
names awaiting it and AMSCL holding its sources; a drain whose pitch, format, range and barriers pass starts on cp,
and under stochastic rounding moves the seed past 4,096 draws. OPRDY completes when no engine operation still writes
its slots, and waits until then, and is an acquire. A tile outside the share raises segment limit. (DEDUCED, log entry
41) -/
def Obligations.AccumulatorsAndDrains : Prop :=
  ∀ (g : PReg) (m : Marks2) (t : BitVec 4) (d a b : Reg) (s : State), s.issues → s.grp.tx = none →
    let f := s.frag.fmt
    let slot := (s.readS a).toNat % 512
    let n := (s.readS b).toNat % 1024
    let starts (i : Instr) (k : MatKind) : Prop := Completes i s fun v => KeepsRegs s v ∧ Started s (some .mx) (.mat k t.toNat f) v
    let names := [d, d + 1, d + 2, d + 3]
    (s.active g ≠ 0 →
      (s.myTiles ≤ t.toNat → ∀ i ∈ [Instr.amld g t a, .amst g t a, .amzero g t, .amrow g t d b, .amscl g m t a b],
        Raises i s s.excLimit) ∧
      (t.toNat < s.myTiles → roomFor s .mx .matrix none →
        (slot + 16 ≤ s.mySlots → starts (.amld g t a) (.amld slot) ∧ starts (.amst g t a) (.amst slot)) ∧
        starts (.amzero g t) .amzero ∧
        (s.grp.room names = .ok → Completes (.amrow g t d b) s fun v => AwaitsK s (BitVec.allOnes 32) names 0 v ∧
          Started s (some .mx) (.mat (.amrow d.toNat (s.readS b)) t.toNat f) v) ∧
        Completes (.amscl g m t a b) s fun v => Started s (some .mx) (.mat (.amscl (s.readV a) (s.readV b)) t.toNat f) v ∧
          (∀ r, v.grp.vreg r = (s.grp.freed (freed2 m a b)).vreg r) ∧ v.grp.s = s.grp.s ∧ v.grp.k = s.grp.k ∧
          ∀ r ∈ [a, b], v.grp.isPending .vec r.toNat = true) ∧
      ∀ i ∈ [(Instr.drainSt g t a b, false), (.drainAdd g t a b, true)],
        let c := s.readS a
        let x := s.readS b
        let seg := segOf x
        let off := x.toNat % 2 ^ 52
        let rb := if i.2 then 256 else 8 * scratchBits (fmtOF f)
        let pitch := if ctlPitch c = 0 then rb else 16 * ctlPitch c
        let buffered := i.2 && s.grp.det && seg == 0
        let base := if seg = 1 then off else s.grp.segBase 0 + off
        (pitch < rb → Raises i.1 s excShape) ∧
        (rb ≤ pitch → (i.2 = false → (floatFmt (fmtOF f)).isSome = true ∧ fmtOF f ≠ 0x0B) → t.toNat < s.myTiles →
          (seg = 0 ∨ seg = 1) → baseHigh x = false → off + 63 * pitch + rb ≤ s.grp.limit seg →
          (i.2 = true → off % 4 = 0 ∧ pitch % 4 = 0) →
          (∀ e, s.ctlBars c s.grp.id.blk true = .error e → Raises i.1 s (excBarrier e)) ∧
          ∀ bar cond k, s.ctlBars c s.grp.id.blk true = .ok (bar, cond) → s.myBlock = some k →
            (buffered = true → s.detFits k 16448 = true) → roomFor s .cp .drain cond →
            Completes i.1 s fun v => KeepsRegs s v ∧
              ∃ w, Started s (some .cp) (.drain i.2 t.toNat f (seg == 1) base pitch rb buffered) { w with frag := s.frag } ∧
                w.frag = { s.frag with fmt := if i.2 = false ∧ fmtRM f = .sr then fmtWithSeed f (drawMany 4096 (fmtSeed f)) else f } ∧
                v = (if buffered then w.bufferDet s.grp.id.l s.grp.id.blk [.tile s.grp.id.g s.nextId [] [] []] else w) ∧
                ∃ y, v.myBlock = some y ∧ y.scratch = k.scratch ∧ y.acc = k.acc ∧
                  y.detBuf = k.detBuf ++ if buffered then [.tile s.grp.id.g s.nextId [] [] []] else [])) ∧
    (512 < n ∨ s.mySlots < slot + n → Raises (.oprdy a b) s s.excLimit) ∧
    (n ≤ 512 → slot + n ≤ s.mySlots →
      let busy := ∃ o ∈ s.ops, o.gid.l = s.grp.id.l ∧ o.kind.fills = true ∧ ∃ r ∈ o.img, r.1 = s.grp.id.blk ∧ 0 < n ∧
        r.2.1 / 1024 < slot + n ∧ slot * 1024 < r.2.1 + r.2.2
      (busy → Waits (.oprdy a b) s) ∧
      (¬ busy → Completes (.oprdy a b) s fun v => v = { s with dirty := v.dirty, grp := { s.grp with seen := max s.grp.seen s.fresh } } ∧
        (v.dirty.map fun d => (d.pa, d.old, d.released)) = (s.dirty.map fun d => (d.pa, d.old, d.released))))

/-- COPY.START starts the next copy of its queue; COPY.PART reads, or writes, one 16-byte part; COPY.COMPLETE of a
copy into scratchpad makes parts of the image the block's bytes, and with the last, as of a copy out of it, the copy
completes: versions advance, CST takes its bits, its bytes are counted on its barrier, cp falls. DEFERRED.ENTRY.START
queues an entry whose condition holds; MATRIX.START applies the operation to the tile and MATRIX.COMPLETE ends it,
AMST's image part by part; DRAIN.START reads the tile, if the drain has not read it before, and DRAIN.COMPLETE writes
it: into sg1 or memory piece by piece, an addition to sg1 at once, or into the determinism buffer, and completes with
the last piece; DETERMINISM.BUFFER.APPLY empties the buffers of an ended launch. That an event performs one or all of
the pieces left, and when a drain reads, is the model's reading (DEDUCED, log entries 40 and 41). -/
def Obligations.EngineEvents : Prop :=
  ∀ (i j : Nat) (o : Op) (s : State), s.atEvent.op? i = some o →
    let now (u : State) (f : Op → Prop) : Prop := ∃ p ∈ u.ops, p.id = i ∧ p.kind = o.kind ∧ f p
    let gone (a u : State) (c : Ctr) : Prop := (∀ p ∈ u.ops, p.id ≠ i) ∧
      ∀ g ∈ a.groups, g.id = o.gid → ∃ h ∈ u.groups, h.id = g.id ∧ h.count c = g.count c - 1
    (s.atEvent.nextCopy o.cu = some o → Happens (.copyStart i) s fun a u =>
      KeepsMemory a u ∧ KeepsGroups a u ∧ now u fun p => p.started = true) ∧
    let drains (base pitch rb : Nat) (scratch : Bool) : Prop := o.started = true ∧ o.ctr = some .cp ∧
      s.atEvent.engineMay o true ((drainPieces base pitch rb).flatMap fun p => s.atEvent.drainPlaces o scratch p.1 p.2.2) = true ∧
      (scratch = false → s.atEvent.walkMissing o.cu.die none o.job ((drainPieces base pitch rb).map Prod.fst) = none)
    (∀ k p, o.kind = .copy k → o.started = true → s.atEvent.engineMay o k.out (s.atEvent.partLocs o k p) = true →
      s.atEvent.walkMissing o.cu.die none o.job [16 * p] = none → o.parts.contains j = false → k.memParts[j]? = some p →
      (∀ d, k.out = false → s.atEvent.readPart o k j p = some d → Happens (.copyPart i j) s fun a u =>
        KeepsMemory a u ∧ KeepsGroups a u ∧ now u fun q => q.parts = j :: o.parts ∧ q.buf = d :: o.buf) ∧
      ∀ v d e, k.out = true → s.atEvent.writePart o k j p = some (v, d, e) → Happens (.copyPart i j) s fun _ u =>
        u.mem = v.mem ∧ u.hostMem = s.hostMem ∧ now u fun q => q.parts = j :: o.parts) ∧
    (∀ k x, o.kind = .copy k → o.started = true → (∀ n, n < k.memParts.length → n ∈ o.parts) → o.ctr = some .cp →
      o.spoilt = [] → s.atEvent.block? o.gid.l k.blk = some x → s.memWf → plainBar s.atEvent o →
      (k.out = true → s.atEvent.engineMay o true [] = true →
        Happens (.copyComplete i) s fun a u => u.mem = a.mem ∧ Settles a u o o.cst) ∧
      (k.out = false → s.atEvent.engineMay o true
          (scratchPlaces o.gid.l k.blk (ctlSlot k.ctl * 1024) (Shape.of k.shape).imgBytes) = true →
        let im := k.image o.buf
        Happens (.copyComplete i) s fun a u => u.mem = a.mem ∧
          WritesImage a u o k.memParts.length k.blk (ctlSlot k.ctl * 1024) im.bytes
            (Settles a u o (o.cst ||| (if im.badCode then 1 else 0)) ∧
              ∃ y, u.block? o.gid.l k.blk = some y ∧ ∀ n, n < x.ver.length → y.version n = x.version n +
                (if ctlSlot k.ctl ≤ n ∧ n < ctlSlot k.ctl + (im.bytes.length + 1023) / 1024 then 1 else 0)))) ∧
    (∀ r gen y x, o.deferred = some (r, gen) → s.atEvent.bar? r = some y → y.gen ≠ gen →
      s.atEvent.block? o.gid.l o.gid.blk = some x → x.cu.isSome = true → x.saved = false →
      s.atEvent.queueFull o.cu o.kind.queue = false → Happens (.deferredEntryStart i) s fun a u =>
        KeepsMemory a u ∧ KeepsGroups a u ∧ now u fun p => p.deferred = none ∧ p.entered = a.nextId) ∧
    (∀ m t f x, o.kind = .mat m t f → s.atEvent.block? o.gid.l o.gid.blk = some x →
      (s.atEvent.matrixReady o = true → Happens (.matrixStart i) s fun a u => u.mem = a.mem ∧ KeepsGroups a u ∧
        (now u fun p => p.started = true) ∧ u.block? o.gid.l o.gid.blk =
          some (match m with | .amst _ | .amrow .. => x | _ => x.setTile t (m.apply x t f).1 (m.apply x t f).2)) ∧
      (o.started = true → o.ctr = some .mx → (∀ d ∈ s.dbg, d.stopped = false) →
        ((∀ n, m ≠ .amst n) → Happens (.matrixComplete i) s fun a u => gone a u .mx ∧ u.mem = a.mem) ∧
        ∀ n, m = .amst n → o.spoilt = [] → s.memWf →
          s.atEvent.engineMay o true (scratchPlaces o.gid.l o.gid.blk (1024 * n) 16384) = true →
          Happens (.matrixComplete i) s fun a u => u.mem = a.mem ∧
            WritesImage a u o 0 o.gid.blk (1024 * n) (o.buf.flatMap PartData.bytes) (gone a u .mx))) ∧
    (∀ add t f scratch base pitch rb buffered x, o.kind = .drain add t f scratch base pitch rb buffered →
      (s.atEvent.block? o.gid.l o.gid.blk = some x → s.atEvent.drainReady o = true → Happens (.drainStart i) s fun a u =>
        KeepsMemory a u ∧ KeepsGroups a u ∧ now u fun p => p.started = true ∧
          p.buf = if o.buf = [] then drainParts add f (x.tile t) (x.tilePoison t) else o.buf) ∧
      (scratch = true → buffered = false → drains base pitch rb true → o.spoilt = [] → s.memWf → plainBar s.atEvent o →
        s.atEvent.block? o.gid.l o.gid.blk = some x →
        let c : BitVec 4 := o.cst ||| if o.buf.any fun d => d.fate == .poison then 4 else 0
        let byte (n : Nat) : Loc := .scr o.gid.l o.gid.blk n
        (add = true → 256 ≤ pitch → Happens (.drainComplete i) s fun a u => u.mem = a.mem ∧ Settles a u o c ∧
          ∀ row j, row < 64 → j < 64 →
            let word := (List.range 4).map fun n => byte (base + row * pitch + 4 * j + n)
            u.readLocs word = leBytes 4 (atomNew .f32 32 (BitVec.ofNat 64 (leNat (a.readLocs word)))
              (((tileWords o.buf).getD (64 * row + j) 0).setWidth 64)).toNat) ∧
        (add = false → rb ≤ pitch → Happens (.drainComplete i) s fun a u => u.mem = a.mem ∧
          let pieces := drainPieces base pitch rb
          let left := o.left pieces.length
          ∃ now_ : List Nat, (now_ = left ∨ ∃ j ∈ left, now_ = [j]) ∧
            (∀ j ∈ now_, ∀ p, pieces[j]? = some p → ∀ n v, n < p.2.2 → (partBytes o.buf p.2.1 p.2.2).1[n]? = some v →
              u.readLoc (byte (p.1 + n)) = v) ∧
            (∀ n, (∀ j ∈ now_, ∀ p, pieces[j]? = some p → n < p.1 ∨ p.1 + p.2.2 ≤ n) → u.readLoc (byte n) = a.readLoc (byte n)) ∧
            (now_.length < left.length → now u fun p => p.parts = o.parts ++ now_) ∧
            (now_.length = left.length → Settles a u o c))) ∧
      ∀ c, scratch = false → drains base pitch rb false → o.spoilt = [] → plainBar s.atEvent o →
        s.atEvent.drainCst o base pitch rb = some c →
        let d := { o with cst := o.cst ||| c ||| if o.buf.any fun d => d.fate == .poison then 4 else 0 }
        (buffered = false → Happens (.drainComplete i) s fun a u =>
          let r := a.drainStep d add false base pitch rb
          u.mem = r.1.mem ∧ (r.2.2 = true → Settles a u o d.cst) ∧ (r.2.2 = false → now u fun p => p.parts = o.parts ++ r.2.1)) ∧
        (buffered = true → s.atEvent.block? o.gid.l o.gid.blk = some x → Happens (.drainComplete i) s fun a u => Settles a u o d.cst ∧
          u.hostMem = a.hostMem ∧ ∃ y, u.block? o.gid.l o.gid.blk = some y ∧ y.scratch = x.scratch ∧ y.detBuf = x.detBuf.map fun e =>
            if e.isTile i then .tile o.gid.g i (wordAddrs (a.drainWords d base pitch)) (tileWords o.buf) (poisonedWords o.buf) else e)) ∧
    ∀ l, s.atEvent.launch? j = some l → l.done = l.blocksTotal → l.final = none → l.state = 2 →
      Happens (.determinismBufferApply j) s fun a u => u.hostMem = a.hostMem ∧ KeepsGroups a u ∧
        ∀ b ∈ u.blocks, b.l = j → b.detBuf = []

/-- With a valid cache record and room: KVAPP, with the injector off, starts the append of its token's rows to the
block its key names, and raises table full when a new block finds the free list empty; KVAPP.DROP of a key starts on
st, the key leaving the table; QPOST starts the query; QGET brings a record to six names, a scalar and a predicate;
BTLD fills the die's block translation cache. A record whose table is not bound, or that breaks a rule, raises bad
table. -/
def Obligations.ReedInstructions : Prop :=
  ∀ (g q : PReg) (c n1 : BitVec 5) (d a b : Reg) (s : State), s.issues → s.active g ≠ 0 → s.grp.tx = none →
    (∀ r t, cacheRecord s a r t →
      let k := Cache.of r
      let x := s.readS b
      let h := (s.readS (b + 1)).toNat
      let key := blockKey (x.extractLsb' 32 32) (x.toNat % 2 ^ 32 / 16)
      (d.toNat + 2 * k.nk ≤ 32 → 64 ≤ h ∨ k.nh < h → Raises (.kvapp g d a b) s (excTable k.table (s.active g))) ∧
      (d.toNat + 2 * k.nk ≤ 32 → h < 64 → h ≤ k.nh → s.kvWaits t = false → s.kvMissing k t key = none →
        (s.indexLeased s.grp.id.l t = true → t.find key = none → s.word? t.hdie k.free = some 0 →
          Raises (.kvapp g d a b) s (excKvFull key (s.active g))) ∧
        (∀ slot ps, s.indexLeased s.grp.id.l t = true → t.find key = some slot → s.kvRow t slot 4 key (s.active g) = .ok ps →
          s.kvBlock k t key (s.active g) = .ok (leNat (s.readLocs ps), s)) ∧
        ∀ blk v accs, s.kvBlock k t key (s.active g) = .ok (blk, v) →
          s.tokenAccs (s.tokenBytes k blk h (x.toNat % 2 ^ 32 % 16) d b) = .ok accs →
          s.inj[s.grp.place.part.cu.die.toFin].en = false →
          Completes (.kvapp g d a b) s fun u => KeepsRegs s u ∧ Started v (some .st) (.kvapp accs) u) ∧
      (d.toNat + 2 * k.nk ≤ 32 → h < 64 → h ≤ k.nh → s.kvWaits t = true → Waits (.kvapp g d a b) s) ∧
      (s.kvWaits t = true → Waits (.kvappDrop g a b) s) ∧
      (s.kvWaits t = false → s.indexLeased s.grp.id.l t = true → s.kvMissing k t x = none →
        (t.find x = none → Completes (.kvappDrop g a b) s fun u => KeepsRegs s u ∧ Started s (some .st) .results u) ∧
        ∀ slot ps w, t.find x = some slot → s.kvRow t slot t.rowBytes x (s.active g) = .ok ps → s.dropKey k t slot x ps = some w →
          Completes (.kvappDrop g a b) s fun u => KeepsRegs s u ∧ Started w (some .st) .results u ∧
            ∃ v, s.tableOf s.grp.job k.table s.grp.id.l = some t ∧ u.tableOf s.grp.job k.table s.grp.id.l = some v ∧
              v.find x = none ∧ ∀ y, y ≠ x → v.find y = t.find y) ∧
      (let y := (s.readS (b + 1)).toNat
       let head := y / 2 ^ 32 % 64
       let dest := y / 2 ^ 40 % 2 ^ 23
       let names := if k.dh = 128 then [d, d + 1] else [d]
       let sigma := BitVec.ofNat 32 y
       let z : Query := {
         crec := r, seq := x.extractLsb' 32 32, n := x.toNat % 2 ^ 32, h := head, sigma := sigma, q := names.map s.readV,
         dest := dest, l := s.grp.id.l, blk := s.grp.id.blk, die := s.grp.place.part.cu.die }
       (k.dh = 128 → d.toNat ≤ 30) → y / 2 ^ 38 % 4 = 0 → y < 2 ^ 63 → head ≤ k.nh →
        (dest % 16 ≠ 0 ∨ s.grp.limit 1 < dest + 8 * k.rs →
          Raises (.qpost g c d a b) s { code := 7, addr := BitVec.ofNat 64 dest, mask := 0, info := 0 }) ∧
        (dest % 16 = 0 → dest + 8 * k.rs ≤ s.grp.limit 1 →
          (c ≠ 31 → s.namedBar s.grp.id.blk c.toNat = none → Raises (.qpost g c d a b) s (excBarrier c.toNat)) ∧
          ((c = 31 ∨ s.namedBar s.grp.id.blk c.toNat ≠ none) → roomFor s .cp .reed none →
            Completes (.qpost g c d a b) s fun u => KeepsRegs s u ∧ Started s (some .cp) (.query z) u))) ∧
      ∀ v, s.loadBlocks k (x.extractLsb' 32 32) (x.setWidth 32) (n1.toNat + 1) = .ok v →
        Completes (.btld g n1 a b) s fun u => u = v ∧ u = { s with btc := u.btc } ∧ ∀ e ∈ u.btc, e ∈ s.btc ∨
          (e.die = s.grp.place.part.cu.die ∧ e.job = s.grp.job ∧ e.table = k.table ∧
            ∃ j, j ≤ n1.toNat ∧ e.key = x.extractLsb' 32 32 ++ (x.setWidth 32 + BitVec.ofNat 32 j))) ∧
    let o := (s.readS a).toNat
    let locs (n : Nat) : List Loc := (List.range n).map fun j => Loc.scr s.grp.id.l s.grp.id.blk (o + j)
    let status := leNat (((s.readNow (locs 16)).drop 8).take 4)
    let dh := if status / 256 % 2 = 1 then 128 else 64
    let bs := s.readNow (locs (16 + 4 * dh))
    let w (j : Nat) : BitVec 32 := BitVec.ofNat 32 (leNat ((bs.drop (4 * j)).take 4))
    let names := (List.range 6).map fun k => d + BitVec.ofNat 5 k
    (o % 16 ≠ 0 ∨ s.grp.limit 1 < o + 16 →
      Raises (.qget g q d a b) s { code := 7, addr := BitVec.ofNat 64 o, mask := 0, info := 0 }) ∧
    (o % 16 = 0 → o + 16 + 4 * dh ≤ s.grp.limit 1 → s.busyLocs (locs (16 + 4 * dh)) = false →
      (∀ p ∈ locs (16 + 4 * dh), s.poisoned p = false) → s.grp.ld < 31 → s.grp.room names = .ok →
      Completes (.qget g q d a b) s fun u =>
        AwaitsK s (BitVec.allOnes 32) names q.toNat { u with grp := { u.grp with s := s.grp.s } } ∧ u.mem = s.mem ∧
        u.grp.isPending .scalar b.toNat = true ∧ (∀ r : Reg, r ≠ b → u.grp.s[r.toFin] = s.grp.s[r.toFin]) ∧
        ∃ p ∈ u.ops, p.id = s.nextId ∧ p.kind = .results ∧ p.results.map RegWrite.name =
            names.map BitVec.toNat ++ [b.toNat] ++ (if q = 0 then [] else [q.toNat]) ∧
          ∀ x ∈ (p.results.take 2).zipIdx, x.1.comps = [Lanes.splat (w x.2)])

/-- XMERGE writes, in each active lane, the maximum of the two maxima and the sums and accumulators weighted by the
powers of two of their distances from it, a NaN anywhere giving NaN throughout, two empty triples an empty one, and an
empty triple the other one bit for bit; with equal finite maxima the sums are the plain ones, as they are exact on
integers below 2^24; six names are written and nothing else. -/
def Obligations.AttentionMerge : Prop :=
  ∀ (g : PReg) (d a b : Reg) (s : State),
    let six (r : Reg) : List Reg := (List.range 6).map fun k => r + BitVec.ofNat 5 k
    s.writesV g [] (six d) → s.grp.tx = none →
    let row (r : Reg) (l : Nat) := (six r).map fun n => (s.readV n).get l
    (Completes (.xmerge g d a b) s fun t =>
      (∀ k l, k < 6 → l < 32 → t.grp.lane (d + BitVec.ofNat 5 k) 0 l =
        if (s.active g).getLsbD l then (mergeLane (row a l) (row b l)).getD k 0 else s.grp.lane (d + BitVec.ofNat 5 k) 0 l) ∧
      (∀ n, n ∉ six d → t.grp.vreg n = s.grp.vreg n) ∧ t.mem = s.mem ∧ t.grp.s = s.grp.s ∧ t.grp.k = s.grp.k ∧ t.ops = s.ops) ∧
    ∀ x y : List (BitVec 32), x.length = 6 → y.length = 6 →
      (mergeLane x y).length = 6 ∧ ((∃ w ∈ x ++ y, isNan32 w = true) → mergeLane x y = List.replicate 6 0x7FC00000) ∧
      ((∀ w ∈ x ++ y, isNan32 w = false) → x.getD 0 0 = 0xFF800000 → y.getD 0 0 = 0xFF800000 →
        mergeLane x y = 0xFF800000 :: List.replicate 5 0) ∧
      ((∀ w ∈ x ++ y, isNan32 w = false) → emptyTriple x = true → finite32 (y.getD 0 0) = true → mergeLane x y = y ∧ mergeLane y x = y) ∧
      ((∀ w ∈ x ++ y, isNan32 w = false) → ¬ (x.getD 0 0 = 0xFF800000 ∧ y.getD 0 0 = 0xFF800000) →
        (mergeLane x y).getD 0 0 = fmax32 (x.getD 0 0) (y.getD 0 0)) ∧
      ∀ (m : BitVec 32) (is js : List Int), finite32 m = true → is.length = 5 → js.length = 5 →
        (∀ p ∈ is.zip js, p.1.natAbs < 2 ^ 24 ∧ p.2.natAbs < 2 ^ 24 ∧ (p.1 + p.2).natAbs < 2 ^ 24) →
        mergeLane (m :: is.map intCode) (m :: js.map intCode) = m :: (is.zip js).map fun p => intCode (p.1 + p.2)

/-- BLOCK.RESOLVE resolves the next logical block of the oldest or a started query; STACK.QUERY adds one stack's
record once all blocks are resolved and the group's earlier appends are done; QUERY.COMPLETE writes parts of the eight
records and with the last completes as a copy does; PIN.RELEASE drops the pins of stacks that have answered;
PER.BANK.REFRESH changes no value. -/
def Obligations.QueryEvents : Prop :=
  (∀ (st : BitVec 3) (bank : BitVec 10) (s : State), Happens (.perBankRefresh st bank) s fun a u => u = a) ∧
  ∀ (i stack : Nat) (o : Op) (q : Query) (s : State), s.atEvent.op? i = some o → o.kind = .query q →
    let now (u : State) (f : Op → Prop) : Prop := ∃ p ∈ u.ops, p.id = i ∧ p.kind = o.kind ∧ f p
    let before := opsBefore s.atEvent.ops i
    (s.atEvent.mayPerform o = true → (o.started = true ∨ ∀ p ∈ before, p.cu = o.cu → p.kind.queue = .reed → p.started = true) →
      o.resolved.length < q.blocks → ∀ v r, s.atEvent.resolveOne o q o.resolved.length = .ok (v, some r) →
      Happens (.blockResolve i) s fun a u => KeepsMemory a u ∧ KeepsGroups a u ∧
        now u fun p => p.started = true ∧ p.resolved = o.resolved ++ [r]) ∧
    (s.atEvent.mayPerform o = true → o.started = true → q.blocks ≤ o.resolved.length → stack < 8 → stack ∉ o.records →
      (∀ p ∈ before, p.gid = o.gid → ∀ accs, p.kind ≠ .kvapp accs) →
      Happens (.stackQuery i stack) s fun a u => KeepsMemory a u ∧ KeepsGroups a u ∧
        now u fun p => p.records = o.records ++ [stack] ∧
          p.buf = o.buf ++ [{ i := stack, bytes := a.stackRecord o q stack, fate := .ok }]) ∧
    (Happens (.pinRelease i) s fun a u => KeepsGroups a u ∧ u.hostMem = a.hostMem ∧ now u fun p =>
      ∀ r ∈ o.resolved, ∀ b, r.block = some b → stackOf b.2 ∈ o.records → r.lb ∈ p.parts) ∧
    ((∀ n, n < 8 → n ∈ o.records) → o.ctr = some .cp → plainBar s.atEvent o → o.spoilt = [] → s.atEvent.sourceLost o = false → s.memWf →
      (∀ r ∈ o.resolved, r.lb < q.blocks) →
      let recs := (List.range 8).flatMap fun j => match o.buf.find? (·.i == j) with | some d => d.bytes | none => []
      s.atEvent.engineMay o true (scratchPlaces o.gid.l q.blk q.dest recs.length) = true →
      ∀ x, s.atEvent.block? o.gid.l q.blk = some x → Happens (.queryComplete i) s fun a u =>
        WritesImage a u o q.blocks q.blk q.dest recs (Settles a u o o.cst))

/-- LAUNCH, once the group's accesses are performed, writes the status of the record it reads (3 too for a protected
job without a TDI in RUN) and, at status 0, places it: parked while it has predecessors, else at the tail of its
queue. CANCEL writes its status and cancels the level. CNTRD writes the counter word; CNTWT completes so once it is
terminal or its count is reached, and waits until then. Inside a transaction all but CNTRD raise transaction misuse.
-/
def Obligations.WorkInstructions : Prop :=
  ∀ (lvl : Level) (d a b : Reg) (s : State), s.issues →
    let id : BitVec 32 := (s.readS a).setWidth 32
    let w := s.readCounter lvl s.grp.job id
    let gives (i : Instr) : Prop := Completes i s fun t => ∃ u, WroteS s d w 2 u ∧
      t = { u with l1 := t.l1, dirty := t.dirty, grp := { u.grp with seen := t.grp.seen } } ∧
      (wordState w ≠ 3 → t.l1 = s.l1 ∧ t.dirty = s.dirty ∧ t.grp.seen = s.grp.seen) ∧
      (wordState w = 3 → t.grp.seen = max s.grp.seen s.fresh ∧
        ∀ y, y ∈ t.l1 ↔ y ∈ s.l1 ∧ (y.cu ≠ s.grp.place.part.cu ∨ y.const ≠ none))
    (s.grp.tx.isSome → ∀ i ∈ [Instr.launch d a b, .cancel lvl d a, .cntwt lvl d a b], Raises i s excTx) ∧
    (s.grp.settledS d → gives (.cntrd lvl d a)) ∧
    (s.grp.tx = none →
      (s.grp.settledS d → terminal (wordState w) = true ∨ (s.readS b).toNat % 2 ^ 48 ≤ wordDone w → gives (.cntwt lvl d a b)) ∧
      (terminal (wordState w) = false → wordDone w < (s.readS b).toNat % 2 ^ 48 → Waits (.cntwt lvl d a b) s) ∧
      (s.grp.settledS d → ∃ u, WroteS s d (BitVec.ofNat 64 (s.cancelStatus lvl s.grp.job id)) 2 u ∧
        exec (.cancel lvl d a) s = .next ((u.goesOn s.latch.next).cancelLevel lvl s.grp.job id)) ∧
      (segOf (s.readS a) = 7 → Raises (.launch d a b) s
        { code := 7, addr := BitVec.ofNat 64 ((s.readS a).toNat % 2 ^ 52), mask := 0, info := 0 }) ∧
      ∀ accs, s.checkRecord (s.readS a) 256 = .ok accs →
        (s.quiet = false → Waits (.launch d a b) s) ∧
        (s.quiet = true → s.grp.settledS d →
          let r := LaunchRec.ofBytes (s.readNow (accs.flatMap Acc.locs))
          let q := (s.readS b).toNat % 256
          let st := match s.placeStatus (some s.grp.job) q r with
            | 0 => if s.placementAllowed s.grp.job then 0 else 3
            | n => n
          Completes (.launch d a b) s fun t => ∃ u, WroteS s d (BitVec.ofNat 64 st) 2 u ∧ t.mem = s.mem ∧ t.grp = u.grp ∧
            (st ≠ 0 → t = { u with dirty := t.dirty }) ∧
            (st = 0 → ∃ l, t.launches = s.launches ++ [l] ∧ l.lrec = r ∧ l.queue = q ∧ l.final = none ∧
              l.state = (if r.preds = 0 then 1 else 0) ∧ (t.queue q).places = (s.queue q).places ++ [l.uid] ∧
              (t.queue q).order = (s.queue q).order ++ if r.preds = 0 then [l.uid] else [])))

/-- With a lane active, legal operands and a queue place, TSEND and TRECV start a transfer of their bytes, ARED its
instance of the collective, once the group's accesses and link operations are done, on cp (ARED is also a release at
.FAB); RATOM starts its lanes' updates on ld with its destination awaiting them; the engines then send what can leave.
A reserved operand bit raises illegal encoding whatever the active set, an unconfigured barrier barrier misuse; with
no lane active the single-issue ones do nothing. -/
def Obligations.LinkInstructions : Prop :=
  ∀ (g : PReg) (c : BitVec 5) (w64 : Bool) (op : AtomOp) (d a b : Reg) (s : State), s.issues →
    let act := s.active g
    let ra := s.readS (a + 1)
    let y := s.readS b
    let z := s.readS (b + 1)
    let sig := y.getLsbD 21
    let n := 16 * (y.toNat / 2 ^ 24 % 2 ^ 24)
    let word := if sig then some (z.toNat % 2 ^ 52) else none
    let legal := ra.toNat < 2 ^ 52 ∧ y.toNat / 2 ^ 22 % 4 = 0 ∧ y.toNat < 2 ^ 48 ∧ (sig = true → z.toNat % 8 = 0)
    let fold : BitVec 3 := y.setWidth 3
    let count : BitVec 24 := y.extractLsb' 8 24
    let folds := fold.toNat ≤ 4 ∧ y.toNat / 8 % 32 = 0 ∧ count ≠ 0
    (¬ legal → Raises (.tsend g c a b) s excIllegal ∧ Raises (.trecv g c a b) s excIllegal) ∧
    (¬ folds → Raises (.ared g c a b) s excIllegal) ∧
    (act = 0 → (legal → ∀ i ∈ [Instr.tsend g c a b, .trecv g c a b], Completes i s fun t => t = s) ∧
      (folds → Completes (.ared g c a b) s fun t => t = s)) ∧
    (act ≠ 0 → s.grp.tx.isSome → (legal → Raises (.tsend g c a b) s excTx ∧ Raises (.trecv g c a b) s excTx) ∧
        (folds → Raises (.ared g c a b) s excTx)) ∧
    (act ≠ 0 → s.grp.tx = none → legal → ∀ i ∈ [(Instr.tsend g c a b, true), (.trecv g c a b, false)],
      ∀ buf, s.localBuf (s.readS a) (if i.2 then [0, 1, 4] else [0, 1]) n = .ok buf →
        (∀ e, s.linkBar c = .error e → Raises i.1 s (excBarrier e)) ∧
        ∀ bar, s.linkBar c = .ok bar → roomFor s .cp .link none → Completes i.1 s fun t => ∃ u, t = u.pumpLinks ∧ KeepsRegs s u ∧
          Started s (some .cp) (if i.2 then .send buf (ra.toNat / 16 * 16) (y.setWidth 21) n word
            else .recv buf (ra.toNat / 16 * 16) (y.setWidth 21) n word) u) ∧
    (act ≠ 0 → s.grp.tx = none → folds → ∀ buf, s.localBuf (s.readS a) [0, 1] (aredBytes fold count.toNat) = .ok buf →
      segCheck s.grp (segOf ra) (baseHigh ra) [0, 4] 4 [{ lane := 0, off := ra.toNat % 2 ^ 52 }] = none →
      ∀ bar, s.linkBar c = .ok bar →
        (s.quiet = false ∨ s.linksBusy = true → Waits (.ared g c a b) s) ∧
        (s.quiet = true → s.linksBusy = false → roomFor s .cp .link none → Completes (.ared g c a b) s fun t =>
          ∃ u k, t = u.pumpLinks ∧ KeepsRegs s u ∧
            Started s (some .cp) (.ared buf (s.grp.segBase (segOf ra) + ra.toNat % 2 ^ 52)
              (s.grp.segBase (segOf ra) + s.grp.limit (segOf ra)) none fold count (y.extractLsb' 32 32) k) u)) ∧
    (2 ^ 21 ≤ z.toNat → Raises (.ratom g w64 op d a b) s excIllegal) ∧
    (z.toNat < 2 ^ 21 →
      let names := if w64 then [d, d + 1] else [d]
      let width := if w64 then 8 else 4
      let xs : List LaneOff := (lanesOf act).map fun l => { lane := l, off := y.toNat % 2 ^ 52 + ((s.readV a).get l).toNat }
      let lanes : List AtomLane := xs.map fun x =>
        { lane := x.lane, off := x.off, locs := [], x := s.laneWord w64 d x.lane, cmp := 0 }
      (s.grp.tx.isSome → Raises (.ratom g w64 op d a b) s excTx) ∧
      (s.grp.tx = none → (∀ e, alignCheck width xs = some e → Raises (.ratom g w64 op d a b) s e) ∧
        (alignCheck width xs = none → s.grp.ld < 31 →
          (act = 0 ∨ (s.grp.room names = .ok ∧ s.queueFull s.grp.place.part.cu .link = false)) →
          Completes (.ratom g w64 op d a b) s fun t => ∃ u o, t = u.pumpLinks ∧ Awaits s [] act names u ∧ u.ops = s.ops ++ [o] ∧
            o.id = s.nextId ∧ o.kind = .ratom op w64 d.toNat (z.setWidth 21) lanes ∧ u.grp.ld = s.grp.ld + 1)))

/-- A record that R186 refuses changes nothing, an accepted one takes a place of its queue, queued or parked. CNTNEW
makes a counter. LEASE.SETUP of the queue's head, done by hardware, makes the launch ready with its leases, segments,
queue records and runs, or fails it with 5 and cause 2 when its lease list, segment table or queue record is bad or a
run does not fit (what stands in a stack that is not ready is waited for: log entry 24, DEDUCED). An ended group's
registers return; a block completes and leaves; a launch completes with STATE 3, or records how it was stopped, keeps
no block or group, and raises its queue's vector. -/
def Obligations.LaunchEvents : Prop :=
  (∀ (q : BitVec 8) (image : List (BitVec 8)) (s : State),
    let r := LaunchRec.ofBytes image
    let ok : Prop := s.atEvent.placeStatus none q.toNat r = 0 ∧ s.atEvent.placementAllowed r.jobId = true
    (¬ ok → Happens (.placeLaunchRecord q image) s fun a u => u = a) ∧
    (ok → Happens (.placeLaunchRecord q image) s fun a u => KeepsMemory a u ∧ KeepsGroups a u ∧
      ∃ x, u.launches = a.launches ++ [x] ∧ x.lrec = r ∧ x.queue = q.toNat ∧ x.preds = r.preds ∧ x.done = 0 ∧
        x.state = (if r.preds = 0 then 1 else 0) ∧ (u.queue q.toNat).places = (a.queue q.toNat).places ++ [x.uid] ∧
        (u.queue q.toNat).order = (a.queue q.toNat).order ++ if r.preds = 0 then [x.uid] else [])) ∧
  (∀ (lvl : Level) (id job : BitVec 32) (n : BitVec 48) (s : State), lvl ≠ .launch → Happens (.cntnew lvl id job n) s fun a u =>
    u.readCounter lvl job id = counterWord (if lvl = .job then 2 else if n = 0 then 3 else 0) 0 0 ∧
    ∀ lvl' id' job', (lvl', id', job') ≠ (lvl, id, job) → u.readCounter lvl' job' id' = a.readCounter lvl' job' id') ∧
  (∀ (l : Nat) (x : Launch) (s : State), s.atEvent.launch? l = some x →
    let r := x.lrec
    (x.state = 1 → x.ready = false → x.final = none → (s.queue x.queue).order.head? = some l → s.asleep = false →
      s.placementAllowed r.jobId = true → s.modeSplit.getLsbD taskLease = true → s.request? taskLease [l] = none →
      ∀ j, s.atEvent.job? r.jobId = some j →
      s.atEvent.sysWaits j.id r.leasel.toNat (16 * r.nlease) = false → s.atEvent.sysWaits j.id r.segt.toNat 128 = false →
      let list := (s.atEvent.sysBytes j.id r.leasel.toNat (16 * r.nlease)).bind fun bs => leaseList bs r.nlease
      let fails : Prop := Happens (.leaseSetup l) s fun _ u => ∃ y, u.launch? l = some y ∧ y.final = some (5, 2)
      (list = none → fails) ∧
      ∀ leases, list = some leases → (∀ q ∈ hostPages leases, q ∈ x.hosted ∨ (j.pasid, q) ∈ s.atEvent.atc) →
        (∀ z ∈ leases, z.host = false → ∀ va ∈ z.pages, s.atEvent.residency j.id va = .ok) →
        let w := s.atEvent.updLaunch l fun x => { x with leases := leases }
        let segs := (w.sysBytes j.id r.segt.toNat 128).bind (segTable r)
        (segs = none → fails) ∧
        ∀ seg, segs = some seg →
          let sg5 := seg.getD 5 { base := 0, limit := 0 }
          (sg5.limit ≠ 0 → w.sysWaits j.id sg5.base.toNat 64 = false) →
          (j.tdir ≠ 0 → w.sysWaits j.id j.tdir.toNat (2 ^ 22) = false) →
          let queues := if sg5.limit = 0 then some []
            else (w.sysBytes j.id sg5.base.toNat 64).bind fun bs => queueRecord r bs sg5.limit.toNat
          (queues = none → fails) ∧
          ∀ qcfg, queues = some qcfg → ((w.bindTables j l).runBases r l = none → fails) ∧
            ∀ fs, (w.bindTables j l).runBases r l = some fs → Happens (.leaseSetup l) s fun _ u =>
              ∃ y, u.launch? l = some y ∧ y.lrec = r ∧ y.state = 1 ∧ y.ready = true ∧ y.pins = true ∧ y.leases = leases ∧
                y.seg = seg ∧ y.qcfg = qcfg ∧ y.detF = fs ∧ y.priv = j.priv ∧ y.prot = j.prot) ∧
    (x.state = 2 → x.final = none → x.done = x.blocksTotal → (∀ b ∈ s.blocks, b.l = l → b.complete = true ∧ b.detBuf = []) →
      s.launchBusy l = false → Happens (.launchComplete l) s fun _ u => HostOut.msix x.queue ∈ u.out ∧
        (∀ b ∈ u.blocks, b.l ≠ l) ∧ (∀ g ∈ u.groups, g.id.l ≠ l) ∧
        ∃ y, u.launch? l = some y ∧ y.state = 3 ∧ y.cause = 0 ∧ y.done = x.done ∧ y.pins = false) ∧
    ∀ st cause, x.final = some (st, cause) → 3 ≤ st → s.stopBusy l = false →
      (cause = 3 → s.jobClearing r.jobId = false) → Happens (.cancelComplete l) s fun _ u => HostOut.msix x.queue ∈ u.out ∧
        (∀ b ∈ u.blocks, b.l ≠ l) ∧ (∀ g ∈ u.groups, g.id.l ≠ l) ∧
        (∀ o ∈ u.ops, o.gid.l ≠ l) ∧ ∃ y, u.launch? l = some y ∧ y.state = st ∧ y.cause = cause ∧ y.pins = false) ∧
  ∀ (l blk grp : Nat) (b : Block) (s : State), s.block? l blk = some b →
    (∀ g, s.atEvent.groups.find? (·.id == { l := l, blk := blk, g := grp }) = some g → g.ended = true →
      g.ld + g.st + g.cp + g.mx = 0 → Happens (.registersReturn l blk grp) s fun a u => KeepsMemory a u ∧
        u.block? l blk = some { b with returned := b.returned ||| 1#32 <<< grp }) ∧
    (b.complete = false → b.saved = false → b.stopped = false → b.endedGroups &&& groupBits b.ngrp = groupBits b.ngrp →
      b.returned &&& groupBits b.ngrp = groupBits b.ngrp → (∀ o ∈ s.ops, o.gid.l = l → o.gid.blk = blk → o.ctr = none) →
      Happens (.blockComplete l blk) s fun a u => u.mem = a.mem ∧ (b.detBuf = [] → u.block? l blk = none) ∧
        (∀ g ∈ u.groups, b.owns g = false) ∧
        ∀ x, a.launch? l = some x → u.launch? l = some { x with done := x.done + 1 })

/-- A table operation is performed with its lanes' results. A hardware rebalancer changes the table as R221 and R222
say; in host mode the host is asked. Dispatch, where the hardware selects, makes the selected blocks resident with
fresh groups, or, with its first block, refuses a launch whose pages differ from a followed replay log's digests; the
area's records stand in ascending group index (DESIGN CHOICE, log entry 26); pre-emption stops the most recent block
of the lowest level; a saved block's entries and area are written and it leaves its CU; a restored one is placed
again, as it was where its area still holds what was saved (DESIGN CHOICE, log entry 26). A written-back entry comes
back; a run of a fragment that cannot issue ends; a group that hangs at a barrier takes cause 25. -/
def Obligations.SchedulerEvents : Prop :=
  (∀ (i : Nat) (o : Op) (s : State), s.atEvent.mayGo i o → o.performed = false →
    let done (rs : List RegWrite) (u : State) : Prop := ∃ p ∈ u.ops, p.id = i ∧ p.performed = true ∧ p.results = rs
    (∀ p d desc lanes v rs, o.kind = .point p d desc lanes → s.atEvent.pointLanes false o.gid o.job p desc lanes = (v, rs) →
      (∀ r ∈ rs, ∃ ps, r.reach = .ok ps) →
      Happens (.tableOperation i) s fun _ u => u.mem = v.mem ∧ u.tables = v.tables ∧ done (pointResults p d desc rs) u) ∧
    (∀ cur n d desc lanes v rs, o.kind = .tnext cur n d desc lanes →
      s.atEvent.scanLanes o.gid o.job cur n desc lanes = .ok (v, rs) → Happens (.tableOperation i) s fun a u =>
        u.mem = a.mem ∧ u.tables = a.tables ∧ done (scanResults n d desc rs) u) ∧
    ∀ sel d num t, o.kind = .tstat sel d num → s.atEvent.tableOf o.job num o.gid.l = some t →
      Happens (.tableOperation i) s fun a u => u.mem = a.mem ∧ u.tables = a.tables ∧
        done [{ cls := .scalar, name := d, mask := 0, comps := [], word := BitVec.ofNat 64 (a.tableStat t sel) }] u) ∧
  (∀ (job : BitVec 32) (num : BitVec 16) (what : RebalanceStep) (t : Table) (s : State),
    s.tables.find? (fun t => t.job == job && t.num == num) = some t →
    let v := t.rebalance what
    let hw : Prop := t.rbhw = true ∧ s.modeSplit.getLsbD taskRebal = true
    (hw → Happens (.rebalance job num what) s fun a u => KeepsGroups a u ∧ ∃ x ∈ u.tables, x.job = job ∧ x.num = num ∧
      x.rows = t.rows ∧ x.gens = t.gens ∧ x.leaves = v.leaves ∧ x.inner = v.inner ∧ x.buckets = v.buckets) ∧
    (¬ hw → v ≠ t → s.request? taskRebal (num.toNat :: RebalanceStep.args what) = none →
      Happens (.rebalance job num what) s fun a u => KeepsMemory a u ∧ u.tables = a.tables ∧
        ∃ r, u.hostReqs = a.hostReqs ++ [r] ∧ r.task = taskRebal ∧ r.job = job)) ∧
  (∀ (q : Nat) (x : Launch) (ps : List Placed) (s : State), s.atEvent.hostPicks = false →
    s.atEvent.selected = some (q, x) → x.ready = true → s.savedBlocks x.uid = [] → s.placementAllowed x.lrec.jobId = true →
    s.atEvent.fitNext x = some ps →
    let refused : Prop := x.state = 1 ∧ ∃ ds, followed x.lrec.jobId x.lrec.launchId s.follow = some ds ∧ s.atEvent.digestDiffers ds = true
    (refused → x.final = none → Happens (.dispatchBlock none) s fun a u => KeepsMemory a u ∧
      u.blocks.map (fun b => (b.l, b.idx, b.cu)) = a.blocks.map (fun b => (b.l, b.idx, b.cu)) ∧
      ∃ y, u.launch? x.uid = some y ∧ y.final = some (5, 2)) ∧
    (¬ refused → Happens (.dispatchBlock none) s fun a u => (∀ g ∈ a.groups, g ∈ u.groups) ∧
      (u.queue q).pass = (a.queue q).pass + BitVec.ofNat 48 (2 ^ 24 / max 1 (a.queue q).tickets.toNat) ∧
      ∀ p ∈ x.nextChunks.flatten.zip ps,
        (∃ b ∈ u.blocks, b.l = x.uid ∧ b.idx = p.1 ∧ b.cu = some p.2.1 ∧ b.scratch = [] ∧ b.slots = x.lrec.slots) ∧
        ∀ g, g < x.lrec.ngrp → ∃ h ∈ u.groups, h.id = { l := x.uid, blk := p.1, g := g } ∧ h.quota = x.lrec.regs ∧
          h.held = 0 ∧ h.role = x.lrec.roles.getD g 0 ∧ h.place = placeOf p.2.1 g (p.2.2.getD g 0) ∧
          h.frags.map (fun f => (f.pc, f.em, f.fmt)) = [(x.lrec.kaddr.setWidth 52 + 4, x.lrec.em, x.lrec.fmt)])) ∧
  (∀ (q : Nat) (x : Launch) (s : State), s.atEvent.selected = some (q, x) → (s.queue q).pq = true → x.ready = true →
    (s.savedBlocks x.uid = [] → s.atEvent.fitNext x = none) → (s.savedBlocks x.uid ≠ [] → s.atEvent.fitSaved x = none) →
    (∀ b ∈ s.blocks, b.stopping = true → b.stopped = true ∨ b.saved = true) →
    let a := s.atEvent
    let level (y : Launch) : Nat := (s.queue y.queue).level.toNat
    let cand (b : Block) (y : Launch) : Prop := b ∈ s.blocks ∧ s.launch? b.l = some y ∧ b.cu.isSome = true ∧ b.complete = false ∧
      b.stopping = false ∧ y.final = none ∧ level y < (s.queue q).level.toNat ∧ ∀ c ∈ s.unitOf y b.idx, a.blockHeld c = false
    ∀ b y, cand b y →
      (∀ c z, cand c z → (c = b ∧ z = y) ∨ level y < level z ∨ (level y = level z ∧ c.order < b.order)) →
      Happens .preemption s fun a u => KeepsTraced a u ∧
        (∀ c ∈ s.unitOf y b.idx, ∃ d ∈ u.blocks, d.l = c.l ∧ d.idx = c.idx ∧ d.stopping = true) ∧
        u.groups = a.groups.map fun g => if (s.unitOf y b.idx).any (fun c => c.owns g) then g.doom 3 else g) ∧
  (∀ (l blk : Nat) (x : Launch) (b : Block) (s : State), s.launch? l = some x →
    (s.block? l blk = some b → x.queue < 256 → b.stopping = true → b.stopped = false → b.saved = false → b.complete = false →
      (∀ o ∈ s.ops, o.deferred = none → o.hold = true ∨ o.plainStr = false → ∀ y ∈ s.unitOf x blk, ¬ (o.gid.l = y.l ∧ o.gid.blk = y.idx)) →
      Happens (.contextSave l blk) s fun a u => KeepsGroups a u ∧ l ∈ (u.queue x.queue).order ∧
        (∃ c, u.block? l blk = some c ∧ c.saved = true ∧ c.stopping = false ∧ c.cu = none ∧ c.scratch = b.scratch ∧ c.acc = b.acc) ∧
        let r := ((a.groupsOf b).map Group.id).foldl (fun (r : State) j => r.releaseL2 j false) a
        let w : State := { r with groups := a.groups.map fun g => if b.owns g then g.writeBackAll else g }
        let v := (w.groups.filter fun g => b.owns g).foldl State.putEntries w
        let bs := b.saveBytes x.lrec (v.groupsOf b) fun j => (a.ops.filter fun o => o.gid == j).flatMap Op.deferredWords
        u.mem = (v.areaWrite x.lrec.jobId (bs.length / 16) (x.lrec.saveAt b.area) bs).mem) ∧
    ∀ q p, s.atEvent.selected = some (q, x) → s.unitOf x blk = [b] → b.saved = true →
      ((s.savedBlocks l).map Block.idx).min? = some blk → s.atEvent.fitSaved x = some [(b, p)] →
      (let bs := s.atEvent.saveBytesOf x b
       s.atEvent.areaRead x.lrec.jobId (bs.length / 16) (x.lrec.saveAt b.area) bs = bs) →
      Happens (.contextRestore l blk) s fun a u => KeepsTraced a u ∧
        { b with saved := false, stopping := false, cu := some p.1, order := a.nextOrder } ∈ u.blocks ∧
        ∀ g ∈ a.groups, ∃ h ∈ u.groups, h.id = g.id ∧ h.v = g.v ∧ h.s = g.s ∧ h.k = g.k ∧ h.frags.map Frag.pc = g.frags.map Frag.pc ∧
          h.place = if b.owns g then placeOf p.1 g.id.g (p.2.getD g.id.g 0) else g.place) ∧
  (∀ (i : GroupId) (entry e : Nat) (g : Group) (f : Frag) (b : Block) (s : State), s.atEvent.groups.find? (·.id == i) = some g →
    g.frags.head? = some f → s.block? i.l i.blk = some b → b.cu.isSome = true → 64 < entry →
    ((∃ x ∈ g.frags, x.entry = entry ∧ x.written = true) ∨ ∃ x ∈ g.splits, x.entry = entry ∧ x.written = true) →
    ((s.atEvent.focusOn i f.entry).makeRoom 1 64).tableFree.head? = some e →
    Happens (.splitEntryReload i.l i.blk i.g entry) s fun a u => u.hostMem = a.hostMem ∧
      u.blocks.map Block.scratch = a.blocks.map Block.scratch ∧ ∃ h ∈ u.groups, h.id = i ∧ h.v = g.v ∧ h.s = g.s ∧
      ((∃ x ∈ h.frags, x.entry = e ∧ x.written = false) ∨ ∃ x ∈ h.splits, x.entry = e ∧ x.written = false)) ∧
  (∀ s : State, Happens .issueRunEnd s fun a u => KeepsMemory a u ∧ KeepsGroups a u ∧ ∀ g ∈ a.groups, ∀ f ∈ g.frags,
    ∃ h ∈ u.groups, h.id = g.id ∧ ∃ x ∈ h.frags, x.entry = f.entry ∧ x.pc = f.pc ∧ x.em = f.em ∧
      (x.run, x.rot) = if f.run = 0 ∨ (a.groupIssues g = true ∧ f.issues = true) then (f.run, f.rot) else (0, a.nextRot)) ∧
  ∀ (bar : BarRef) (g : Group) (f : Frag) (w : Wait) (s : State),
    let a := s.atEvent
    (∀ h ∈ a.groups, BarRef.covers bar h = true → h.ended = false → a.haltedGroup h.id = false ∧
      (∃ b, a.block? h.id.l h.id.blk = some b ∧ b.runs = true) ∧
      ∀ x ∈ h.frags, a.wtCode h x ≠ some (BarRef.code bar)) →
    a.groups.filter (fun h => BarRef.covers bar h && !h.ended && h.waitsOn bar) = [g] →
    a.groups.find? (·.id == g.id) = some g → g.frags = [f] → f.written = false → g.splits = [] →
    g.wait = some w → g.tmode = false →
    (a.focusOn g.id f.entry).checkVector = .ok →
    Happens (.barrierHang bar) s fun a u => KeepsMemory a u ∧ ∃ h ∈ u.groups, h.id = g.id ∧ h.tmode = true ∧ h.waitr = true ∧
      h.waitRec = some w ∧ h.tepc = w.addr ∧ h.tcause = BitVec.ofNat 64 (BarRef.code bar * 256 + 25) ∧ h.v = g.v ∧ h.s = g.s

/-- A flit that arrives is taken: its port is up, and where the port's inward stream has been given keys, that stream is secure and the flit
authentic under the key that it names (R371, R372, R390). -/
def Takes (s : State) (f : FlitIn) : Prop :=
  s.portUp f.port.toNat = true ∧ ∀ x, s.inward f.port = some x → x.insecure = false ∧ f.authentic = true

/-- A flit that arrives answers part `part` of operation `op`, which left as `z`: it is taken, and it comes under the key index of the
request (R372). -/
def Answers (s : State) (f : FlitIn) (op part : Nat) (z : Flit) : Prop :=
  Takes s f ∧ s.flightOf f ⟨op, part⟩ = some z ∧ (s.inward f.port ≠ none → f.key = z.key)

/-- A transfer whose parts are acknowledged completes; one within the device performs one or all of the parts left and
completes with the last, as an ARED does whose instance has formed, with its result if the contributions agree; an
ARED whose list is bad, whose time is up or whose route is gone completes with CST.RANGE. Requests of other devices
are acknowledged, performed in stream order and answered by flits of the port they came on; early ones are answered
busy, unauthentic ones make the stream insecure. Answers, acknowledgements, busy answers, retries, training, timeouts
and Bridle replays change the operations and ports they name. How many parts an event performs and the payloads of
answers are the model's choice (log entry 45, DEDUCED; log entry 54, DESIGN CHOICE). -/
def Obligations.LinkEvents : Prop :=
  (∀ (i : Nat) (o : Op) (s : State), o.ctr = some .cp → o.bar = none →
    let w := s.atEvent.pumpLinks
    let range := PartEnd.cst .range
    let now (u : State) (f : Op → Prop) : Prop := ∃ p ∈ u.ops, p.id = i ∧ f p
    let ended (a u : State) (c : BitVec 4) : Prop := (∀ p ∈ u.ops, p.id ≠ i) ∧ ∀ g ∈ a.groups, g.id = o.gid →
      ∃ h ∈ u.groups, h.id = g.id ∧ h.cp = g.cp - 1 ∧ h.cst &&& c = c
    let may (b : LocalBuf) (wr : Bool) (ps : List Nat) : Prop := w.engineMay o wr (w.bufLocs o b ps) = true ∧
      w.walkMissing o.cu.die none o.job (b.vas ps) = none
    (w.op? i = some o → (∀ b far dev n sig, o.kind = .send b far dev n sig ∨ o.kind = .recv b far dev n sig → o.started = true →
        (dev ≠ w.devId → o.partsDone w.devId = true → (sig = none ∨ signalPart ∈ o.parts) →
          Happens (.linkSendComplete i) s fun _ u => ended w u o.cst) ∧
        (dev = w.devId → sig = none →
          let send := o.kind == .send b far dev n sig
          let left := o.unread b
          let ps := w.nextPieces left left
          may b (!send) ps → ∀ v ds c, w.ownParts o send b far ps = some (v, ds, c) → Happens (.linkSendComplete i) s fun _ u =>
            (send = true → u.mem = v.mem) ∧ (ps = left ∨ ∃ j ∈ left, ps = [j]) ∧
            (ps.length < left.length → now u fun p => p.buf = o.buf ++ ds ∧ p.cst = o.cst ||| c) ∧
            (ps.length = left.length → ended w u (o.cst ||| c)))) ∧
      ∀ b lva lend list f count coll k, o.kind = .ared b lva lend list f count coll k →
        (o.performed = true → Happens (.aredComplete i) s fun _ u => ended w u range ∧ u.mem = w.mem) ∧
        ∀ ids cs, o.performed = false → list = some ids → w.instanceOf o.job coll k ids = some cs → o.partsDone w.devId = true →
          (agreed cs = false → Happens (.aredComplete i) s fun _ u => ended w u range ∧ u.mem = w.mem) ∧
          let left := b.parts.filter fun x => !o.parts.contains (resultPart x)
          let ps := w.nextPieces left left
          may b true ps → ∀ v c, agreed cs = true → o.clobbered = false →
            w.writeBuf o b (wordBytes (foldRanks f (cs.map fun c => wordsOf c.data (c.data.length / 4)))) ps = some (v, c) →
            Happens (.aredComplete i) s fun _ u => u.mem = v.mem ∧ (ps = left ∨ ∃ j ∈ left, ps = [j]) ∧
              (ps.length < left.length → now u fun p => p.parts = o.parts ++ ps.map resultPart) ∧
              (ps.length = left.length → ended w u (o.cst ||| c))) ∧
    (s.atEvent.op? i = some o →
      (∀ b lva lend list f count coll k, o.kind = .ared b lva lend list f count coll k →
        (list.bind (s.atEvent.instanceOf o.job coll k) = none → Happens (.aredTimeout i) s fun a u => ended a u range ∧ u.mem = a.mem)) ∧
      ∀ b far dev n sig, o.kind = .send b far dev n sig → dev ≠ s.devId → s.atEvent.route o.gid dev = none →
        Happens (.routeTimeout i) s fun a u => ended a u range ∧ u.mem = a.mem ∧ ∀ f ∈ u.flits, f.op ≠ some i)) ∧
  (∀ (i : Nat) (o : Op) (f : FlitIn) (z : Flit) (s : State),
    let now (u : State) (f : Op → Prop) : Prop := ∃ p ∈ u.ops, p.id = i ∧ f p
    let w := s.atEvent.pumpLinks
    (∀ g w64 d dev lanes, o.kind = .ratom g w64 d dev lanes → o.performed = false →
      (w.op? i = some o → dev = w.devId → o.started = true →
        let left := (lanes.filter fun x => !o.buf.any (·.i == x.lane)).map AtomLane.lane
        let next := lanes.filter fun x => (w.nextPieces left (left.take 1)).contains x.lane
        let r := w.ownLanes o g w64 next
        w.replayAllows (w.ownRecords o w64 next) = true → Happens (.linkSendComplete i) s fun _ u => u.mem = r.1.mem ∧
          (now u fun p => ∀ y ∈ r.2, p.performed = true ∨ ∃ x ∈ p.buf, x.i = y.1) ∧
          (o.buf = [] → (lanes.map AtomLane.lane).Nodup → lanes ≠ [] → next = lanes → now u fun p => p.performed = true ∧
            p.results = laneResults d w64 (r.2.map fun y => (y.1, y.2.getD 0)))) ∧
      ∀ lane answer, s.atEvent.op? i = some o → Answers s.atEvent f i (lanes.findIdx fun x => x.lane == lane) z →
        (∀ x ∈ o.buf, x.i ≠ lane) → (∃ x ∈ lanes, x.lane = lane) → Happens (.tetherAtomicResult f ⟨i, lane⟩ answer) s fun _ u =>
          ∃ x : State, u = x.pumpLinks ∧ now x fun p =>
            p.buf.length = o.buf.length + 1 ∧ (lanes.length ≤ o.buf.length + 1 → p.performed = true)) ∧
    ∀ b far dev n sig part bs, s.atEvent.op? i = some o → o.kind = .recv b far dev n sig → part ∈ o.unread b →
      s.atEvent.walkMissing o.cu.die none o.job (b.vas [part]) = none → Answers s.atEvent f i 0 z →
      let d : PartData := { i := part, bytes := bs.take 16 ++ List.replicate (16 - bs.length) 0, fate := .ok }
      ∀ v c, (s.atEvent.ackFlit f).writeLocal o b d = some (v, c) → Happens (.tetherReadData f ⟨i, part⟩ (.data bs)) s fun _ u =>
        ∃ x : State, u = x.pumpLinks ∧ x.mem = v.mem ∧ now x fun p => p.buf = o.buf ++ [d] ∧ p.cst = o.cst ||| c) ∧
  (∀ (h : ReqHeader) (s : State),
    let due := ((s.rxStreams.find? fun r => r.src == h.src && r.stream == h.stream).map RxStream.expect).getD 0
    let port := h.flit.port
    let sends (a u : State) (type : Nat) (bs : List Byte) : Prop := ∃ w : State, u = w.answerFlit h type bs ∧
      w.out = (a.ackFlit h.flit).out ∧ w.ports = a.ports
    let refuses (a u : State) : Prop := sends a u 6 [1] ∧ u.mem = a.mem ∧ u.hostMem = a.hostMem
    (∀ (type : Nat) (bs : List Byte), s.portKey port.toNat h.flit.key = none → ∃ flit, let t := s.answerFlit h type bs
      t.out = s.out ++ [.linkFlit port.toNat flit] ∧ t.ports[port.toFin].unacked.map Flit.bytes = s.ports[port.toFin].unacked.map Flit.bytes ++ [flit] ∧
      let load := leBytes 4 h.stream ++ leBytes 4 h.seq ++ bs
      flit.take 12 = leBytes 1 type ++ leBytes 1 (if h.flit.key then 1 else 0) ++ leBytes 3 h.src.toNat ++ leBytes 3 s.devId.toNat
        ++ leBytes 2 load.length ++ leBytes 2 s.ports[port.toFin].seq ∧ (flit.drop 12).take load.length = load) ∧
    (∀ bytes, (s.portUp port.toNat = false → Happens (.tetherWrite h bytes) s fun a u => u = a) ∧
      (∀ x, s.portUp port.toNat = true → s.inward port = some x → x.insecure = false → h.flit.authentic = false →
        Happens (.tetherWrite h bytes) s fun a u => u.rxStreams = a.rxStreams ∧ (∃ y ∈ u.streams, y.ref = x.ref ∧ y.insecure = true) ∧
          ((∀ t ∈ a.tdis, t.job ≠ x.job) → KeepsMemory a u))) ∧
    (Takes s.atEvent h.flit →
      (∀ bytes, (h.seq < due → Happens (.tetherWrite h bytes) s fun a u => u = a.ackFlit h.flit) ∧
        (due < h.seq → Happens (.tetherWrite h bytes) s fun a u => KeepsMemory a u ∧ sends a u 7 []) ∧
        (h.seq = due → s.memWf → bytes ≠ [] → h.va.toNat % 16 + bytes.length ≤ 16 →
          (s.remoteLocs h.job h.va.toNat bytes.length = none → Happens (.tetherWrite h bytes) s refuses) ∧
          ∀ ps, s.remoteLocs h.job h.va.toNat bytes.length = some ps → Happens (.tetherWrite h bytes) s fun a u =>
            u.readLocs ps = bytes ∧ sends a u 6 [0] ∧ ∀ y, Loc.dev y ∉ ps → readByte u.mem y = readByte a.mem y)) ∧
      (h.seq = due →
        (s.remoteLocs h.job (h.va.toNat / 16 * 16) 16 = none → Happens (.tetherReadRequest h 1) s fun a u =>
          KeepsMemory a u ∧ sends a u 3 (leBytes 4 0 ++ [2])) ∧
        ∀ ps, s.remoteLocs h.job (h.va.toNat / 16 * 16) 16 = some ps → Happens (.tetherReadRequest h 1) s fun a u =>
          KeepsMemory a u ∧ sends a u 3 (leBytes 4 0 ++ [if ps.any a.poisoned then 1 else 0] ++ a.readLocs ps)) ∧
      (∀ (w64 : Bool) (f : AtomOp) (x : BitVec 64), h.seq = due →
        let n := if w64 then 8 else 4
        (h.va.toNat % n ≠ 0 ∨ s.remoteLocs h.job h.va.toNat n = none → Happens (.tetherAtomic h w64 f x) s fun a u =>
          KeepsMemory a u ∧ sends a u 5 [2]) ∧
        ∀ ps, h.va.toNat % n = 0 → s.remoteLocs h.job h.va.toNat n = some ps → s.memWf → Happens (.tetherAtomic h w64 f x) s fun a u =>
          let old := BitVec.ofNat 64 (leNat (a.readLocs ps))
          let y := if w64 then x else (x.setWidth 32).setWidth 64
          sends a u 5 (0 :: leBytes n old.toNat) ∧ u.readLocs ps = leBytes n (atomNew f (if w64 then 64 else 32) old y).toNat) ∧
      ∀ (c : Contribution), h.seq = due →
        (∀ x ∈ s.contributions, ¬ (x.src = c.src ∧ x.job = c.job ∧ x.coll = c.coll ∧ x.k = c.k)) →
        Happens (.tetherCollective ⟨h, c⟩) s fun a u => KeepsMemory a u ∧ sends a u 6 [0] ∧ u.contributions = a.contributions ++ [c])) ∧
  (∀ (f : FlitIn) (op part : Nat) (z : Flit) (s : State), Answers s.atEvent f op part z →
    let ours (x : Flit) : Prop := x.op = some op ∧ x.part = part
    let p := s.ports[f.port.toFin]
    (∀ declined, z.nonPosted = false → Happens (.tetherAcknowledge f.port (.request f.seq f.key f.authentic ⟨op, part⟩) declined) s fun a u => ∃ x : State, u = x.pumpLinks ∧
      (∀ y ∈ x.ports[f.port.toFin].inFlight, ¬ ours y) ∧ ∀ o ∈ a.ops, o.id = op → part ∉ o.parts → ∃ q ∈ x.ops, q.id = op ∧
        q.parts = o.parts ++ [part] ∧ q.cst = if declined then o.cst ||| PartEnd.cst .range else o.cst) ∧
    Happens (.tetherBusy f ⟨op, part⟩) s fun a u => KeepsMemory a u ∧ KeepsGroups a u ∧
      (∀ y ∈ u.ports[f.port.toFin].inFlight, ¬ ours y) ∧ u.ports[f.port.toFin].busy = p.busy ++ [z]) ∧
  (∀ (port : BitVec 4) (s : State),
    let p := s.ports[port.toFin]
    (∀ n declined, (∃ f ∈ p.unacked, f.seq = n) → Happens (.tetherAcknowledge port (.flits n) declined) s fun _ u => ∃ x : State, u = x.pumpLinks ∧
      x.ports[port.toFin].unacked = p.unacked.drop ((p.unacked.takeWhile fun f => f.seq != n).length + 1) ∧
      x.ports[port.toFin].replays = 0) ∧
    (∀ op part f, p.busy.find? (fun f => f.op == some op && f.part == part) = some f → s.portRoom port.toNat = true →
      s.portUp port.toNat = true → Happens (.busyRetry port ⟨op, part⟩) s fun _ u => ∃ x : State, u = x.pumpLinks ∧
        (∀ y ∈ x.ports[port.toFin].busy, ¬ (y.op = some op ∧ y.part = part)) ∧
        ∃ y ∈ x.ports[port.toFin].unacked, y.op = f.op ∧ y.part = f.part ∧ y.data = f.data ∧ y.seq = p.seq) ∧
    (p.en = true → p.tier.toNat < 3 → ∀ peer fewer, Happens (.tetherLinkControl port (.trained peer fewer)) s fun _ u =>
      ∃ x : State, u = x.pumpLinks ∧ x.ports[port.toFin].peer = peer ∧ x.ports[port.toFin].st = if fewer then 3 else 2) ∧
    (p.en = true → Happens (.tetherLinkControl port .retrain) s fun _ u => u.ports[port.toFin].st = 1) ∧
    (Happens (.tetherLinkControl port .down) s fun a u => ∃ x : State, u = x.pumpLinks ∧ x.ports[port.toFin].st = 0 ∧
      x.ports[port.toFin].unacked = [] ∧ x.ports[port.toFin].inFlight = [] ∧ x.ports[port.toFin].busy = [] ∧
      x.flits = a.flits ++ p.inFlight ++ p.busy ++ p.unacked.filter fun f => f.op.isNone) ∧
    (p.unacked ≠ [] → s.portUp port.toNat = true →
      (8 ≤ p.replays → Happens (.tetherAckTimeout port) s fun a u => u.out = a.out ∧ u.ports[port.toFin].st = 1) ∧
      (p.replays < 8 → Happens (.tetherAckTimeout port) s fun a u => u.ports[port.toFin].replays = p.replays + 1 ∧
        u.out = a.out ++ p.unacked.map fun f => .linkFlit port.toNat f.bytes))) ∧
  ∀ (link : BitVec 3) (b : Bridle) (s : State), s.bridle.toList[link.toNat]? = some b →
    (Happens (.bridleFlitReplay link) s fun a u => KeepsMemory a u ∧ KeepsGroups a u ∧
      u.bridle.toList[link.toNat]? = some { b with replays := b.replays + 1 }) ∧
    Happens (.bridleLaneLoss link) s fun a u => KeepsMemory a u ∧ KeepsGroups a u ∧
      u.bridle.toList[link.toNat]? = some (if b.st = 2 then b else { b with st := 1, lost := b.lost + 1 })

/-- A walk fills a TLB; TLBINV, ATS and PRI events change what is cached and ask again, a refused page stopping its
launches. Host writes and reads through BAR2 act on the bytes they name. A scrub logs, poisons and retires. Register
writes take effect. Firmware is loaded at reset only; a ready function sets its bit. The fatal state stops running
launches and zeroises every key; resets leave no launch, group, job or key, and keep the leaves that signatures have
used; a page of the access log's ring takes no host write; D3hot cancels every launch and clears every cluster; D3cold
keeps no device memory. -/
def Obligations.HostEvents : Prop :=
  (∀ (die : BitVec 2) (cu : Option (BitVec 6)) (job : BitVec 32) (va lo hi : BitVec 52) (s : State),
    let mine := s.walkRequest die (cu.map BitVec.toNat) job va.toNat
    (s.modeSplit.getLsbD taskWalk = true → mine = none → ∀ p, s.walk job va.toNat = some p → Happens (.pageWalk die cu job va) s fun a u =>
      KeepsMemory a u ∧ KeepsGroups a u ∧ { die := die, cu := cu, job := job, base := p.1, size := p.2.1, pte := p.2.2 } ∈ u.tlb) ∧
    (s.modeSplit.getLsbD taskWalk = false → mine = none → Happens (.pageWalk die cu job va) s fun a u => u.tlb = a.tlb ∧
      ∃ r, u.hostReqs = a.hostReqs ++ [r] ∧ r.task = taskWalk ∧ r.job = job ∧ r.args = walkArgs die (cu.map BitVec.toNat) va.toNat) ∧
    Happens (.tlbinv job lo hi) s fun a u => KeepsMemory a u ∧ ∀ t, t ∈ u.tlb ↔
      t ∈ a.tlb ∧ ¬ (t.job = job ∧ t.base ≤ hi.toNat ∧ lo.toNat < t.base + t.size)) ∧
  (∀ (pasid : BitVec 20) (page : BitVec 40) (s : State),
    (Happens (.atsInvalidation pasid page) s fun a u => KeepsMemory a u ∧ ∀ x, x ∈ u.atc ↔ x ∈ a.atc ∧ x ≠ (pasid, page)) ∧
    (HostOut.ats pasid page ∈ s.out →
      (Happens (.atsTranslationCompletion pasid page true) s fun _ u => (pasid, page) ∈ u.atc ∧ HostOut.ats pasid page ∉ u.out) ∧
      Happens (.atsTranslationCompletion pasid page false) s fun a u => u.atc = a.atc ∧ HostOut.pri pasid page ∈ u.out) ∧
    (HostOut.pri pasid page ∈ s.out →
      (Happens (.priResponse pasid page true) s fun _ u => HostOut.ats pasid page ∈ u.out ∧ HostOut.pri pasid page ∉ u.out) ∧
      Happens (.priResponse pasid page false) s fun a u => ∀ x j, a.launch? x.uid = some x → x.state < 3 → x.final = none →
        x.hostLeased (page.toNat * 4096) = true → a.job? x.lrec.jobId = some j → j.pasid = pasid →
        ∃ y, u.launch? x.uid = some y ∧ y.final = some (if x.state = 2 then (5, 1) else (5, 2)))) ∧
  (∀ (off : BitVec 32) (len : Nat) (bytes : List (BitVec 8)) (s : State), s.memWf →
    (∀ as, s.barRange off bytes.length = some as → Happens (.hostMemoryWrite off bytes) s fun a u =>
      (∀ (k x : Nat) (b : Byte), as[k]? = some x → bytes[k]? = some b → readByte u.mem x = if s.firmwareOnly x then readByte a.mem x else b) ∧
      ∀ x, x ∉ as → readByte u.mem x = readByte a.mem x) ∧
    (s.barRange off len = none → Happens (.hostMemoryRead off len) s fun a u => u.out = a.out ++ [.abort] ∧ u.mem = a.mem) ∧
    ∀ as, s.barRange off len = some as →
      ((∀ j ∈ s.jobs, j.sealed = none) → Happens (.hostMemoryRead off len) s fun a u => KeepsMemory a u ∧
        u.out = a.out ++ [.data (as.map (readByte a.mem))]) ∧
      ∀ j, s.atEvent.readTokens as (s.jobs.filter fun j => j.sealed.isSome) = .error j →
        Happens (.hostMemoryRead off len) s fun a u => HostOut.abort ∈ u.out ∧
          u.hostMem = a.hostMem ∧ u.blocks.map Block.scratch = a.blocks.map Block.scratch ∧ KeepsOutsideRing a u) ∧
  (∀ (c : Nat) (s : State), backed (64 * c) = true → s.modeSplit.getLsbD taskScrub = true →
    (Happens (.patrolScrub c .clean) s fun a u => KeepsMemory a u ∧ u.poison = a.poison ∧ u.scrubAt = c) ∧
    (Happens (.patrolScrub c .correctable) s fun a u => u.errorLog = a.errorLog ++ [(64 * c, false)] ∧ HostOut.msix 256 ∈ u.out ∧
      u.poison = a.poison) ∧
    Happens (.patrolScrub c .uncorrectable) s fun a u => u.errorLog = a.errorLog ++ [(64 * c, true)] ∧ c ∈ u.poison ∧
      HostOut.msix 256 ∈ u.out ∧ (c / 64 ∈ u.retired ∨ c / 64 ∈ u.retiring)) ∧
  (∀ (c pa : Nat) (cu : CuRef) (line : Nat) (s : State),
    (Happens (.patrolScrub c (.elsewhere (.l2 pa) true)) s fun a u => u.errorLog = a.errorLog ++ [(pa, true)] ∧ pa / 64 ∈ u.poison) ∧
    Happens (.patrolScrub c (.elsewhere (.l1 cu line) true)) s fun a u => KeepsMemory a u ∧ u.errorLog = a.errorLog ∧
      ∀ x, x ∈ u.l1 ↔ x ∈ a.l1 ∧ ¬ (x.cu = cu ∧ x.line = line)) ∧
  (∀ s : State,
    let sets (w : HostWrite) (f : State → State → Prop) : Prop := Happens (.registerWrite w) s fun a u => ∃ x : State, u = x.pumpLinks ∧ f a x
    (∀ q level tickets pq j, sets (.qCfg q level tickets pq j) fun _ x => (x.queue q.toNat).level = level ∧
      (x.queue q.toNat).tickets = tickets ∧ (x.queue q.toNat).pq = pq ∧ (x.queue q.toNat).job = j) ∧
    (∀ j d, s.jobLive j = false → sets (.ptRoot j d) fun _ x => ∃ y, x.job? j = some y ∧ y.ptroot = d) ∧
    (∀ d, sets (.dumpA d) fun _ x => x.dumpA = d) ∧ (∀ d, sets (.traceA d) fun _ x => x.traceA = d) ∧
    (∀ d, sets (.logA d) fun _ x => x.logA = d) ∧ (∀ d, sets (.bar2Win d) fun _ x => x.bar2Win = d) ∧
    (∀ n, sets (.pwrLim n) fun a x => x.pwrLim = if 600 ≤ n ∧ n ≤ 2400 then n else a.pwrLim) ∧
    ∀ b, (∀ t ∈ s.tdis, t.locks = false) → sets (.modeSplit b) fun _ x => x.modeSplit = b.setWidth 64) ∧
  (∀ (id : Nat) (r : HostReq) (ok : Bool) (digest : BitVec 256) (s : State), s.hostReqs.find? (fun r => r.id == id) = some r →
    (r.task = taskLease → Happens (.hostRequestCompletion id ok digest) s fun _ u => { r with answered := some ok } ∈ u.hostReqs) ∧
    (r.task = taskWalk → ok = false → Happens (.hostRequestCompletion id ok digest) s fun a u =>
      { r with answered := some false } ∈ u.hostReqs ∧ u.tlb = a.tlb) ∧
    (r.task ≠ taskLease → (r.task = taskWalk → ok = true ∧ (s.walk r.job (r.args.getD 2 0)).isSome = true) →
      Happens (.hostRequestCompletion id ok digest) s fun a u => (∀ x ∈ u.hostReqs, x.id ≠ id) ∧
      ∀ i, ok = true → r.task = taskMeas → r.args = [i] → 1 ≤ i → i ≤ 6 →
        u.measurement i = Config.sha256 (digestBytes (a.measurement i) ++ digestBytes digest))) ∧
  (∀ (image : FirmwareImage) (s : State), s.ready = 0 → s.hasFirmware image.security = false → s.mayLog 0 = true →
    Happens (.firmwareImageLoad image) s fun a u => if s.imageOk image = false then u = a else
      image ∈ u.firmware ∧ (s.modeSplit.getLsbD taskMeas = true → let i := if image.security then 1 else 2
        u.measurement i = Config.sha256 (digestBytes (a.measurement i) ++ digestBytes (Config.sha256 image.bytes)))) ∧
  (∀ (f : ReadyBit) (s : State), s.ready.getLsbD (ReadyBit.index f) = false → s.mayBeReady f = true →
    Happens (.functionReady f) s fun a u => ∃ x : State, u = x.pumpLinks ∧ x.ready = a.ready ||| 1#64 <<< ReadyBit.index f ∧
      HostOut.msix 256 ∈ x.out) ∧
  ∀ s : State,
    let stopped (a u : State) (p : Launch → Prop) (c : Nat × Nat) : Prop := ∀ x, a.launch? x.uid = some x → p x → x.final = none →
      ∃ y, u.launch? x.uid = some y ∧ y.final = some c
    (s.ready.getLsbD 63 = false → ∀ i ∈ Instr.fatalState :: (List.range 6).map (fun n => .bridleRetrainTimeout (BitVec.ofNat 3 n)),
      Happens i s fun a u => u.ready = BitVec.ofNat 64 (2 ^ 63) ∧ u.kslots = [] ∧ HostOut.msix 256 ∈ u.out ∧
        stopped a u (fun x => x.state = 2) (5, 0)) ∧
    (s.power = .d0 → Happens .d3coldExit s fun a u => u = a) ∧
    (∀ i ∈ [Instr.conventionalReset, .functionLevelReset, .d3coldExit], (i = .d3coldExit → s.power ≠ .d0) → Happens i s fun a u =>
      u.power = .d0 ∧ u.spdm.leaf = a.spdm.leaf ∧ u.log.leaf = a.log.leaf ∧ u.ready = 0 ∧ u.launches = [] ∧
      u.groups = [] ∧ u.blocks = [] ∧ u.jobs = [] ∧ u.kslots = [] ∧ u.firmware = [] ∧ u.hostMem = a.hostMem ∧
      (u.mem = [] ∨ (i ≠ .d3coldExit ∧ u.mem = a.mem))) ∧
    Happens .d3hotEntry s fun a u => KeepsMemory a u ∧ u.power = .d3hot ∧ stopped a u (fun x => x.state < 3) (4, 0) ∧
      ∀ n, n < 20 → ∃ p ∈ u.clusters, p.n = n ∧ p.clearing = true

/-- While no TDI locks the debug registers: HALT stops a partition with CAUSE 0, RESUME lets it run with its pending
writes applied, STEP lets one instruction of a slot issue, DUMP writes a stopped partition's dump. In a protected
cluster HALT is refused, whatever the TDIs; elsewhere a locked TDI keeps HALT from stopping anything and enters ERROR.
SNAPSHOT copies the slot counters; clock locks, breaks, restores and steps change the clocks they name. -/
def Obligations.DebugAndClockEvents : Prop :=
  (∀ (p : Partition) (slot : BitVec 5) (s : State),
    let d := s.debugPart p
    let open_ : Prop := (∀ t ∈ s.tdis, t.locks = false) ∧ s.protectedPart p = false
    (open_ → d.stopped = false → Happens (.halt p) s fun a u => KeepsGroups a u ∧ (u.debugPart p).stopped = true ∧
      (u.debugPart p).cause = 0 ∧ (u.debugPart p).leaves = d.leaves) ∧
    (s.protectedPart p = true → Happens (.halt p) s fun a u => KeepsMemory a u ∧ KeepsGroups a u ∧
      (u.debugPart p).stopped = d.stopped ∧ (u.debugPart p).refused = true) ∧
    (s.protectedPart p = false → (∃ t ∈ s.tdis, t.locks = true) → Happens (.halt p) s fun _ u => (u.debugPart p).stopped = d.stopped ∧
      ∀ t ∈ s.tdis, t.locks = true → (∀ y ∈ s.tdis, y.n = t.n → y.st ≠ .error) → ∃ x ∈ u.tdis, x.n = t.n ∧ x.st = .error) ∧
    ((∀ t ∈ s.tdis, t.locks = false) → d.stopped = true ∨ d.stepping = true → Happens (.resume p) s fun _ u => (u.debugPart p).stopped = false ∧
      (u.debugPart p).stepping = false ∧ (u.debugPart p).pendings = [] ∧ ∀ o ∈ u.ops, o.id ∉ d.pendings) ∧
    (open_ → d.stopped = true → Happens (.step p slot) s fun a u => KeepsTraced a u ∧ (u.debugPart p).stopped = false ∧
      (u.debugPart p).stepping = true ∧ (u.debugPart p).slot = slot ∧ (u.debugPart p).pendings = []) ∧
    (open_ → d.stopped = true → (∀ j ∈ s.jobs, j.sealed = none) → Happens (.dump p) s fun a u => KeepsGroups a u ∧
      (u.debugPart p).dumped = true ∧ u.mem = writeBytes a.mem a.dumpA.toNat
        ((a.updDebug p fun d => { d with dumpAsked := true, dumped := false }).dumpBytes p (a.partGroups p))) ∧
    Happens (.snapshot p) s fun a u => KeepsMemory a u ∧ KeepsGroups a u ∧ (u.debugPart p).snap = d.leaves ∧
      (u.debugPart p).leaves = d.leaves) ∧
  ∀ (die : BitVec 2) (f : ClockStep) (power : Bool) (s : State),
    let now := s.clocks[die.toFin]
    (Happens (.clockLock f) s fun a u => KeepsGroups a u ∧ u.lock = some f ∧ u.lockBroken = 0 ∧ ∀ x : BitVec 2, u.clocks[x.toFin] = f) ∧
    (s.lock.isSome = true → ClockStep.mhz f < ClockStep.mhz now → Happens (.lockBroken die f power) s fun a u => KeepsGroups a u ∧
      u.lock = a.lock ∧ u.clocks[die.toFin] = f ∧ u.lockBroken.getLsbD die.toNat = true) ∧
    (s.lock = some f → s.lockBroken.getLsbD die.toNat = true → Happens (.lockRestored die) s fun a u => KeepsGroups a u ∧
      u.lock = a.lock ∧ u.clocks[die.toFin] = f ∧ u.lockBroken.getLsbD die.toNat = false) ∧
    (s.clockLocked die = true → Happens (.clockStepDown die) s fun a u => u = a) ∧
    (s.clockLocked die = false → Happens (.clockStepDown die) s fun a u => KeepsMemory a u ∧
      u.clocks[die.toFin] = ClockStep.down now ∧ ∀ x : BitVec 2, x ≠ die → u.clocks[x.toFin] = a.clocks[x.toFin]) ∧
    (s.lock = none → Happens (.clockStepUp die) s fun a u => KeepsMemory a u ∧
      u.clocks[die.toFin] = ClockStep.up now ∧ ∀ x : BitVec 2, x ≠ die → u.clocks[x.toFin] = a.clocks[x.toFin])

/-- With room in the access log, into whose ring in memory the record is written (without it the action waits): a key
enters an empty slot and leaves it at one instant with all that it stood for; a seal key and a weight region mark
their job; link keys enter the set in wait, the index flips, a retired set is gone. A refill raises a bucket to its
burst at most. An acknowledgement frees the ring. A cleared cluster is for whom it was meant, its storage scrubbed.
Inside a session TDIs lock, start and stop, each request answered; outside one it is an unexpected request; a lost
heartbeat, a digest that differs and a bad completion move them to ERROR. -/
def Obligations.TrustEvents : Prop :=
  ∀ (s : State) (slot : BitVec 10) (job : BitVec 32),
    let ready : Prop := s.mayLog 0 = true
    let logs (a u : State) : Prop := ∃ r rs, u.log.ring = a.log.ring ++ r :: rs ∧ r.1 = a.log.seq.toNat ∧ r.2.length = 64 ∧
      (a.memWf → KeepsOutsideRing a u ∧ (a.log.next + 64 ≤ logRingBytes →
        (List.range 64).map (fun i => readByte u.mem (Config.accessRingAt + a.log.next + i)) = r.2))
    let tdi (u : State) (n : BitVec 4) (f : Tdi → Prop) : Prop := ∃ y, u.tdis.find? (fun t => t.n == n) = some y ∧ f y
    let ref (u : State) (r : StreamRef) (f : Stream → Prop) : Prop := ∃ y, u.streams.find? (fun x => x.ref == r) = some y ∧ f y
    (∀ base key, (s.keySlot? slot ≠ none → Happens (.keySlotLoad slot job base key) s fun a u => u = a) ∧
      (ready → s.keySlot? slot = none → Happens (.keySlotLoad slot job base key) s fun a u => logs a u ∧
        { n := slot, twbase := base, job := job, kind := 1, live := true, key := key } ∈ u.kslots) ∧
      (¬ ready → s.keySlot? slot = none → Happens (.keySlotLoad slot job base key) s fun a u => KeepsMemory a u ∧
        u.kslots = a.kslots ∧ u.log.ring = a.log.ring ∧ u.log.held = a.log.held ++ [.keyLoad slot job base key])) ∧
    (ready → s.keySlot? slot ≠ none → (∀ x ∈ s.streams, ¬ (x.oldKey = some slot ∧ s.oldInFlight x = true)) →
      Happens (.keySlotZeroise slot) s fun a u => logs a u ∧ u.keySlot? slot = none ∧
        (∀ x ∈ u.streams, x.set0 ≠ some slot ∧ x.set1 ≠ some slot) ∧ ∀ j ∈ u.jobs, ∀ x, j.sealed = some x → slot ∉ x.slots) ∧
    (∀ region base policy, ready → s.keySlot? slot = none → (s.job? job).isSome = true →
      (s.jobs.filter fun x => x.id != job && x.sealed.isSome).length < 16 →
      Happens (.sealKeyDerive slot job region base policy) s fun a u => logs a u ∧
        (∃ y x, u.job? job = some y ∧ y.sealed = some x ∧ slot ∈ x.slots ∧
          ∀ z, (a.job? job).bind Job.sealed = some z → ∀ n ∈ z.slots, n ∈ x.slots) ∧
        ∃ k ∈ u.kslots, k.n = slot ∧ k.key = Config.deriveSealKey (sealLabel ++ leBytes 8 region.toNat ++ digestBytes policy)) ∧
    (∀ lo hi policy x, ready → (s.job? job).bind Job.sealed = some x → Happens (.weightRegionSet job lo hi policy) s fun a u =>
      logs a u ∧ (u.job? job).bind Job.sealed = some { x with lo := lo, hi := hi }) ∧
    (Happens (.tokenRefill job) s fun a u => ∃ w : State, w.mem = a.mem ∧ w.groups = a.groups ∧ w.ops = a.ops ∧
      (∀ j y, a.job? job = some j → j.sealed = some y → (w.job? job).bind Job.sealed =
        some { y with tokens := BitVec.ofNat 32 (min y.burst.toNat (y.tokens.toNat + y.rate.toNat)) }) ∧
      let v := (w.pumpStores job).pumpPorts
      let x := (v.dbg.map DebugPart.part).foldl (fun (s : State) p => s.tryDump p) v
      u = x.writeTrace x.traceWait) ∧
    (∀ n, s.log.waiting = [] → s.log.held = [] → s.log.refusals = 0 → Happens (.logAcknowledge n) s fun a u => u.log.seq = a.log.seq ∧
      u.log.chain = a.log.chain ∧ u.log.ring = (a.log.ring.filter fun r => decide (n.toNat ≤ r.1)) ∧
      u.log.acked.toNat = max a.log.acked.toNat n.toNat) ∧
    (∀ n p, s.clusters.find? (fun p => p.n == n) = some p → p.clearing = true →
      (p.toJob = p.job ∨ ∀ b ∈ s.blocks, ∀ c, b.cu = some c → inCluster n c = true → b.complete = true) →
      Happens (.clearSequence n) s fun a u => (a.memWf → KeepsOutsideRing a u) ∧ (∃ q ∈ u.clusters, q.n = n ∧ q.clearing = false ∧ q.job = p.toJob) ∧
      ∀ b ∈ u.blocks, ∀ c, b.cu = some c → inCluster n c = true → b.complete = false → b.scratch = [] ∧ b.acc = []) ∧
    (∀ n t, s.tdis.find? (fun t => t.n == n) = some t →
      (t.st ≠ .error → s.secured = true → (∃ x ∈ s.launches, x.lrec.jobId = t.job ∧ x.state = 2) →
        Happens (.heartbeatLoss n) s fun _ u => tdi u n fun y => y.st = .error) ∧
      (t.locks = true → (t.digest = s.rwlDigest → Happens (.rwlDigestWalk n) s fun a u => u = a) ∧
        (t.digest ≠ s.rwlDigest → Happens (.rwlDigestWalk n) s fun _ u => (tdi u n fun y => y.st = .error) ∧
          ∀ k ∈ u.kslots, k.job ≠ t.job)) ∧
      (s.secured = false → ∀ i ∈ [Instr.lockInterfaceRequest n, .startInterfaceRequest n, .stopInterfaceRequest n], Happens i s fun a u =>
        u.out = a.out ++ [.spdm [0x13, 0x7F, 4, 0]] ∧ u.tdis = a.tdis ∧ u.log = a.log ∧ u.spdm = a.spdm) ∧
      (ready → s.secured = true → t.st = .unlocked → Happens (.lockInterfaceRequest n) s fun a u => logs a u ∧
        tdi u n fun y => y.st = .locked ∧ y.digest = a.rwlDigest) ∧
      (ready → s.secured = true → t.st = .locked → t.stopping = false → Happens (.startInterfaceRequest n) s fun a u => logs a u ∧
        tdi u n fun y => y.st = .run ∧ y.digest = t.digest) ∧
      (s.secured = true → t.st ≠ .unlocked → Happens (.stopInterfaceRequest n) s fun a u =>
        (tdi u n fun y => y.st = .unlocked ∨ y.stopping = true) ∧
        ∀ x, a.launch? x.uid = some x → x.lrec.jobId = t.job → x.state < 3 →
          ∃ y, u.launch? x.uid = some y ∧ y.final = some (4, 0))) ∧
    (∀ r key,
      let x := s.stream r job
      let into := x.into
      ready → s.keySlot? slot = none → (if into then x.set1 else x.set0) = none → (∀ n, r = .ide n → s.secured = true) →
      Happens (.linkKeyLoad r slot job key) s fun a u => logs a u ∧
        (∃ k ∈ u.kslots, k.n = slot ∧ k.kind = 2 ∧ k.key = key.setWidth 512) ∧
        ref u r fun y => y.cur = x.cur ∧ (if into then y.set1 else y.set0) = some slot) ∧
    (∀ r x, s.streams.find? (fun x => x.ref == r) = some x →
      (x.oldKey.isSome = true → Happens (.keyIndexFlip r) s fun _ u => ref u r fun y => y = { x with cur := !x.cur }) ∧
      (ready → x.oldKey = some slot → s.oldInFlight x = false → Happens (.keySetRetire r) s fun a u => logs a u ∧
        u.keySlot? slot = none ∧ ref u r fun y => y.oldKey = none ∧ y.cur = x.cur)) ∧
    ∀ n x id, s.streams.find? (fun x => x.ref == .ide n) = some x → ∀ f, x.flight.find? (fun f => f.1 == id) = some f →
      (Happens (.completionReceived n id f.2 true) s fun _ u => ref u (.ide n) fun y => y.insecure = x.insecure ∧
        ∀ z ∈ y.flight, z.1 ≠ id) ∧
      (∀ index ok, ¬ (index = f.2 ∧ ok = true) → Happens (.completionReceived n id index ok) s fun a u =>
        (ref u (.ide n) fun y => y.insecure = true) ∧
        ∀ t ∈ a.tdis, t.job = x.job → (∀ y ∈ a.tdis, y.n = t.n → y.st ≠ .error) → ∃ z ∈ u.tdis, z.n = t.n ∧ z.st = .error) ∧
      Happens (.completionTimeout n id) s fun a u => (ref u (.ide n) fun y => ∀ z ∈ y.flight, z.1 ≠ id) ∧
        ∀ o ∈ a.ops, o.id = id → ∃ p ∈ u.ops, p.id = id ∧ p.clobbered = true

/-- A malformed request is answered with error 1, one of another version with 0x41 once GET.VERSION has come, one out
of order with 4 and an unlisted one with 7, none of them changing the responder. GET.VERSION starts over; negotiation
goes from version to capabilities to algorithms, whose answers hold what R383 states; digests, certificates,
challenge, measurements, whose answer holds the blocks asked for, and sessions follow, each growing the transcript it
belongs to, signed answers spending a leaf of the identity key and emptying theirs. What the access log has no room
for waits and is not answered. The other bytes of answers, and DMTF's codes and layouts, are the model's (log entry 8,
PRESUMED). -/
def Obligations.ResponderEvents : Prop :=
  ∀ (msg : List (BitVec 8)) (index : BitVec 8) (id : BitVec 32) (stream : BitVec 3) (slot : BitVec 10) (job : BitVec 32)
    (key : BitVec 256) (s : State),
    let x := s.spdm
    let tells (a u : State) (bs : List Byte) : Prop := u.out = a.out ++ [.spdm bs]
    let error (c : Byte) (a u : State) : Prop := tells a u [0x13, 0x7F, c, 0] ∧ u.spdm = a.spdm ∧ u.log = a.log
    let answers (i : Instr) (accepted : Bool) (effect : State → State → Prop) : Prop := Happens i s fun a u =>
      if Config.spdmWellFormed msg = false then error 1 a u
      else if x.phase ≠ 0 ∧ msg.head? ≠ some 0x13 then error 0x41 a u
      else if accepted = false then error 4 a u
      else effect a u
    let reply (code : Nat) (stated : List Byte) := spdmAnswer code msg stated
    let grows (code : Nat) (stated : List Byte) (next : List Byte → Spdm) (a u : State) : Prop :=
      tells a u (reply code stated) ∧ u.spdm = next (msg ++ reply code stated)
    let signs (bs : List Byte) (told : List Byte) (next : Spdm) (a u : State) : Prop :=
      if s.identitySpent then error 5 a u
      else tells a u (bs ++ Config.lmsSign x.leaf (x.vca ++ told ++ msg ++ bs)) ∧ u.spdm = { next with leaf := x.leaf + 1 }
    let waits (i : LogAction) (a u : State) : Prop := u.log.held = a.log.held ++ [i] ∧ u.out = a.out ∧ u.spdm = a.spdm ∧
      u.kslots = a.kslots
    let open_ := x.hasSession id true
    let inside (i : Instr) (code : Nat) : Prop := answers i open_ fun a u =>
      tells a u (reply code []) ∧ u.spdm = x.sessionAppend id (msg ++ reply code []) ∧ u.spdm.hasSession id true = true
    (∀ c, Happens (.unsupportedRequest c) s (error 7)) ∧
    (Happens (.getVersion msg) s fun a u => if Config.spdmWellFormed msg = false then error 1 a u else
      grows 0x84 [] (fun bs => { x with phase := 1, vca := bs, chal := [], meas := [] }) a u) ∧
    answers (.getCapabilities msg) (x.phase == 1) (grows 0xE1 spdmCapabilities fun bs => { x with phase := 2, vca := x.vca ++ bs }) ∧
    answers (.negotiateAlgorithms msg) (x.phase == 2) (grows 0xE3 spdmAlgorithms fun bs => { x with phase := 3, vca := x.vca ++ bs }) ∧
    answers (.getDigests msg) (x.phase == 3) (grows 0x81 [] fun bs => { x with chal := x.chal ++ bs }) ∧
    answers (.getCertificate msg) (x.phase == 3) (grows 0x82 [] fun bs => { x with chal := x.chal ++ bs }) ∧
    answers (.challenge msg) (x.phase == 3) (signs (reply 0x83 []) x.chal { x with chal := [] }) ∧
    (let is := [1, 2, 3, 4, 5, 6].filter fun i => index == 0xFF || index.toNat == i
     let r := reply 0xE0 (is.flatMap fun i => [BitVec.ofNat 8 i, 1, 35, 0, 0, 32, 0] ++ digestBytes (s.measurement i))
     answers (.getMeasurements msg index false) (x.phase == 3) (fun a u => tells a u r ∧ u.spdm = { x with meas := x.meas ++ msg ++ r }) ∧
     answers (.getMeasurements msg index true) (x.phase == 3) (signs r x.meas { x with meas := [] })) ∧
    (answers (.pskExchange msg id) (x.phase == 3) fun a u =>
      tells a u (reply 0xE6 []) ∧ u.spdm.hasSession id true = false ∧ (id, false, msg ++ reply 0xE6 []) ∈ u.spdm.sessions) ∧
    (answers (.pskFinish msg id) (x.hasSession id false) fun a u =>
      (s.mayLog 0 = true → tells a u (reply 0xE7 []) ∧ u.spdm.hasSession id true = true ∧ a.log.ring.length < u.log.ring.length) ∧
      (s.mayLog 0 = false → waits (.pskFinish msg id) a u)) ∧
    inside (.heartbeat msg id) 0xE8 ∧ inside (.keyUpdate msg id) 0xE9 ∧
    (answers (.endSession msg id) open_ fun a u =>
      (s.mayLog checkpointBytes = true → tells a u (reply 0xEC []) ∧
        u.spdm.hasSession id true = false ∧ u.spdm.hasSession id false = false ∧ u.log.leaf ≠ a.log.leaf) ∧
      (s.mayLog checkpointBytes = false → waits (.endSession msg id) a u)) ∧
    answers (.vendorDefinedRequest msg id stream slot job key) open_ fun a u =>
      let fits := s.keyFits (.ide stream) slot job
      let told : Prop := tells a u (reply 0xFE []) ∧ u.spdm.hasSession id true = true
      (fits = false → told ∧ u.kslots = a.kslots ∧ u.streams = a.streams) ∧
      (fits = true → s.mayLog 0 = false → waits (.vendor msg id stream slot job key) a u) ∧
      (fits = true → s.mayLog 0 = true → told ∧ a.log.ring.length < u.log.ring.length ∧
        (∃ k ∈ u.kslots, k.n = slot ∧ k.kind = 2 ∧ k.job = job ∧ k.key = key.setWidth 512) ∧
        ∃ y ∈ u.streams, y.ref = .ide stream ∧ (y.set0 = some slot ∨ y.set1 = some slot))

/-- Every well-formed encoded instruction, with every operand at every value its encoding admits, decodes from its own
bytes to itself whatever bytes follow; every halfword and every 32-bit word that decodes is the encoding of what it
decodes to, so a word has one meaning and a field that must be 0 is 0. -/
def Obligations.DecodeEncode : Prop :=
  (∀ (i : Instr) (rest : List Byte), i.wf = true → encode i ≠ [] → decode (halfBytes (encode i) ++ rest) = .ok (i, rest)) ∧
  (∀ (w : BitVec 32) (i : Instr), w.getLsbD 0 = true → decodeWord w = .ok i →
    i.wf = true ∧ encode i = [w.setWidth 16, w.extractLsb' 16 16]) ∧
  ∀ (h : BitVec 16) (i : Instr), h.getLsbD 0 = false → decodeHalf h = .ok i → i.wf = true ∧ encode i = [h]

/-- The encodings that the spec works out for MOVI, ADDI, MUL, END, MOV, ICMP, BRA, FADD, LD, CALL, FCVT, LAUNCH,
MMA.Z and KVAPP decode to those instructions; the all-zero halfword and 16-bit ops 19 to 31 hold none. -/
def Obligations.DecodeWords : Prop :=
  let no : Marks2 := { ub := false, ua := false, lb := false, la := false }
  decodeTableWord 16 0x3842 = some (.movi16bit 1 7) ∧ decodeTableWord 16 0xF046 = some (.addi16bit 1 30) ∧
  decodeTableWord 32 0x04821111 = some (.mul 0 { no with lb := true } 2 1 1) ∧ decodeTableWord 32 0x00C00007 = some .endFrag ∧
  decodeTableWord 32 0x01000015 = some (.mov 0 { ua := false, la := false } 0 0) ∧
  decodeTableWord 32 0x0FFE10A5 = some (.addiScalar 1 1 0x7FF) ∧ decodeTableWord 32 0x004410AB = some (.icmpScalar .ne 1 1 2) ∧
  decodeTableWord 32 0x3FFFFE03 = some (.bra 1 0x3FFFFC) ∧ decodeTableWord 32 0x400831B1 = some (.fadd 2 no 3 3 4) ∧
  decodeTableWord 32 0x10020149 = some (.ld 0 .w32 .lane false 2 0 1) ∧ decodeTableWord 32 0x00000205 = some (.call 4) ∧
  decodeTableWord 32 0x0510113B = some (.fcvt 0 0x0A 0x08 2 1) ∧ decodeTableWord 32 0x00062275 = some (.launch 4 2 3) ∧
  decodeTableWord 32 0x804E0063 = some (.mma 4 false false true 0 0 7) ∧ decodeTableWord 32 0x000C2271 = some (.kvapp 0 4 2 6) ∧
  decodeTableWord 16 0 = none ∧ ∀ op, 19 ≤ op → op < 32 → decodeTableWord 16 (2 * op) = none

/-- A step runs the next event of the agenda; else, the fragment chosen to issue runs the instruction that its bundle
holds at its pc, or after a DL the instruction it prefixes; with the address after it, its slot code and its gap
latched; where the bundle is malformed or the slot holds no instruction, the fault of that; and with nothing to issue,
an event of the device. -/
def Obligations.StepRunsDecoded : Prop :=
  ∀ s : State,
    (∀ e r, (s.live = false ∨ s.latch.dl = none) → s.agenda = e :: r → step s = exec e { s with agenda := r }) ∧
    ((s.live = false ∨ s.latch.dl = none) → s.agenda = [] → s.pick = none → step s = s.auto) ∧
    ∀ (t : State) (here : VA) (b : Bundle),
      (s.live = true ∧ (∃ m, s.latch.dl = some m) ∧ t = s ∧ here = s.latch.next) ∨
      (s.latch.dl = none ∧ s.agenda = [] ∧ s.pick = some t ∧ here = t.frag.pc) → t.fetch here = .bundle b →
      let i := (here.toNat % 32 - 4) / 2
      let latch : Latch := { start := if t.latch.dl.isSome then t.latch.start else here, here := here, next := here, gap := 0, code := 0,
                             dl := t.latch.dl, leaf := 0, split := false }
      (b.ok = false → step s = exec .bundleMalformed { t with latch := { latch with start := BitVec.ofNat 52 (bundleBase here) + 4 } }) ∧
      (b.ok = true → here.toNat % 32 < 4 ∨ b.code i = 0 → step s = exec .illegalEncoding { t with latch := latch }) ∧
      (b.ok = true → 4 ≤ here.toNat % 32 → b.code i ≠ 0 →
        (∀ e, b.instr i = .error e → step s = exec .illegalEncoding { t with latch := latch }) ∧
        ∀ x, b.instr i = .ok x → x.wf = true ∧ step s = exec x { t with latch := { latch with
          next := nextAddr here x.length, code := b.code i, gap := if b.code i = 2 then b.gap else 0,
          leaf := ({ t with latch := latch } : State).issueLeaf x } })

/-- From every state an event of the device answers a next state, and so does every encoded instruction whose fragment
is in focus; the only stop of the model is an encoded instruction with none in focus. A step whose agenda holds events
only answers a next state, whatever the bytes at the pc are. -/
def Obligations.NothingStops : Prop :=
  (∀ (i : Instr) (s : State), Instr.isEvent i = true ∨ s.live = true → goesOnFrom (exec i s)) ∧
  (∀ (i : Instr) (s : State), Instr.isEvent i = false → s.live = false → exec i s = .fault .noFragment) ∧
  ∀ s : State, (∀ e ∈ s.agenda, Instr.isEvent e = true) → (∀ t, s.pick = some t → t.live = true) → goesOnFrom (step s)

/-- From every state whose memories list rising addresses and no byte equal to what an unlisted address reads as, a
step gives such a state: equal memories stay equal data. -/
def Obligations.StepKeepsMemory : Prop :=
  ∀ s t : State, s.memWf → step s = .next t → t.memWf

/-- After reset no function is ready, no launch, group, job, counter, key, lease or table is there, every housekeeping
task is the hardware's, clocks stand at the highest step unlocked, ring addresses are 0, the power limit is 2,400 W,
the device is in D0, measurement registers are 0, the ports are down, and memory lists nothing, in canonical form; of
these the values of clocks, ring addresses and of the power limit where the spec states none are the model's choice
(log entry 2). -/
def Obligations.ResetState : Prop :=
  State.reset.memWf ∧ State.reset.mem = [] ∧ State.reset.ready = 0 ∧ State.reset.launches = [] ∧ State.reset.groups = [] ∧
  State.reset.live = false ∧ State.reset.jobs = [] ∧ State.reset.counters = [] ∧ State.reset.kslots = [] ∧ State.reset.tables = [] ∧
  State.reset.modeSplit = 0x3F ∧ (∀ d : BitVec 2, State.reset.clocks[d.toFin] = .mhz3600) ∧ State.reset.lock = none ∧
  State.reset.dumpA = 0 ∧ State.reset.traceA = 0 ∧ State.reset.logA = 0 ∧ State.reset.bar2Win = 0 ∧ State.reset.pwrLim = 2400 ∧
  State.reset.power = .d0 ∧ State.reset.meas = Vector.replicate 6 0 ∧ State.reset.spdm.phase = 0 ∧
  (∀ i, State.reset.portUp i = false) ∧ ∀ p, State.reset.debugPart p = DebugPart.start p
end

