-- ==== Sys2Proof/Laws/Memory.lean ====
section
/-! SUPPORT. Laws of bytes: what a read gives after a write, and that every memory operation keeps the canonical form. -/

namespace Sys2Proof.Machine

/-! ### One byte -/

theorem readByte_nil (x : Nat) : readByte [] x = unlisted := rfl

/-- A canonical memory whose addresses all lie above `x` does not list `x`. -/
theorem readByte_below {lo x : Nat} : ∀ {m : List Host.Cell}, memOk (some lo) m = true → x ≤ lo → readByte m x = unlisted
  | [], _, _ => rfl
  | (a, b) :: t, h, hx => by
    simp only [memOk, Bool.and_eq_true, decide_eq_true_eq] at h
    have : x < a := by omega
    simp [readByte, this, Nat.ne_of_lt this]

/-- The form above a bound holds above any lower bound. -/
theorem memOk_mono {lo hi : Nat} : ∀ {m : List Host.Cell}, memOk (some hi) m = true → lo ≤ hi → memOk (some lo) m = true
  | [], _, _ => rfl
  | (a, b) :: t, h, hl => by
    simp only [memOk, Bool.and_eq_true, decide_eq_true_eq] at h ⊢
    exact ⟨⟨by omega, h.1.2⟩, h.2⟩

/-- The form above a bound is the form without one. -/
theorem memOk_none {lo : Nat} : ∀ {m : List Host.Cell}, memOk (some lo) m = true → memOk none m = true
  | [], _ => rfl
  | (a, b) :: t, h => by
    simp only [memOk, Bool.and_eq_true, Bool.true_and] at h ⊢
    exact ⟨h.1.2, h.2⟩

theorem memOk_tail {lo : Option Nat} {a : Nat} {b : Byte} {t : List Host.Cell} (h : memOk lo ((a, b) :: t) = true) :
    b ≠ unlisted ∧ memOk (some a) t = true := by
  simp only [memOk, Bool.and_eq_true, bne_iff_ne] at h
  exact ⟨h.1.2, h.2⟩

/-- A byte written above a bound keeps the form above it. -/
theorem writeByte_memOk {x : Nat} {v : Byte} :
    ∀ {lo : Option Nat} {m : List Host.Cell}, memOk lo m = true → (∀ l, lo = some l → l < x) → memOk lo (writeByte m x v) = true
  | lo, [], _, hx => by
    by_cases hv : v = unlisted
    · simp [writeByte, hv, memOk]
    · cases lo with
      | none => simp [writeByte, hv, memOk]
      | some l => simp [writeByte, hv, memOk, hx l rfl]
  | lo, (a, b) :: t, h, hx => by
    obtain ⟨hb, ht⟩ := memOk_tail h
    have hlo : ∀ l, lo = some l → l < a := by
      intro l hl; subst hl
      simp only [memOk, Bool.and_eq_true, decide_eq_true_eq] at h
      exact h.1.1
    unfold writeByte
    split
    · rename_i he; subst he
      split
      · cases lo with
        | none => exact memOk_none ht
        | some l => exact memOk_mono ht (Nat.le_of_lt (hlo l rfl))
      · rename_i hv
        cases lo with
        | none => simp [memOk, hv, ht]
        | some l => simp [memOk, hv, ht, hlo l rfl]
    · split
      · rename_i hlt
        split
        · exact h
        · rename_i hv
          cases lo with
          | none => simp [memOk, hv, hb, ht, hlt]
          | some l => simp [memOk, hv, hb, ht, hlt, hx l rfl]
      · have hgt : a < x := by omega
        have ih := writeByte_memOk (x := x) (v := v) ht (by intro l hl; cases hl; exact hgt)
        cases lo with
        | none => simp [memOk, hb, ih]
        | some l => simp [memOk, hb, ih, hlo l rfl]

/-- Writing a byte keeps the canonical form. -/
theorem writeByte_wf {m : List Host.Cell} (x : Nat) (v : Byte) (h : Memory.wf m = true) : Memory.wf (writeByte m x v) = true :=
  writeByte_memOk h (by intro l hl; cases hl)

/-- A written byte reads back, in a memory of canonical form above a bound. -/
theorem readByte_writeByte_same_above {x : Nat} {v : Byte} :
    ∀ {lo : Option Nat} {m : List Host.Cell}, memOk lo m = true → readByte (writeByte m x v) x = v
  | _, [], _ => by by_cases hv : v = unlisted <;> simp [writeByte, hv, readByte]
  | lo, (a, b) :: t, h => by
    obtain ⟨_, ht⟩ := memOk_tail h
    unfold writeByte
    split
    · rename_i he; subst he
      split
      · rename_i hv; rw [hv]; exact readByte_below ht (Nat.le_refl _)
      · simp [readByte]
    · split
      · rename_i hne hlt
        split
        · rename_i hv; simp [readByte, hne, hlt, hv]
        · simp [readByte]
      · rename_i hne hge
        simp [readByte, hne, hge, readByte_writeByte_same_above ht]

/-- A written byte reads back. -/
theorem readByte_writeByte_same {m : List Host.Cell} (x : Nat) (v : Byte) (h : Memory.wf m = true) :
    readByte (writeByte m x v) x = v := readByte_writeByte_same_above h

/-- A write leaves every other address as it was. -/
theorem readByte_writeByte_other_above {x y : Nat} {v : Byte} (hxy : y ≠ x) :
    ∀ {lo : Option Nat} {m : List Host.Cell}, memOk lo m = true → readByte (writeByte m x v) y = readByte m y
  | _, [], _ => by by_cases hv : v = unlisted <;> simp [writeByte, hv, readByte, hxy]
  | lo, (a, b) :: t, h => by
    obtain ⟨_, ht⟩ := memOk_tail h
    unfold writeByte
    split
    · rename_i he; subst he
      split
      · simp only [readByte, if_neg hxy]
        split
        · rename_i hlt; exact readByte_below ht (Nat.le_of_lt hlt)
        · rfl
      · simp [readByte, hxy]
    · split
      · rename_i hne hlt
        split
        · rfl
        · simp only [readByte, if_neg hxy]
          split
          · rename_i hyx
            have : y < a := by omega
            simp [this, Nat.ne_of_lt this]
          · rfl
      · simp only [readByte, readByte_writeByte_other_above hxy ht]

/-- A write leaves every other address as it was. -/
theorem readByte_writeByte_other {m : List Host.Cell} {x y : Nat} (v : Byte) (hxy : y ≠ x) (h : Memory.wf m = true) :
    readByte (writeByte m x v) y = readByte m y := readByte_writeByte_other_above hxy h

/-! ### Several bytes -/

/-- Writing bytes keeps the canonical form. -/
theorem writeBytes_wf : ∀ (bs : List Byte) {m : List Host.Cell} (a : Nat), Memory.wf m = true →
    Memory.wf (writeBytes m a bs) = true
  | [], _, _, h => h
  | b :: t, _, a, h => writeBytes_wf t (a + 1) (writeByte_wf a b h)

/-- Bytes written elsewhere leave an address as it was. -/
theorem readByte_writeBytes_other : ∀ (bs : List Byte) {m : List Host.Cell} (a x : Nat), Memory.wf m = true →
    (x < a ∨ a + bs.length ≤ x) → readByte (writeBytes m a bs) x = readByte m x
  | [], _, _, _, _, _ => rfl
  | b :: t, m, a, x, h, hx => by
    have hx' : x < a + 1 ∨ a + 1 + t.length ≤ x := by simp only [List.length_cons] at hx; omega
    have hne : x ≠ a := by simp only [List.length_cons] at hx; omega
    rw [writeBytes, readByte_writeBytes_other t (a + 1) x (writeByte_wf a b h) hx', readByte_writeByte_other b hne h]

/-- Bytes written read back. -/
theorem readBytes_writeBytes : ∀ (bs : List Byte) {m : List Host.Cell} (a : Nat), Memory.wf m = true →
    readBytes (writeBytes m a bs) a bs.length = bs
  | [], _, _, _ => rfl
  | b :: t, m, a, h => by
    have hw := writeByte_wf a b h
    simp only [writeBytes, List.length_cons, readBytes]
    rw [readBytes_writeBytes t (a + 1) hw, readByte_writeBytes_other t (a + 1) a hw (by omega), readByte_writeByte_same a b h]

/-- The little-endian bytes of a number give it back (R3). -/
theorem leNat_leBytes : ∀ (n x : Nat), leNat (leBytes n x) = x % 256 ^ n
  | 0, x => by simp [leBytes, leNat, Nat.mod_one]
  | n + 1, x => by
    have h : (BitVec.ofNat 8 x).toNat = x % 256 := by simp
    rw [leBytes, leNat, leNat_leBytes n, h, Nat.pow_succ, Nat.mul_comm (256 ^ n) 256, Nat.mod_mul]

theorem leBytes_length : ∀ (n x : Nat), (leBytes n x).length = n
  | 0, _ => rfl
  | n + 1, x => by simp [leBytes, leBytes_length n]

end Sys2Proof.Machine
end

