-- ==== Sys2Proof/Laws/State.lean ====
section
/-! SUPPORT. Laws of the state record: for each shared update, what every field holds after it. -/

namespace Sys2Proof.Machine

variable (s : State)

/-- Undefined engine results change nothing but scratchpads and tiles. -/
theorem State.loseResults_eq (i : GroupId) (ds : List Done) (s : State) :
    ∃ bs, ds.foldl (fun t d => t.loseResult i d) s = { s with blocks := bs } := by
  induction ds generalizing s with
  | nil => exact ⟨_, rfl⟩
  | cons d ds ih => exact ih (s.loseResult i d)

/-- A write of a vector name changes the group, and the blocks where an engine's result became undefined. -/
theorem State.writeV_eq (n : Reg) (m : Mask) (r : VReg) (l : Nat) :
    ∃ bs, s.writeV n m r l = { s with grp := s.grp.writeV s.fresh 0 n m r l, blocks := bs } :=
  State.loseResults_eq s.grp.id _ _

/-! ### Change of the group in focus -/

@[simp] theorem State.setGrp_live (f : Group → Group) : (s.setGrp f).live = s.live := rfl
@[simp] theorem State.setGrp_grp (f : Group → Group) : (s.setGrp f).grp = f s.grp := rfl
@[simp] theorem State.setGrp_frag (f : Group → Group) : (s.setGrp f).frag = s.frag := rfl
@[simp] theorem State.setGrp_groups (f : Group → Group) : (s.setGrp f).groups = s.groups := rfl
@[simp] theorem State.setGrp_latch (f : Group → Group) : (s.setGrp f).latch = s.latch := rfl
@[simp] theorem State.setGrp_blocks (f : Group → Group) : (s.setGrp f).blocks = s.blocks := rfl
@[simp] theorem State.setGrp_clusterLaunches (f : Group → Group) : (s.setGrp f).clusterLaunches = s.clusterLaunches := rfl
@[simp] theorem State.setGrp_ops (f : Group → Group) : (s.setGrp f).ops = s.ops := rfl
@[simp] theorem State.setGrp_fences (f : Group → Group) : (s.setGrp f).fences = s.fences := rfl
@[simp] theorem State.setGrp_windows (f : Group → Group) : (s.setGrp f).windows = s.windows := rfl
@[simp] theorem State.setGrp_spills (f : Group → Group) : (s.setGrp f).spills = s.spills := rfl
@[simp] theorem State.setGrp_copyRuns (f : Group → Group) : (s.setGrp f).copyRuns = s.copyRuns := rfl
@[simp] theorem State.setGrp_launches (f : Group → Group) : (s.setGrp f).launches = s.launches := rfl
@[simp] theorem State.setGrp_queues (f : Group → Group) : (s.setGrp f).queues = s.queues := rfl
@[simp] theorem State.setGrp_jobs (f : Group → Group) : (s.setGrp f).jobs = s.jobs := rfl
@[simp] theorem State.setGrp_jobsNext (f : Group → Group) : (s.setGrp f).jobsNext = s.jobsNext := rfl
@[simp] theorem State.setGrp_counters (f : Group → Group) : (s.setGrp f).counters = s.counters := rfl
@[simp] theorem State.setGrp_tables (f : Group → Group) : (s.setGrp f).tables = s.tables := rfl
@[simp] theorem State.setGrp_btc (f : Group → Group) : (s.setGrp f).btc = s.btc := rfl
@[simp] theorem State.setGrp_pins (f : Group → Group) : (s.setGrp f).pins = s.pins := rfl
@[simp] theorem State.setGrp_mem (f : Group → Group) : (s.setGrp f).mem = s.mem := rfl
@[simp] theorem State.setGrp_dirty (f : Group → Group) : (s.setGrp f).dirty = s.dirty := rfl
@[simp] theorem State.setGrp_hostMem (f : Group → Group) : (s.setGrp f).hostMem = s.hostMem := rfl
@[simp] theorem State.setGrp_poison (f : Group → Group) : (s.setGrp f).poison = s.poison := rfl
@[simp] theorem State.setGrp_correctable (f : Group → Group) : (s.setGrp f).correctable = s.correctable := rfl
@[simp] theorem State.setGrp_scrubAt (f : Group → Group) : (s.setGrp f).scrubAt = s.scrubAt := rfl
@[simp] theorem State.setGrp_retired (f : Group → Group) : (s.setGrp f).retired = s.retired := rfl
@[simp] theorem State.setGrp_retiring (f : Group → Group) : (s.setGrp f).retiring = s.retiring := rfl
@[simp] theorem State.setGrp_tlb (f : Group → Group) : (s.setGrp f).tlb = s.tlb := rfl
@[simp] theorem State.setGrp_l1 (f : Group → Group) : (s.setGrp f).l1 = s.l1 := rfl
@[simp] theorem State.setGrp_atc (f : Group → Group) : (s.setGrp f).atc = s.atc := rfl
@[simp] theorem State.setGrp_ready (f : Group → Group) : (s.setGrp f).ready = s.ready := rfl
@[simp] theorem State.setGrp_modeSplit (f : Group → Group) : (s.setGrp f).modeSplit = s.modeSplit := rfl
@[simp] theorem State.setGrp_bar2Win (f : Group → Group) : (s.setGrp f).bar2Win = s.bar2Win := rfl
@[simp] theorem State.setGrp_pwrLim (f : Group → Group) : (s.setGrp f).pwrLim = s.pwrLim := rfl
@[simp] theorem State.setGrp_dumpA (f : Group → Group) : (s.setGrp f).dumpA = s.dumpA := rfl
@[simp] theorem State.setGrp_traceA (f : Group → Group) : (s.setGrp f).traceA = s.traceA := rfl
@[simp] theorem State.setGrp_logA (f : Group → Group) : (s.setGrp f).logA = s.logA := rfl
@[simp] theorem State.setGrp_devId (f : Group → Group) : (s.setGrp f).devId = s.devId := rfl
@[simp] theorem State.setGrp_power (f : Group → Group) : (s.setGrp f).power = s.power := rfl
@[simp] theorem State.setGrp_clocks (f : Group → Group) : (s.setGrp f).clocks = s.clocks := rfl
@[simp] theorem State.setGrp_lock (f : Group → Group) : (s.setGrp f).lock = s.lock := rfl
@[simp] theorem State.setGrp_lockBroken (f : Group → Group) : (s.setGrp f).lockBroken = s.lockBroken := rfl
@[simp] theorem State.setGrp_time (f : Group → Group) : (s.setGrp f).time = s.time := rfl
@[simp] theorem State.setGrp_dbg (f : Group → Group) : (s.setGrp f).dbg = s.dbg := rfl
@[simp] theorem State.setGrp_counts (f : Group → Group) : (s.setGrp f).counts = s.counts := rfl
@[simp] theorem State.setGrp_traceNext (f : Group → Group) : (s.setGrp f).traceNext = s.traceNext := rfl
@[simp] theorem State.setGrp_traceWait (f : Group → Group) : (s.setGrp f).traceWait = s.traceWait := rfl
@[simp] theorem State.setGrp_heldBars (f : Group → Group) : (s.setGrp f).heldBars = s.heldBars := rfl
@[simp] theorem State.setGrp_errorLog (f : Group → Group) : (s.setGrp f).errorLog = s.errorLog := rfl
@[simp] theorem State.setGrp_replay (f : Group → Group) : (s.setGrp f).replay = s.replay := rfl
@[simp] theorem State.setGrp_follow (f : Group → Group) : (s.setGrp f).follow = s.follow := rfl
@[simp] theorem State.setGrp_hostWritten (f : Group → Group) : (s.setGrp f).hostWritten = s.hostWritten := rfl
@[simp] theorem State.setGrp_jobPages (f : Group → Group) : (s.setGrp f).jobPages = s.jobPages := rfl
@[simp] theorem State.setGrp_inj (f : Group → Group) : (s.setGrp f).inj = s.inj := rfl
@[simp] theorem State.setGrp_out (f : Group → Group) : (s.setGrp f).out = s.out := rfl
@[simp] theorem State.setGrp_hostReqs (f : Group → Group) : (s.setGrp f).hostReqs = s.hostReqs := rfl
@[simp] theorem State.setGrp_kslots (f : Group → Group) : (s.setGrp f).kslots = s.kslots := rfl
@[simp] theorem State.setGrp_streams (f : Group → Group) : (s.setGrp f).streams = s.streams := rfl
@[simp] theorem State.setGrp_log (f : Group → Group) : (s.setGrp f).log = s.log := rfl
@[simp] theorem State.setGrp_tdis (f : Group → Group) : (s.setGrp f).tdis = s.tdis := rfl
@[simp] theorem State.setGrp_spdm (f : Group → Group) : (s.setGrp f).spdm = s.spdm := rfl
@[simp] theorem State.setGrp_meas (f : Group → Group) : (s.setGrp f).meas = s.meas := rfl
@[simp] theorem State.setGrp_firmware (f : Group → Group) : (s.setGrp f).firmware = s.firmware := rfl
@[simp] theorem State.setGrp_clusters (f : Group → Group) : (s.setGrp f).clusters = s.clusters := rfl
@[simp] theorem State.setGrp_bridle (f : Group → Group) : (s.setGrp f).bridle = s.bridle := rfl
@[simp] theorem State.setGrp_ports (f : Group → Group) : (s.setGrp f).ports = s.ports := rfl
@[simp] theorem State.setGrp_txStreams (f : Group → Group) : (s.setGrp f).txStreams = s.txStreams := rfl
@[simp] theorem State.setGrp_flits (f : Group → Group) : (s.setGrp f).flits = s.flits := rfl
@[simp] theorem State.setGrp_rxStreams (f : Group → Group) : (s.setGrp f).rxStreams = s.rxStreams := rfl
@[simp] theorem State.setGrp_exportPins (f : Group → Group) : (s.setGrp f).exportPins = s.exportPins := rfl
@[simp] theorem State.setGrp_contributions (f : Group → Group) : (s.setGrp f).contributions = s.contributions := rfl
@[simp] theorem State.setGrp_aredCount (f : Group → Group) : (s.setGrp f).aredCount = s.aredCount := rfl
@[simp] theorem State.setGrp_agenda (f : Group → Group) : (s.setGrp f).agenda = s.agenda := rfl
@[simp] theorem State.setGrp_turns (f : Group → Group) : (s.setGrp f).turns = s.turns := rfl
@[simp] theorem State.setGrp_turn (f : Group → Group) : (s.setGrp f).turn = s.turn := rfl
@[simp] theorem State.setGrp_picks (f : Group → Group) : (s.setGrp f).picks = s.picks := rfl
@[simp] theorem State.setGrp_fresh (f : Group → Group) : (s.setGrp f).fresh = s.fresh := rfl
@[simp] theorem State.setGrp_nextId (f : Group → Group) : (s.setGrp f).nextId = s.nextId := rfl
@[simp] theorem State.setGrp_nextRot (f : Group → Group) : (s.setGrp f).nextRot = s.nextRot := rfl
@[simp] theorem State.setGrp_nextOrder (f : Group → Group) : (s.setGrp f).nextOrder = s.nextOrder := rfl

/-! ### Change of every group -/

@[simp] theorem State.mapGroups_live (f : Group → Group) : (s.mapGroups f).live = s.live := rfl
@[simp] theorem State.mapGroups_grp (f : Group → Group) : (s.mapGroups f).grp = f s.grp := rfl
@[simp] theorem State.mapGroups_frag (f : Group → Group) : (s.mapGroups f).frag = s.frag := rfl
@[simp] theorem State.mapGroups_groups (f : Group → Group) : (s.mapGroups f).groups = s.groups.map f := rfl
@[simp] theorem State.mapGroups_latch (f : Group → Group) : (s.mapGroups f).latch = s.latch := rfl
@[simp] theorem State.mapGroups_blocks (f : Group → Group) : (s.mapGroups f).blocks = s.blocks := rfl
@[simp] theorem State.mapGroups_clusterLaunches (f : Group → Group) : (s.mapGroups f).clusterLaunches = s.clusterLaunches := rfl
@[simp] theorem State.mapGroups_ops (f : Group → Group) : (s.mapGroups f).ops = s.ops := rfl
@[simp] theorem State.mapGroups_fences (f : Group → Group) : (s.mapGroups f).fences = s.fences := rfl
@[simp] theorem State.mapGroups_windows (f : Group → Group) : (s.mapGroups f).windows = s.windows := rfl
@[simp] theorem State.mapGroups_spills (f : Group → Group) : (s.mapGroups f).spills = s.spills := rfl
@[simp] theorem State.mapGroups_copyRuns (f : Group → Group) : (s.mapGroups f).copyRuns = s.copyRuns := rfl
@[simp] theorem State.mapGroups_launches (f : Group → Group) : (s.mapGroups f).launches = s.launches := rfl
@[simp] theorem State.mapGroups_queues (f : Group → Group) : (s.mapGroups f).queues = s.queues := rfl
@[simp] theorem State.mapGroups_jobs (f : Group → Group) : (s.mapGroups f).jobs = s.jobs := rfl
@[simp] theorem State.mapGroups_jobsNext (f : Group → Group) : (s.mapGroups f).jobsNext = s.jobsNext := rfl
@[simp] theorem State.mapGroups_counters (f : Group → Group) : (s.mapGroups f).counters = s.counters := rfl
@[simp] theorem State.mapGroups_tables (f : Group → Group) : (s.mapGroups f).tables = s.tables := rfl
@[simp] theorem State.mapGroups_btc (f : Group → Group) : (s.mapGroups f).btc = s.btc := rfl
@[simp] theorem State.mapGroups_pins (f : Group → Group) : (s.mapGroups f).pins = s.pins := rfl
@[simp] theorem State.mapGroups_mem (f : Group → Group) : (s.mapGroups f).mem = s.mem := rfl
@[simp] theorem State.mapGroups_dirty (f : Group → Group) : (s.mapGroups f).dirty = s.dirty := rfl
@[simp] theorem State.mapGroups_hostMem (f : Group → Group) : (s.mapGroups f).hostMem = s.hostMem := rfl
@[simp] theorem State.mapGroups_poison (f : Group → Group) : (s.mapGroups f).poison = s.poison := rfl
@[simp] theorem State.mapGroups_correctable (f : Group → Group) : (s.mapGroups f).correctable = s.correctable := rfl
@[simp] theorem State.mapGroups_scrubAt (f : Group → Group) : (s.mapGroups f).scrubAt = s.scrubAt := rfl
@[simp] theorem State.mapGroups_retired (f : Group → Group) : (s.mapGroups f).retired = s.retired := rfl
@[simp] theorem State.mapGroups_retiring (f : Group → Group) : (s.mapGroups f).retiring = s.retiring := rfl
@[simp] theorem State.mapGroups_tlb (f : Group → Group) : (s.mapGroups f).tlb = s.tlb := rfl
@[simp] theorem State.mapGroups_l1 (f : Group → Group) : (s.mapGroups f).l1 = s.l1 := rfl
@[simp] theorem State.mapGroups_atc (f : Group → Group) : (s.mapGroups f).atc = s.atc := rfl
@[simp] theorem State.mapGroups_ready (f : Group → Group) : (s.mapGroups f).ready = s.ready := rfl
@[simp] theorem State.mapGroups_modeSplit (f : Group → Group) : (s.mapGroups f).modeSplit = s.modeSplit := rfl
@[simp] theorem State.mapGroups_bar2Win (f : Group → Group) : (s.mapGroups f).bar2Win = s.bar2Win := rfl
@[simp] theorem State.mapGroups_pwrLim (f : Group → Group) : (s.mapGroups f).pwrLim = s.pwrLim := rfl
@[simp] theorem State.mapGroups_dumpA (f : Group → Group) : (s.mapGroups f).dumpA = s.dumpA := rfl
@[simp] theorem State.mapGroups_traceA (f : Group → Group) : (s.mapGroups f).traceA = s.traceA := rfl
@[simp] theorem State.mapGroups_logA (f : Group → Group) : (s.mapGroups f).logA = s.logA := rfl
@[simp] theorem State.mapGroups_devId (f : Group → Group) : (s.mapGroups f).devId = s.devId := rfl
@[simp] theorem State.mapGroups_power (f : Group → Group) : (s.mapGroups f).power = s.power := rfl
@[simp] theorem State.mapGroups_clocks (f : Group → Group) : (s.mapGroups f).clocks = s.clocks := rfl
@[simp] theorem State.mapGroups_lock (f : Group → Group) : (s.mapGroups f).lock = s.lock := rfl
@[simp] theorem State.mapGroups_lockBroken (f : Group → Group) : (s.mapGroups f).lockBroken = s.lockBroken := rfl
@[simp] theorem State.mapGroups_time (f : Group → Group) : (s.mapGroups f).time = s.time := rfl
@[simp] theorem State.mapGroups_dbg (f : Group → Group) : (s.mapGroups f).dbg = s.dbg := rfl
@[simp] theorem State.mapGroups_counts (f : Group → Group) : (s.mapGroups f).counts = s.counts := rfl
@[simp] theorem State.mapGroups_traceNext (f : Group → Group) : (s.mapGroups f).traceNext = s.traceNext := rfl
@[simp] theorem State.mapGroups_traceWait (f : Group → Group) : (s.mapGroups f).traceWait = s.traceWait := rfl
@[simp] theorem State.mapGroups_heldBars (f : Group → Group) : (s.mapGroups f).heldBars = s.heldBars := rfl
@[simp] theorem State.mapGroups_errorLog (f : Group → Group) : (s.mapGroups f).errorLog = s.errorLog := rfl
@[simp] theorem State.mapGroups_replay (f : Group → Group) : (s.mapGroups f).replay = s.replay := rfl
@[simp] theorem State.mapGroups_follow (f : Group → Group) : (s.mapGroups f).follow = s.follow := rfl
@[simp] theorem State.mapGroups_hostWritten (f : Group → Group) : (s.mapGroups f).hostWritten = s.hostWritten := rfl
@[simp] theorem State.mapGroups_jobPages (f : Group → Group) : (s.mapGroups f).jobPages = s.jobPages := rfl
@[simp] theorem State.mapGroups_inj (f : Group → Group) : (s.mapGroups f).inj = s.inj := rfl
@[simp] theorem State.mapGroups_out (f : Group → Group) : (s.mapGroups f).out = s.out := rfl
@[simp] theorem State.mapGroups_hostReqs (f : Group → Group) : (s.mapGroups f).hostReqs = s.hostReqs := rfl
@[simp] theorem State.mapGroups_kslots (f : Group → Group) : (s.mapGroups f).kslots = s.kslots := rfl
@[simp] theorem State.mapGroups_streams (f : Group → Group) : (s.mapGroups f).streams = s.streams := rfl
@[simp] theorem State.mapGroups_log (f : Group → Group) : (s.mapGroups f).log = s.log := rfl
@[simp] theorem State.mapGroups_tdis (f : Group → Group) : (s.mapGroups f).tdis = s.tdis := rfl
@[simp] theorem State.mapGroups_spdm (f : Group → Group) : (s.mapGroups f).spdm = s.spdm := rfl
@[simp] theorem State.mapGroups_meas (f : Group → Group) : (s.mapGroups f).meas = s.meas := rfl
@[simp] theorem State.mapGroups_firmware (f : Group → Group) : (s.mapGroups f).firmware = s.firmware := rfl
@[simp] theorem State.mapGroups_clusters (f : Group → Group) : (s.mapGroups f).clusters = s.clusters := rfl
@[simp] theorem State.mapGroups_bridle (f : Group → Group) : (s.mapGroups f).bridle = s.bridle := rfl
@[simp] theorem State.mapGroups_ports (f : Group → Group) : (s.mapGroups f).ports = s.ports := rfl
@[simp] theorem State.mapGroups_txStreams (f : Group → Group) : (s.mapGroups f).txStreams = s.txStreams := rfl
@[simp] theorem State.mapGroups_flits (f : Group → Group) : (s.mapGroups f).flits = s.flits := rfl
@[simp] theorem State.mapGroups_rxStreams (f : Group → Group) : (s.mapGroups f).rxStreams = s.rxStreams := rfl
@[simp] theorem State.mapGroups_exportPins (f : Group → Group) : (s.mapGroups f).exportPins = s.exportPins := rfl
@[simp] theorem State.mapGroups_contributions (f : Group → Group) : (s.mapGroups f).contributions = s.contributions := rfl
@[simp] theorem State.mapGroups_aredCount (f : Group → Group) : (s.mapGroups f).aredCount = s.aredCount := rfl
@[simp] theorem State.mapGroups_agenda (f : Group → Group) : (s.mapGroups f).agenda = s.agenda := rfl
@[simp] theorem State.mapGroups_turns (f : Group → Group) : (s.mapGroups f).turns = s.turns := rfl
@[simp] theorem State.mapGroups_turn (f : Group → Group) : (s.mapGroups f).turn = s.turn := rfl
@[simp] theorem State.mapGroups_picks (f : Group → Group) : (s.mapGroups f).picks = s.picks := rfl
@[simp] theorem State.mapGroups_fresh (f : Group → Group) : (s.mapGroups f).fresh = s.fresh := rfl
@[simp] theorem State.mapGroups_nextId (f : Group → Group) : (s.mapGroups f).nextId = s.nextId := rfl
@[simp] theorem State.mapGroups_nextRot (f : Group → Group) : (s.mapGroups f).nextRot = s.nextRot := rfl
@[simp] theorem State.mapGroups_nextOrder (f : Group → Group) : (s.mapGroups f).nextOrder = s.nextOrder := rfl

/-! ### Last-read frees -/

@[simp] theorem State.freeNames_live (ns : List Reg) : (s.freeNames ns).live = s.live := rfl
@[simp] theorem State.freeNames_grp (ns : List Reg) : (s.freeNames ns).grp = ns.foldl Group.freeName s.grp := rfl
@[simp] theorem State.freeNames_frag (ns : List Reg) : (s.freeNames ns).frag = s.frag := rfl
@[simp] theorem State.freeNames_groups (ns : List Reg) : (s.freeNames ns).groups = s.groups := rfl
@[simp] theorem State.freeNames_latch (ns : List Reg) : (s.freeNames ns).latch = s.latch := rfl
@[simp] theorem State.freeNames_blocks (ns : List Reg) : (s.freeNames ns).blocks = s.blocks := rfl
@[simp] theorem State.freeNames_clusterLaunches (ns : List Reg) : (s.freeNames ns).clusterLaunches = s.clusterLaunches := rfl
@[simp] theorem State.freeNames_ops (ns : List Reg) : (s.freeNames ns).ops = s.ops := rfl
@[simp] theorem State.freeNames_fences (ns : List Reg) : (s.freeNames ns).fences = s.fences := rfl
@[simp] theorem State.freeNames_windows (ns : List Reg) : (s.freeNames ns).windows = s.windows := rfl
@[simp] theorem State.freeNames_spills (ns : List Reg) : (s.freeNames ns).spills = s.spills := rfl
@[simp] theorem State.freeNames_copyRuns (ns : List Reg) : (s.freeNames ns).copyRuns = s.copyRuns := rfl
@[simp] theorem State.freeNames_launches (ns : List Reg) : (s.freeNames ns).launches = s.launches := rfl
@[simp] theorem State.freeNames_queues (ns : List Reg) : (s.freeNames ns).queues = s.queues := rfl
@[simp] theorem State.freeNames_jobs (ns : List Reg) : (s.freeNames ns).jobs = s.jobs := rfl
@[simp] theorem State.freeNames_jobsNext (ns : List Reg) : (s.freeNames ns).jobsNext = s.jobsNext := rfl
@[simp] theorem State.freeNames_counters (ns : List Reg) : (s.freeNames ns).counters = s.counters := rfl
@[simp] theorem State.freeNames_tables (ns : List Reg) : (s.freeNames ns).tables = s.tables := rfl
@[simp] theorem State.freeNames_btc (ns : List Reg) : (s.freeNames ns).btc = s.btc := rfl
@[simp] theorem State.freeNames_pins (ns : List Reg) : (s.freeNames ns).pins = s.pins := rfl
@[simp] theorem State.freeNames_mem (ns : List Reg) : (s.freeNames ns).mem = s.mem := rfl
@[simp] theorem State.freeNames_dirty (ns : List Reg) : (s.freeNames ns).dirty = s.dirty := rfl
@[simp] theorem State.freeNames_hostMem (ns : List Reg) : (s.freeNames ns).hostMem = s.hostMem := rfl
@[simp] theorem State.freeNames_poison (ns : List Reg) : (s.freeNames ns).poison = s.poison := rfl
@[simp] theorem State.freeNames_correctable (ns : List Reg) : (s.freeNames ns).correctable = s.correctable := rfl
@[simp] theorem State.freeNames_scrubAt (ns : List Reg) : (s.freeNames ns).scrubAt = s.scrubAt := rfl
@[simp] theorem State.freeNames_retired (ns : List Reg) : (s.freeNames ns).retired = s.retired := rfl
@[simp] theorem State.freeNames_retiring (ns : List Reg) : (s.freeNames ns).retiring = s.retiring := rfl
@[simp] theorem State.freeNames_tlb (ns : List Reg) : (s.freeNames ns).tlb = s.tlb := rfl
@[simp] theorem State.freeNames_l1 (ns : List Reg) : (s.freeNames ns).l1 = s.l1 := rfl
@[simp] theorem State.freeNames_atc (ns : List Reg) : (s.freeNames ns).atc = s.atc := rfl
@[simp] theorem State.freeNames_ready (ns : List Reg) : (s.freeNames ns).ready = s.ready := rfl
@[simp] theorem State.freeNames_modeSplit (ns : List Reg) : (s.freeNames ns).modeSplit = s.modeSplit := rfl
@[simp] theorem State.freeNames_bar2Win (ns : List Reg) : (s.freeNames ns).bar2Win = s.bar2Win := rfl
@[simp] theorem State.freeNames_pwrLim (ns : List Reg) : (s.freeNames ns).pwrLim = s.pwrLim := rfl
@[simp] theorem State.freeNames_dumpA (ns : List Reg) : (s.freeNames ns).dumpA = s.dumpA := rfl
@[simp] theorem State.freeNames_traceA (ns : List Reg) : (s.freeNames ns).traceA = s.traceA := rfl
@[simp] theorem State.freeNames_logA (ns : List Reg) : (s.freeNames ns).logA = s.logA := rfl
@[simp] theorem State.freeNames_devId (ns : List Reg) : (s.freeNames ns).devId = s.devId := rfl
@[simp] theorem State.freeNames_power (ns : List Reg) : (s.freeNames ns).power = s.power := rfl
@[simp] theorem State.freeNames_clocks (ns : List Reg) : (s.freeNames ns).clocks = s.clocks := rfl
@[simp] theorem State.freeNames_lock (ns : List Reg) : (s.freeNames ns).lock = s.lock := rfl
@[simp] theorem State.freeNames_lockBroken (ns : List Reg) : (s.freeNames ns).lockBroken = s.lockBroken := rfl
@[simp] theorem State.freeNames_time (ns : List Reg) : (s.freeNames ns).time = s.time := rfl
@[simp] theorem State.freeNames_dbg (ns : List Reg) : (s.freeNames ns).dbg = s.dbg := rfl
@[simp] theorem State.freeNames_counts (ns : List Reg) : (s.freeNames ns).counts = s.counts := rfl
@[simp] theorem State.freeNames_traceNext (ns : List Reg) : (s.freeNames ns).traceNext = s.traceNext := rfl
@[simp] theorem State.freeNames_traceWait (ns : List Reg) : (s.freeNames ns).traceWait = s.traceWait := rfl
@[simp] theorem State.freeNames_heldBars (ns : List Reg) : (s.freeNames ns).heldBars = s.heldBars := rfl
@[simp] theorem State.freeNames_errorLog (ns : List Reg) : (s.freeNames ns).errorLog = s.errorLog := rfl
@[simp] theorem State.freeNames_replay (ns : List Reg) : (s.freeNames ns).replay = s.replay := rfl
@[simp] theorem State.freeNames_follow (ns : List Reg) : (s.freeNames ns).follow = s.follow := rfl
@[simp] theorem State.freeNames_hostWritten (ns : List Reg) : (s.freeNames ns).hostWritten = s.hostWritten := rfl
@[simp] theorem State.freeNames_jobPages (ns : List Reg) : (s.freeNames ns).jobPages = s.jobPages := rfl
@[simp] theorem State.freeNames_inj (ns : List Reg) : (s.freeNames ns).inj = s.inj := rfl
@[simp] theorem State.freeNames_out (ns : List Reg) : (s.freeNames ns).out = s.out := rfl
@[simp] theorem State.freeNames_hostReqs (ns : List Reg) : (s.freeNames ns).hostReqs = s.hostReqs := rfl
@[simp] theorem State.freeNames_kslots (ns : List Reg) : (s.freeNames ns).kslots = s.kslots := rfl
@[simp] theorem State.freeNames_streams (ns : List Reg) : (s.freeNames ns).streams = s.streams := rfl
@[simp] theorem State.freeNames_log (ns : List Reg) : (s.freeNames ns).log = s.log := rfl
@[simp] theorem State.freeNames_tdis (ns : List Reg) : (s.freeNames ns).tdis = s.tdis := rfl
@[simp] theorem State.freeNames_spdm (ns : List Reg) : (s.freeNames ns).spdm = s.spdm := rfl
@[simp] theorem State.freeNames_meas (ns : List Reg) : (s.freeNames ns).meas = s.meas := rfl
@[simp] theorem State.freeNames_firmware (ns : List Reg) : (s.freeNames ns).firmware = s.firmware := rfl
@[simp] theorem State.freeNames_clusters (ns : List Reg) : (s.freeNames ns).clusters = s.clusters := rfl
@[simp] theorem State.freeNames_bridle (ns : List Reg) : (s.freeNames ns).bridle = s.bridle := rfl
@[simp] theorem State.freeNames_ports (ns : List Reg) : (s.freeNames ns).ports = s.ports := rfl
@[simp] theorem State.freeNames_txStreams (ns : List Reg) : (s.freeNames ns).txStreams = s.txStreams := rfl
@[simp] theorem State.freeNames_flits (ns : List Reg) : (s.freeNames ns).flits = s.flits := rfl
@[simp] theorem State.freeNames_rxStreams (ns : List Reg) : (s.freeNames ns).rxStreams = s.rxStreams := rfl
@[simp] theorem State.freeNames_exportPins (ns : List Reg) : (s.freeNames ns).exportPins = s.exportPins := rfl
@[simp] theorem State.freeNames_contributions (ns : List Reg) : (s.freeNames ns).contributions = s.contributions := rfl
@[simp] theorem State.freeNames_aredCount (ns : List Reg) : (s.freeNames ns).aredCount = s.aredCount := rfl
@[simp] theorem State.freeNames_agenda (ns : List Reg) : (s.freeNames ns).agenda = s.agenda := rfl
@[simp] theorem State.freeNames_turns (ns : List Reg) : (s.freeNames ns).turns = s.turns := rfl
@[simp] theorem State.freeNames_turn (ns : List Reg) : (s.freeNames ns).turn = s.turn := rfl
@[simp] theorem State.freeNames_picks (ns : List Reg) : (s.freeNames ns).picks = s.picks := rfl
@[simp] theorem State.freeNames_fresh (ns : List Reg) : (s.freeNames ns).fresh = s.fresh := rfl
@[simp] theorem State.freeNames_nextId (ns : List Reg) : (s.freeNames ns).nextId = s.nextId := rfl
@[simp] theorem State.freeNames_nextRot (ns : List Reg) : (s.freeNames ns).nextRot = s.nextRot := rfl
@[simp] theorem State.freeNames_nextOrder (ns : List Reg) : (s.freeNames ns).nextOrder = s.nextOrder := rfl

/-! ### Reads of unmapped names -/

@[simp] theorem State.touch_live (ns : List Reg) : (s.touch ns).live = s.live := by unfold State.touch; split <;> rfl
@[simp] theorem State.touch_frag (ns : List Reg) : (s.touch ns).frag = s.frag := by unfold State.touch; split <;> rfl
@[simp] theorem State.touch_groups (ns : List Reg) : (s.touch ns).groups = s.groups := by unfold State.touch; split <;> rfl
@[simp] theorem State.touch_latch (ns : List Reg) : (s.touch ns).latch = s.latch := by unfold State.touch; split <;> rfl
@[simp] theorem State.touch_blocks (ns : List Reg) : (s.touch ns).blocks = s.blocks := by unfold State.touch; split <;> rfl
@[simp] theorem State.touch_clusterLaunches (ns : List Reg) : (s.touch ns).clusterLaunches = s.clusterLaunches := by unfold State.touch; split <;> rfl
@[simp] theorem State.touch_ops (ns : List Reg) : (s.touch ns).ops = s.ops := by unfold State.touch; split <;> rfl
@[simp] theorem State.touch_fences (ns : List Reg) : (s.touch ns).fences = s.fences := by unfold State.touch; split <;> rfl
@[simp] theorem State.touch_windows (ns : List Reg) : (s.touch ns).windows = s.windows := by unfold State.touch; split <;> rfl
@[simp] theorem State.touch_spills (ns : List Reg) : (s.touch ns).spills = s.spills := by unfold State.touch; split <;> rfl
@[simp] theorem State.touch_copyRuns (ns : List Reg) : (s.touch ns).copyRuns = s.copyRuns := by unfold State.touch; split <;> rfl
@[simp] theorem State.touch_launches (ns : List Reg) : (s.touch ns).launches = s.launches := by unfold State.touch; split <;> rfl
@[simp] theorem State.touch_queues (ns : List Reg) : (s.touch ns).queues = s.queues := by unfold State.touch; split <;> rfl
@[simp] theorem State.touch_jobs (ns : List Reg) : (s.touch ns).jobs = s.jobs := by unfold State.touch; split <;> rfl
@[simp] theorem State.touch_jobsNext (ns : List Reg) : (s.touch ns).jobsNext = s.jobsNext := by unfold State.touch; split <;> rfl
@[simp] theorem State.touch_counters (ns : List Reg) : (s.touch ns).counters = s.counters := by unfold State.touch; split <;> rfl
@[simp] theorem State.touch_tables (ns : List Reg) : (s.touch ns).tables = s.tables := by unfold State.touch; split <;> rfl
@[simp] theorem State.touch_btc (ns : List Reg) : (s.touch ns).btc = s.btc := by unfold State.touch; split <;> rfl
@[simp] theorem State.touch_pins (ns : List Reg) : (s.touch ns).pins = s.pins := by unfold State.touch; split <;> rfl
@[simp] theorem State.touch_mem (ns : List Reg) : (s.touch ns).mem = s.mem := by unfold State.touch; split <;> rfl
@[simp] theorem State.touch_dirty (ns : List Reg) : (s.touch ns).dirty = s.dirty := by unfold State.touch; split <;> rfl
@[simp] theorem State.touch_hostMem (ns : List Reg) : (s.touch ns).hostMem = s.hostMem := by unfold State.touch; split <;> rfl
@[simp] theorem State.touch_poison (ns : List Reg) : (s.touch ns).poison = s.poison := by unfold State.touch; split <;> rfl
@[simp] theorem State.touch_correctable (ns : List Reg) : (s.touch ns).correctable = s.correctable := by unfold State.touch; split <;> rfl
@[simp] theorem State.touch_scrubAt (ns : List Reg) : (s.touch ns).scrubAt = s.scrubAt := by unfold State.touch; split <;> rfl
@[simp] theorem State.touch_retired (ns : List Reg) : (s.touch ns).retired = s.retired := by unfold State.touch; split <;> rfl
@[simp] theorem State.touch_retiring (ns : List Reg) : (s.touch ns).retiring = s.retiring := by unfold State.touch; split <;> rfl
@[simp] theorem State.touch_tlb (ns : List Reg) : (s.touch ns).tlb = s.tlb := by unfold State.touch; split <;> rfl
@[simp] theorem State.touch_l1 (ns : List Reg) : (s.touch ns).l1 = s.l1 := by unfold State.touch; split <;> rfl
@[simp] theorem State.touch_atc (ns : List Reg) : (s.touch ns).atc = s.atc := by unfold State.touch; split <;> rfl
@[simp] theorem State.touch_ready (ns : List Reg) : (s.touch ns).ready = s.ready := by unfold State.touch; split <;> rfl
@[simp] theorem State.touch_modeSplit (ns : List Reg) : (s.touch ns).modeSplit = s.modeSplit := by unfold State.touch; split <;> rfl
@[simp] theorem State.touch_bar2Win (ns : List Reg) : (s.touch ns).bar2Win = s.bar2Win := by unfold State.touch; split <;> rfl
@[simp] theorem State.touch_pwrLim (ns : List Reg) : (s.touch ns).pwrLim = s.pwrLim := by unfold State.touch; split <;> rfl
@[simp] theorem State.touch_dumpA (ns : List Reg) : (s.touch ns).dumpA = s.dumpA := by unfold State.touch; split <;> rfl
@[simp] theorem State.touch_traceA (ns : List Reg) : (s.touch ns).traceA = s.traceA := by unfold State.touch; split <;> rfl
@[simp] theorem State.touch_logA (ns : List Reg) : (s.touch ns).logA = s.logA := by unfold State.touch; split <;> rfl
@[simp] theorem State.touch_devId (ns : List Reg) : (s.touch ns).devId = s.devId := by unfold State.touch; split <;> rfl
@[simp] theorem State.touch_power (ns : List Reg) : (s.touch ns).power = s.power := by unfold State.touch; split <;> rfl
@[simp] theorem State.touch_clocks (ns : List Reg) : (s.touch ns).clocks = s.clocks := by unfold State.touch; split <;> rfl
@[simp] theorem State.touch_lock (ns : List Reg) : (s.touch ns).lock = s.lock := by unfold State.touch; split <;> rfl
@[simp] theorem State.touch_lockBroken (ns : List Reg) : (s.touch ns).lockBroken = s.lockBroken := by unfold State.touch; split <;> rfl
@[simp] theorem State.touch_time (ns : List Reg) : (s.touch ns).time = s.time := by unfold State.touch; split <;> rfl
@[simp] theorem State.touch_dbg (ns : List Reg) : (s.touch ns).dbg = s.dbg := by unfold State.touch; split <;> rfl
@[simp] theorem State.touch_counts (ns : List Reg) : (s.touch ns).counts = s.counts := by unfold State.touch; split <;> rfl
@[simp] theorem State.touch_traceNext (ns : List Reg) : (s.touch ns).traceNext = s.traceNext := by unfold State.touch; split <;> rfl
@[simp] theorem State.touch_traceWait (ns : List Reg) : (s.touch ns).traceWait = s.traceWait := by unfold State.touch; split <;> rfl
@[simp] theorem State.touch_heldBars (ns : List Reg) : (s.touch ns).heldBars = s.heldBars := by unfold State.touch; split <;> rfl
@[simp] theorem State.touch_errorLog (ns : List Reg) : (s.touch ns).errorLog = s.errorLog := by unfold State.touch; split <;> rfl
@[simp] theorem State.touch_replay (ns : List Reg) : (s.touch ns).replay = s.replay := by unfold State.touch; split <;> rfl
@[simp] theorem State.touch_follow (ns : List Reg) : (s.touch ns).follow = s.follow := by unfold State.touch; split <;> rfl
@[simp] theorem State.touch_hostWritten (ns : List Reg) : (s.touch ns).hostWritten = s.hostWritten := by unfold State.touch; split <;> rfl
@[simp] theorem State.touch_jobPages (ns : List Reg) : (s.touch ns).jobPages = s.jobPages := by unfold State.touch; split <;> rfl
@[simp] theorem State.touch_inj (ns : List Reg) : (s.touch ns).inj = s.inj := by unfold State.touch; split <;> rfl
@[simp] theorem State.touch_out (ns : List Reg) : (s.touch ns).out = s.out := by unfold State.touch; split <;> rfl
@[simp] theorem State.touch_hostReqs (ns : List Reg) : (s.touch ns).hostReqs = s.hostReqs := by unfold State.touch; split <;> rfl
@[simp] theorem State.touch_kslots (ns : List Reg) : (s.touch ns).kslots = s.kslots := by unfold State.touch; split <;> rfl
@[simp] theorem State.touch_streams (ns : List Reg) : (s.touch ns).streams = s.streams := by unfold State.touch; split <;> rfl
@[simp] theorem State.touch_log (ns : List Reg) : (s.touch ns).log = s.log := by unfold State.touch; split <;> rfl
@[simp] theorem State.touch_tdis (ns : List Reg) : (s.touch ns).tdis = s.tdis := by unfold State.touch; split <;> rfl
@[simp] theorem State.touch_spdm (ns : List Reg) : (s.touch ns).spdm = s.spdm := by unfold State.touch; split <;> rfl
@[simp] theorem State.touch_meas (ns : List Reg) : (s.touch ns).meas = s.meas := by unfold State.touch; split <;> rfl
@[simp] theorem State.touch_firmware (ns : List Reg) : (s.touch ns).firmware = s.firmware := by unfold State.touch; split <;> rfl
@[simp] theorem State.touch_clusters (ns : List Reg) : (s.touch ns).clusters = s.clusters := by unfold State.touch; split <;> rfl
@[simp] theorem State.touch_bridle (ns : List Reg) : (s.touch ns).bridle = s.bridle := by unfold State.touch; split <;> rfl
@[simp] theorem State.touch_ports (ns : List Reg) : (s.touch ns).ports = s.ports := by unfold State.touch; split <;> rfl
@[simp] theorem State.touch_txStreams (ns : List Reg) : (s.touch ns).txStreams = s.txStreams := by unfold State.touch; split <;> rfl
@[simp] theorem State.touch_flits (ns : List Reg) : (s.touch ns).flits = s.flits := by unfold State.touch; split <;> rfl
@[simp] theorem State.touch_rxStreams (ns : List Reg) : (s.touch ns).rxStreams = s.rxStreams := by unfold State.touch; split <;> rfl
@[simp] theorem State.touch_exportPins (ns : List Reg) : (s.touch ns).exportPins = s.exportPins := by unfold State.touch; split <;> rfl
@[simp] theorem State.touch_contributions (ns : List Reg) : (s.touch ns).contributions = s.contributions := by unfold State.touch; split <;> rfl
@[simp] theorem State.touch_aredCount (ns : List Reg) : (s.touch ns).aredCount = s.aredCount := by unfold State.touch; split <;> rfl
@[simp] theorem State.touch_agenda (ns : List Reg) : (s.touch ns).agenda = s.agenda := by unfold State.touch; split <;> rfl
@[simp] theorem State.touch_turns (ns : List Reg) : (s.touch ns).turns = s.turns := by unfold State.touch; split <;> rfl
@[simp] theorem State.touch_turn (ns : List Reg) : (s.touch ns).turn = s.turn := by unfold State.touch; split <;> rfl
@[simp] theorem State.touch_picks (ns : List Reg) : (s.touch ns).picks = s.picks := by unfold State.touch; split <;> rfl
@[simp] theorem State.touch_fresh (ns : List Reg) : (s.touch ns).fresh = s.fresh := by unfold State.touch; split <;> rfl
@[simp] theorem State.touch_nextId (ns : List Reg) : (s.touch ns).nextId = s.nextId := by unfold State.touch; split <;> rfl
@[simp] theorem State.touch_nextRot (ns : List Reg) : (s.touch ns).nextRot = s.nextRot := by unfold State.touch; split <;> rfl
@[simp] theorem State.touch_nextOrder (ns : List Reg) : (s.touch ns).nextOrder = s.nextOrder := by unfold State.touch; split <;> rfl

/-! ### Write of a vector name -/

@[simp] theorem State.writeV_live (n : Reg) (m : Mask) (r : VReg) (l : Nat) : (s.writeV n m r l).live = s.live := by obtain ⟨_, h⟩ := s.writeV_eq n m r l; rw [h]
@[simp] theorem State.writeV_grp (n : Reg) (m : Mask) (r : VReg) (l : Nat) : (s.writeV n m r l).grp = s.grp.writeV s.fresh 0 n m r l := by obtain ⟨_, h⟩ := s.writeV_eq n m r l; rw [h]
@[simp] theorem State.writeV_frag (n : Reg) (m : Mask) (r : VReg) (l : Nat) : (s.writeV n m r l).frag = s.frag := by obtain ⟨_, h⟩ := s.writeV_eq n m r l; rw [h]
@[simp] theorem State.writeV_groups (n : Reg) (m : Mask) (r : VReg) (l : Nat) : (s.writeV n m r l).groups = s.groups := by obtain ⟨_, h⟩ := s.writeV_eq n m r l; rw [h]
@[simp] theorem State.writeV_latch (n : Reg) (m : Mask) (r : VReg) (l : Nat) : (s.writeV n m r l).latch = s.latch := by obtain ⟨_, h⟩ := s.writeV_eq n m r l; rw [h]
@[simp] theorem State.writeV_clusterLaunches (n : Reg) (m : Mask) (r : VReg) (l : Nat) : (s.writeV n m r l).clusterLaunches = s.clusterLaunches := by obtain ⟨_, h⟩ := s.writeV_eq n m r l; rw [h]
@[simp] theorem State.writeV_ops (n : Reg) (m : Mask) (r : VReg) (l : Nat) : (s.writeV n m r l).ops = s.ops := by obtain ⟨_, h⟩ := s.writeV_eq n m r l; rw [h]
@[simp] theorem State.writeV_fences (n : Reg) (m : Mask) (r : VReg) (l : Nat) : (s.writeV n m r l).fences = s.fences := by obtain ⟨_, h⟩ := s.writeV_eq n m r l; rw [h]
@[simp] theorem State.writeV_windows (n : Reg) (m : Mask) (r : VReg) (l : Nat) : (s.writeV n m r l).windows = s.windows := by obtain ⟨_, h⟩ := s.writeV_eq n m r l; rw [h]
@[simp] theorem State.writeV_spills (n : Reg) (m : Mask) (r : VReg) (l : Nat) : (s.writeV n m r l).spills = s.spills := by obtain ⟨_, h⟩ := s.writeV_eq n m r l; rw [h]
@[simp] theorem State.writeV_copyRuns (n : Reg) (m : Mask) (r : VReg) (l : Nat) : (s.writeV n m r l).copyRuns = s.copyRuns := by obtain ⟨_, h⟩ := s.writeV_eq n m r l; rw [h]
@[simp] theorem State.writeV_launches (n : Reg) (m : Mask) (r : VReg) (l : Nat) : (s.writeV n m r l).launches = s.launches := by obtain ⟨_, h⟩ := s.writeV_eq n m r l; rw [h]
@[simp] theorem State.writeV_queues (n : Reg) (m : Mask) (r : VReg) (l : Nat) : (s.writeV n m r l).queues = s.queues := by obtain ⟨_, h⟩ := s.writeV_eq n m r l; rw [h]
@[simp] theorem State.writeV_jobs (n : Reg) (m : Mask) (r : VReg) (l : Nat) : (s.writeV n m r l).jobs = s.jobs := by obtain ⟨_, h⟩ := s.writeV_eq n m r l; rw [h]
@[simp] theorem State.writeV_jobsNext (n : Reg) (m : Mask) (r : VReg) (l : Nat) : (s.writeV n m r l).jobsNext = s.jobsNext := by obtain ⟨_, h⟩ := s.writeV_eq n m r l; rw [h]
@[simp] theorem State.writeV_counters (n : Reg) (m : Mask) (r : VReg) (l : Nat) : (s.writeV n m r l).counters = s.counters := by obtain ⟨_, h⟩ := s.writeV_eq n m r l; rw [h]
@[simp] theorem State.writeV_tables (n : Reg) (m : Mask) (r : VReg) (l : Nat) : (s.writeV n m r l).tables = s.tables := by obtain ⟨_, h⟩ := s.writeV_eq n m r l; rw [h]
@[simp] theorem State.writeV_btc (n : Reg) (m : Mask) (r : VReg) (l : Nat) : (s.writeV n m r l).btc = s.btc := by obtain ⟨_, h⟩ := s.writeV_eq n m r l; rw [h]
@[simp] theorem State.writeV_pins (n : Reg) (m : Mask) (r : VReg) (l : Nat) : (s.writeV n m r l).pins = s.pins := by obtain ⟨_, h⟩ := s.writeV_eq n m r l; rw [h]
@[simp] theorem State.writeV_mem (n : Reg) (m : Mask) (r : VReg) (l : Nat) : (s.writeV n m r l).mem = s.mem := by obtain ⟨_, h⟩ := s.writeV_eq n m r l; rw [h]
@[simp] theorem State.writeV_dirty (n : Reg) (m : Mask) (r : VReg) (l : Nat) : (s.writeV n m r l).dirty = s.dirty := by obtain ⟨_, h⟩ := s.writeV_eq n m r l; rw [h]
@[simp] theorem State.writeV_hostMem (n : Reg) (m : Mask) (r : VReg) (l : Nat) : (s.writeV n m r l).hostMem = s.hostMem := by obtain ⟨_, h⟩ := s.writeV_eq n m r l; rw [h]
@[simp] theorem State.writeV_poison (n : Reg) (m : Mask) (r : VReg) (l : Nat) : (s.writeV n m r l).poison = s.poison := by obtain ⟨_, h⟩ := s.writeV_eq n m r l; rw [h]
@[simp] theorem State.writeV_correctable (n : Reg) (m : Mask) (r : VReg) (l : Nat) : (s.writeV n m r l).correctable = s.correctable := by obtain ⟨_, h⟩ := s.writeV_eq n m r l; rw [h]
@[simp] theorem State.writeV_scrubAt (n : Reg) (m : Mask) (r : VReg) (l : Nat) : (s.writeV n m r l).scrubAt = s.scrubAt := by obtain ⟨_, h⟩ := s.writeV_eq n m r l; rw [h]
@[simp] theorem State.writeV_retired (n : Reg) (m : Mask) (r : VReg) (l : Nat) : (s.writeV n m r l).retired = s.retired := by obtain ⟨_, h⟩ := s.writeV_eq n m r l; rw [h]
@[simp] theorem State.writeV_retiring (n : Reg) (m : Mask) (r : VReg) (l : Nat) : (s.writeV n m r l).retiring = s.retiring := by obtain ⟨_, h⟩ := s.writeV_eq n m r l; rw [h]
@[simp] theorem State.writeV_tlb (n : Reg) (m : Mask) (r : VReg) (l : Nat) : (s.writeV n m r l).tlb = s.tlb := by obtain ⟨_, h⟩ := s.writeV_eq n m r l; rw [h]
@[simp] theorem State.writeV_l1 (n : Reg) (m : Mask) (r : VReg) (l : Nat) : (s.writeV n m r l).l1 = s.l1 := by obtain ⟨_, h⟩ := s.writeV_eq n m r l; rw [h]
@[simp] theorem State.writeV_atc (n : Reg) (m : Mask) (r : VReg) (l : Nat) : (s.writeV n m r l).atc = s.atc := by obtain ⟨_, h⟩ := s.writeV_eq n m r l; rw [h]
@[simp] theorem State.writeV_ready (n : Reg) (m : Mask) (r : VReg) (l : Nat) : (s.writeV n m r l).ready = s.ready := by obtain ⟨_, h⟩ := s.writeV_eq n m r l; rw [h]
@[simp] theorem State.writeV_modeSplit (n : Reg) (m : Mask) (r : VReg) (l : Nat) : (s.writeV n m r l).modeSplit = s.modeSplit := by obtain ⟨_, h⟩ := s.writeV_eq n m r l; rw [h]
@[simp] theorem State.writeV_bar2Win (n : Reg) (m : Mask) (r : VReg) (l : Nat) : (s.writeV n m r l).bar2Win = s.bar2Win := by obtain ⟨_, h⟩ := s.writeV_eq n m r l; rw [h]
@[simp] theorem State.writeV_pwrLim (n : Reg) (m : Mask) (r : VReg) (l : Nat) : (s.writeV n m r l).pwrLim = s.pwrLim := by obtain ⟨_, h⟩ := s.writeV_eq n m r l; rw [h]
@[simp] theorem State.writeV_dumpA (n : Reg) (m : Mask) (r : VReg) (l : Nat) : (s.writeV n m r l).dumpA = s.dumpA := by obtain ⟨_, h⟩ := s.writeV_eq n m r l; rw [h]
@[simp] theorem State.writeV_traceA (n : Reg) (m : Mask) (r : VReg) (l : Nat) : (s.writeV n m r l).traceA = s.traceA := by obtain ⟨_, h⟩ := s.writeV_eq n m r l; rw [h]
@[simp] theorem State.writeV_logA (n : Reg) (m : Mask) (r : VReg) (l : Nat) : (s.writeV n m r l).logA = s.logA := by obtain ⟨_, h⟩ := s.writeV_eq n m r l; rw [h]
@[simp] theorem State.writeV_devId (n : Reg) (m : Mask) (r : VReg) (l : Nat) : (s.writeV n m r l).devId = s.devId := by obtain ⟨_, h⟩ := s.writeV_eq n m r l; rw [h]
@[simp] theorem State.writeV_power (n : Reg) (m : Mask) (r : VReg) (l : Nat) : (s.writeV n m r l).power = s.power := by obtain ⟨_, h⟩ := s.writeV_eq n m r l; rw [h]
@[simp] theorem State.writeV_clocks (n : Reg) (m : Mask) (r : VReg) (l : Nat) : (s.writeV n m r l).clocks = s.clocks := by obtain ⟨_, h⟩ := s.writeV_eq n m r l; rw [h]
@[simp] theorem State.writeV_lock (n : Reg) (m : Mask) (r : VReg) (l : Nat) : (s.writeV n m r l).lock = s.lock := by obtain ⟨_, h⟩ := s.writeV_eq n m r l; rw [h]
@[simp] theorem State.writeV_lockBroken (n : Reg) (m : Mask) (r : VReg) (l : Nat) : (s.writeV n m r l).lockBroken = s.lockBroken := by obtain ⟨_, h⟩ := s.writeV_eq n m r l; rw [h]
@[simp] theorem State.writeV_time (n : Reg) (m : Mask) (r : VReg) (l : Nat) : (s.writeV n m r l).time = s.time := by obtain ⟨_, h⟩ := s.writeV_eq n m r l; rw [h]
@[simp] theorem State.writeV_dbg (n : Reg) (m : Mask) (r : VReg) (l : Nat) : (s.writeV n m r l).dbg = s.dbg := by obtain ⟨_, h⟩ := s.writeV_eq n m r l; rw [h]
@[simp] theorem State.writeV_counts (n : Reg) (m : Mask) (r : VReg) (l : Nat) : (s.writeV n m r l).counts = s.counts := by obtain ⟨_, h⟩ := s.writeV_eq n m r l; rw [h]
@[simp] theorem State.writeV_traceNext (n : Reg) (m : Mask) (r : VReg) (l : Nat) : (s.writeV n m r l).traceNext = s.traceNext := by obtain ⟨_, h⟩ := s.writeV_eq n m r l; rw [h]
@[simp] theorem State.writeV_traceWait (n : Reg) (m : Mask) (r : VReg) (l : Nat) : (s.writeV n m r l).traceWait = s.traceWait := by obtain ⟨_, h⟩ := s.writeV_eq n m r l; rw [h]
@[simp] theorem State.writeV_heldBars (n : Reg) (m : Mask) (r : VReg) (l : Nat) : (s.writeV n m r l).heldBars = s.heldBars := by obtain ⟨_, h⟩ := s.writeV_eq n m r l; rw [h]
@[simp] theorem State.writeV_errorLog (n : Reg) (m : Mask) (r : VReg) (l : Nat) : (s.writeV n m r l).errorLog = s.errorLog := by obtain ⟨_, h⟩ := s.writeV_eq n m r l; rw [h]
@[simp] theorem State.writeV_replay (n : Reg) (m : Mask) (r : VReg) (l : Nat) : (s.writeV n m r l).replay = s.replay := by obtain ⟨_, h⟩ := s.writeV_eq n m r l; rw [h]
@[simp] theorem State.writeV_follow (n : Reg) (m : Mask) (r : VReg) (l : Nat) : (s.writeV n m r l).follow = s.follow := by obtain ⟨_, h⟩ := s.writeV_eq n m r l; rw [h]
@[simp] theorem State.writeV_hostWritten (n : Reg) (m : Mask) (r : VReg) (l : Nat) : (s.writeV n m r l).hostWritten = s.hostWritten := by obtain ⟨_, h⟩ := s.writeV_eq n m r l; rw [h]
@[simp] theorem State.writeV_jobPages (n : Reg) (m : Mask) (r : VReg) (l : Nat) : (s.writeV n m r l).jobPages = s.jobPages := by obtain ⟨_, h⟩ := s.writeV_eq n m r l; rw [h]
@[simp] theorem State.writeV_inj (n : Reg) (m : Mask) (r : VReg) (l : Nat) : (s.writeV n m r l).inj = s.inj := by obtain ⟨_, h⟩ := s.writeV_eq n m r l; rw [h]
@[simp] theorem State.writeV_out (n : Reg) (m : Mask) (r : VReg) (l : Nat) : (s.writeV n m r l).out = s.out := by obtain ⟨_, h⟩ := s.writeV_eq n m r l; rw [h]
@[simp] theorem State.writeV_hostReqs (n : Reg) (m : Mask) (r : VReg) (l : Nat) : (s.writeV n m r l).hostReqs = s.hostReqs := by obtain ⟨_, h⟩ := s.writeV_eq n m r l; rw [h]
@[simp] theorem State.writeV_kslots (n : Reg) (m : Mask) (r : VReg) (l : Nat) : (s.writeV n m r l).kslots = s.kslots := by obtain ⟨_, h⟩ := s.writeV_eq n m r l; rw [h]
@[simp] theorem State.writeV_streams (n : Reg) (m : Mask) (r : VReg) (l : Nat) : (s.writeV n m r l).streams = s.streams := by obtain ⟨_, h⟩ := s.writeV_eq n m r l; rw [h]
@[simp] theorem State.writeV_log (n : Reg) (m : Mask) (r : VReg) (l : Nat) : (s.writeV n m r l).log = s.log := by obtain ⟨_, h⟩ := s.writeV_eq n m r l; rw [h]
@[simp] theorem State.writeV_tdis (n : Reg) (m : Mask) (r : VReg) (l : Nat) : (s.writeV n m r l).tdis = s.tdis := by obtain ⟨_, h⟩ := s.writeV_eq n m r l; rw [h]
@[simp] theorem State.writeV_spdm (n : Reg) (m : Mask) (r : VReg) (l : Nat) : (s.writeV n m r l).spdm = s.spdm := by obtain ⟨_, h⟩ := s.writeV_eq n m r l; rw [h]
@[simp] theorem State.writeV_meas (n : Reg) (m : Mask) (r : VReg) (l : Nat) : (s.writeV n m r l).meas = s.meas := by obtain ⟨_, h⟩ := s.writeV_eq n m r l; rw [h]
@[simp] theorem State.writeV_firmware (n : Reg) (m : Mask) (r : VReg) (l : Nat) : (s.writeV n m r l).firmware = s.firmware := by obtain ⟨_, h⟩ := s.writeV_eq n m r l; rw [h]
@[simp] theorem State.writeV_clusters (n : Reg) (m : Mask) (r : VReg) (l : Nat) : (s.writeV n m r l).clusters = s.clusters := by obtain ⟨_, h⟩ := s.writeV_eq n m r l; rw [h]
@[simp] theorem State.writeV_bridle (n : Reg) (m : Mask) (r : VReg) (l : Nat) : (s.writeV n m r l).bridle = s.bridle := by obtain ⟨_, h⟩ := s.writeV_eq n m r l; rw [h]
@[simp] theorem State.writeV_ports (n : Reg) (m : Mask) (r : VReg) (l : Nat) : (s.writeV n m r l).ports = s.ports := by obtain ⟨_, h⟩ := s.writeV_eq n m r l; rw [h]
@[simp] theorem State.writeV_txStreams (n : Reg) (m : Mask) (r : VReg) (l : Nat) : (s.writeV n m r l).txStreams = s.txStreams := by obtain ⟨_, h⟩ := s.writeV_eq n m r l; rw [h]
@[simp] theorem State.writeV_flits (n : Reg) (m : Mask) (r : VReg) (l : Nat) : (s.writeV n m r l).flits = s.flits := by obtain ⟨_, h⟩ := s.writeV_eq n m r l; rw [h]
@[simp] theorem State.writeV_rxStreams (n : Reg) (m : Mask) (r : VReg) (l : Nat) : (s.writeV n m r l).rxStreams = s.rxStreams := by obtain ⟨_, h⟩ := s.writeV_eq n m r l; rw [h]
@[simp] theorem State.writeV_exportPins (n : Reg) (m : Mask) (r : VReg) (l : Nat) : (s.writeV n m r l).exportPins = s.exportPins := by obtain ⟨_, h⟩ := s.writeV_eq n m r l; rw [h]
@[simp] theorem State.writeV_contributions (n : Reg) (m : Mask) (r : VReg) (l : Nat) : (s.writeV n m r l).contributions = s.contributions := by obtain ⟨_, h⟩ := s.writeV_eq n m r l; rw [h]
@[simp] theorem State.writeV_aredCount (n : Reg) (m : Mask) (r : VReg) (l : Nat) : (s.writeV n m r l).aredCount = s.aredCount := by obtain ⟨_, h⟩ := s.writeV_eq n m r l; rw [h]
@[simp] theorem State.writeV_agenda (n : Reg) (m : Mask) (r : VReg) (l : Nat) : (s.writeV n m r l).agenda = s.agenda := by obtain ⟨_, h⟩ := s.writeV_eq n m r l; rw [h]
@[simp] theorem State.writeV_turns (n : Reg) (m : Mask) (r : VReg) (l : Nat) : (s.writeV n m r l).turns = s.turns := by obtain ⟨_, h⟩ := s.writeV_eq n m r l; rw [h]
@[simp] theorem State.writeV_turn (n : Reg) (m : Mask) (r : VReg) (l : Nat) : (s.writeV n m r l).turn = s.turn := by obtain ⟨_, h⟩ := s.writeV_eq n m r l; rw [h]
@[simp] theorem State.writeV_picks (n : Reg) (m : Mask) (r : VReg) (l : Nat) : (s.writeV n m r l).picks = s.picks := by obtain ⟨_, h⟩ := s.writeV_eq n m r l; rw [h]
@[simp] theorem State.writeV_fresh (n : Reg) (m : Mask) (r : VReg) (l : Nat) : (s.writeV n m r l).fresh = s.fresh := by obtain ⟨_, h⟩ := s.writeV_eq n m r l; rw [h]
@[simp] theorem State.writeV_nextId (n : Reg) (m : Mask) (r : VReg) (l : Nat) : (s.writeV n m r l).nextId = s.nextId := by obtain ⟨_, h⟩ := s.writeV_eq n m r l; rw [h]
@[simp] theorem State.writeV_nextRot (n : Reg) (m : Mask) (r : VReg) (l : Nat) : (s.writeV n m r l).nextRot = s.nextRot := by obtain ⟨_, h⟩ := s.writeV_eq n m r l; rw [h]
@[simp] theorem State.writeV_nextOrder (n : Reg) (m : Mask) (r : VReg) (l : Nat) : (s.writeV n m r l).nextOrder = s.nextOrder := by obtain ⟨_, h⟩ := s.writeV_eq n m r l; rw [h]

/-! ### Write of a scalar register -/

@[simp] theorem State.writeS_live (n : Reg) (x : BitVec 64) (l : Nat) : (s.writeS n x l).live = s.live := rfl
@[simp] theorem State.writeS_grp (n : Reg) (x : BitVec 64) (l : Nat) : (s.writeS n x l).grp = s.grp.writeS s.fresh 0 n x l := rfl
@[simp] theorem State.writeS_frag (n : Reg) (x : BitVec 64) (l : Nat) : (s.writeS n x l).frag = s.frag := rfl
@[simp] theorem State.writeS_groups (n : Reg) (x : BitVec 64) (l : Nat) : (s.writeS n x l).groups = s.groups := rfl
@[simp] theorem State.writeS_latch (n : Reg) (x : BitVec 64) (l : Nat) : (s.writeS n x l).latch = s.latch := rfl
@[simp] theorem State.writeS_blocks (n : Reg) (x : BitVec 64) (l : Nat) : (s.writeS n x l).blocks = s.blocks := rfl
@[simp] theorem State.writeS_clusterLaunches (n : Reg) (x : BitVec 64) (l : Nat) : (s.writeS n x l).clusterLaunches = s.clusterLaunches := rfl
@[simp] theorem State.writeS_ops (n : Reg) (x : BitVec 64) (l : Nat) : (s.writeS n x l).ops = s.ops := rfl
@[simp] theorem State.writeS_fences (n : Reg) (x : BitVec 64) (l : Nat) : (s.writeS n x l).fences = s.fences := rfl
@[simp] theorem State.writeS_windows (n : Reg) (x : BitVec 64) (l : Nat) : (s.writeS n x l).windows = s.windows := rfl
@[simp] theorem State.writeS_spills (n : Reg) (x : BitVec 64) (l : Nat) : (s.writeS n x l).spills = s.spills := rfl
@[simp] theorem State.writeS_copyRuns (n : Reg) (x : BitVec 64) (l : Nat) : (s.writeS n x l).copyRuns = s.copyRuns := rfl
@[simp] theorem State.writeS_launches (n : Reg) (x : BitVec 64) (l : Nat) : (s.writeS n x l).launches = s.launches := rfl
@[simp] theorem State.writeS_queues (n : Reg) (x : BitVec 64) (l : Nat) : (s.writeS n x l).queues = s.queues := rfl
@[simp] theorem State.writeS_jobs (n : Reg) (x : BitVec 64) (l : Nat) : (s.writeS n x l).jobs = s.jobs := rfl
@[simp] theorem State.writeS_jobsNext (n : Reg) (x : BitVec 64) (l : Nat) : (s.writeS n x l).jobsNext = s.jobsNext := rfl
@[simp] theorem State.writeS_counters (n : Reg) (x : BitVec 64) (l : Nat) : (s.writeS n x l).counters = s.counters := rfl
@[simp] theorem State.writeS_tables (n : Reg) (x : BitVec 64) (l : Nat) : (s.writeS n x l).tables = s.tables := rfl
@[simp] theorem State.writeS_btc (n : Reg) (x : BitVec 64) (l : Nat) : (s.writeS n x l).btc = s.btc := rfl
@[simp] theorem State.writeS_pins (n : Reg) (x : BitVec 64) (l : Nat) : (s.writeS n x l).pins = s.pins := rfl
@[simp] theorem State.writeS_mem (n : Reg) (x : BitVec 64) (l : Nat) : (s.writeS n x l).mem = s.mem := rfl
@[simp] theorem State.writeS_dirty (n : Reg) (x : BitVec 64) (l : Nat) : (s.writeS n x l).dirty = s.dirty := rfl
@[simp] theorem State.writeS_hostMem (n : Reg) (x : BitVec 64) (l : Nat) : (s.writeS n x l).hostMem = s.hostMem := rfl
@[simp] theorem State.writeS_poison (n : Reg) (x : BitVec 64) (l : Nat) : (s.writeS n x l).poison = s.poison := rfl
@[simp] theorem State.writeS_correctable (n : Reg) (x : BitVec 64) (l : Nat) : (s.writeS n x l).correctable = s.correctable := rfl
@[simp] theorem State.writeS_scrubAt (n : Reg) (x : BitVec 64) (l : Nat) : (s.writeS n x l).scrubAt = s.scrubAt := rfl
@[simp] theorem State.writeS_retired (n : Reg) (x : BitVec 64) (l : Nat) : (s.writeS n x l).retired = s.retired := rfl
@[simp] theorem State.writeS_retiring (n : Reg) (x : BitVec 64) (l : Nat) : (s.writeS n x l).retiring = s.retiring := rfl
@[simp] theorem State.writeS_tlb (n : Reg) (x : BitVec 64) (l : Nat) : (s.writeS n x l).tlb = s.tlb := rfl
@[simp] theorem State.writeS_l1 (n : Reg) (x : BitVec 64) (l : Nat) : (s.writeS n x l).l1 = s.l1 := rfl
@[simp] theorem State.writeS_atc (n : Reg) (x : BitVec 64) (l : Nat) : (s.writeS n x l).atc = s.atc := rfl
@[simp] theorem State.writeS_ready (n : Reg) (x : BitVec 64) (l : Nat) : (s.writeS n x l).ready = s.ready := rfl
@[simp] theorem State.writeS_modeSplit (n : Reg) (x : BitVec 64) (l : Nat) : (s.writeS n x l).modeSplit = s.modeSplit := rfl
@[simp] theorem State.writeS_bar2Win (n : Reg) (x : BitVec 64) (l : Nat) : (s.writeS n x l).bar2Win = s.bar2Win := rfl
@[simp] theorem State.writeS_pwrLim (n : Reg) (x : BitVec 64) (l : Nat) : (s.writeS n x l).pwrLim = s.pwrLim := rfl
@[simp] theorem State.writeS_dumpA (n : Reg) (x : BitVec 64) (l : Nat) : (s.writeS n x l).dumpA = s.dumpA := rfl
@[simp] theorem State.writeS_traceA (n : Reg) (x : BitVec 64) (l : Nat) : (s.writeS n x l).traceA = s.traceA := rfl
@[simp] theorem State.writeS_logA (n : Reg) (x : BitVec 64) (l : Nat) : (s.writeS n x l).logA = s.logA := rfl
@[simp] theorem State.writeS_devId (n : Reg) (x : BitVec 64) (l : Nat) : (s.writeS n x l).devId = s.devId := rfl
@[simp] theorem State.writeS_power (n : Reg) (x : BitVec 64) (l : Nat) : (s.writeS n x l).power = s.power := rfl
@[simp] theorem State.writeS_clocks (n : Reg) (x : BitVec 64) (l : Nat) : (s.writeS n x l).clocks = s.clocks := rfl
@[simp] theorem State.writeS_lock (n : Reg) (x : BitVec 64) (l : Nat) : (s.writeS n x l).lock = s.lock := rfl
@[simp] theorem State.writeS_lockBroken (n : Reg) (x : BitVec 64) (l : Nat) : (s.writeS n x l).lockBroken = s.lockBroken := rfl
@[simp] theorem State.writeS_time (n : Reg) (x : BitVec 64) (l : Nat) : (s.writeS n x l).time = s.time := rfl
@[simp] theorem State.writeS_dbg (n : Reg) (x : BitVec 64) (l : Nat) : (s.writeS n x l).dbg = s.dbg := rfl
@[simp] theorem State.writeS_counts (n : Reg) (x : BitVec 64) (l : Nat) : (s.writeS n x l).counts = s.counts := rfl
@[simp] theorem State.writeS_traceNext (n : Reg) (x : BitVec 64) (l : Nat) : (s.writeS n x l).traceNext = s.traceNext := rfl
@[simp] theorem State.writeS_traceWait (n : Reg) (x : BitVec 64) (l : Nat) : (s.writeS n x l).traceWait = s.traceWait := rfl
@[simp] theorem State.writeS_heldBars (n : Reg) (x : BitVec 64) (l : Nat) : (s.writeS n x l).heldBars = s.heldBars := rfl
@[simp] theorem State.writeS_errorLog (n : Reg) (x : BitVec 64) (l : Nat) : (s.writeS n x l).errorLog = s.errorLog := rfl
@[simp] theorem State.writeS_replay (n : Reg) (x : BitVec 64) (l : Nat) : (s.writeS n x l).replay = s.replay := rfl
@[simp] theorem State.writeS_follow (n : Reg) (x : BitVec 64) (l : Nat) : (s.writeS n x l).follow = s.follow := rfl
@[simp] theorem State.writeS_hostWritten (n : Reg) (x : BitVec 64) (l : Nat) : (s.writeS n x l).hostWritten = s.hostWritten := rfl
@[simp] theorem State.writeS_jobPages (n : Reg) (x : BitVec 64) (l : Nat) : (s.writeS n x l).jobPages = s.jobPages := rfl
@[simp] theorem State.writeS_inj (n : Reg) (x : BitVec 64) (l : Nat) : (s.writeS n x l).inj = s.inj := rfl
@[simp] theorem State.writeS_out (n : Reg) (x : BitVec 64) (l : Nat) : (s.writeS n x l).out = s.out := rfl
@[simp] theorem State.writeS_hostReqs (n : Reg) (x : BitVec 64) (l : Nat) : (s.writeS n x l).hostReqs = s.hostReqs := rfl
@[simp] theorem State.writeS_kslots (n : Reg) (x : BitVec 64) (l : Nat) : (s.writeS n x l).kslots = s.kslots := rfl
@[simp] theorem State.writeS_streams (n : Reg) (x : BitVec 64) (l : Nat) : (s.writeS n x l).streams = s.streams := rfl
@[simp] theorem State.writeS_log (n : Reg) (x : BitVec 64) (l : Nat) : (s.writeS n x l).log = s.log := rfl
@[simp] theorem State.writeS_tdis (n : Reg) (x : BitVec 64) (l : Nat) : (s.writeS n x l).tdis = s.tdis := rfl
@[simp] theorem State.writeS_spdm (n : Reg) (x : BitVec 64) (l : Nat) : (s.writeS n x l).spdm = s.spdm := rfl
@[simp] theorem State.writeS_meas (n : Reg) (x : BitVec 64) (l : Nat) : (s.writeS n x l).meas = s.meas := rfl
@[simp] theorem State.writeS_firmware (n : Reg) (x : BitVec 64) (l : Nat) : (s.writeS n x l).firmware = s.firmware := rfl
@[simp] theorem State.writeS_clusters (n : Reg) (x : BitVec 64) (l : Nat) : (s.writeS n x l).clusters = s.clusters := rfl
@[simp] theorem State.writeS_bridle (n : Reg) (x : BitVec 64) (l : Nat) : (s.writeS n x l).bridle = s.bridle := rfl
@[simp] theorem State.writeS_ports (n : Reg) (x : BitVec 64) (l : Nat) : (s.writeS n x l).ports = s.ports := rfl
@[simp] theorem State.writeS_txStreams (n : Reg) (x : BitVec 64) (l : Nat) : (s.writeS n x l).txStreams = s.txStreams := rfl
@[simp] theorem State.writeS_flits (n : Reg) (x : BitVec 64) (l : Nat) : (s.writeS n x l).flits = s.flits := rfl
@[simp] theorem State.writeS_rxStreams (n : Reg) (x : BitVec 64) (l : Nat) : (s.writeS n x l).rxStreams = s.rxStreams := rfl
@[simp] theorem State.writeS_exportPins (n : Reg) (x : BitVec 64) (l : Nat) : (s.writeS n x l).exportPins = s.exportPins := rfl
@[simp] theorem State.writeS_contributions (n : Reg) (x : BitVec 64) (l : Nat) : (s.writeS n x l).contributions = s.contributions := rfl
@[simp] theorem State.writeS_aredCount (n : Reg) (x : BitVec 64) (l : Nat) : (s.writeS n x l).aredCount = s.aredCount := rfl
@[simp] theorem State.writeS_agenda (n : Reg) (x : BitVec 64) (l : Nat) : (s.writeS n x l).agenda = s.agenda := rfl
@[simp] theorem State.writeS_turns (n : Reg) (x : BitVec 64) (l : Nat) : (s.writeS n x l).turns = s.turns := rfl
@[simp] theorem State.writeS_turn (n : Reg) (x : BitVec 64) (l : Nat) : (s.writeS n x l).turn = s.turn := rfl
@[simp] theorem State.writeS_picks (n : Reg) (x : BitVec 64) (l : Nat) : (s.writeS n x l).picks = s.picks := rfl
@[simp] theorem State.writeS_fresh (n : Reg) (x : BitVec 64) (l : Nat) : (s.writeS n x l).fresh = s.fresh := rfl
@[simp] theorem State.writeS_nextId (n : Reg) (x : BitVec 64) (l : Nat) : (s.writeS n x l).nextId = s.nextId := rfl
@[simp] theorem State.writeS_nextRot (n : Reg) (x : BitVec 64) (l : Nat) : (s.writeS n x l).nextRot = s.nextRot := rfl
@[simp] theorem State.writeS_nextOrder (n : Reg) (x : BitVec 64) (l : Nat) : (s.writeS n x l).nextOrder = s.nextOrder := rfl

/-! ### Write of a predicate -/

@[simp] theorem State.writeK_live (n : PReg) (m b : Mask) (l : Nat) : (s.writeK n m b l).live = s.live := rfl
@[simp] theorem State.writeK_grp (n : PReg) (m b : Mask) (l : Nat) : (s.writeK n m b l).grp = s.grp.writeK s.fresh 0 n m b l := rfl
@[simp] theorem State.writeK_frag (n : PReg) (m b : Mask) (l : Nat) : (s.writeK n m b l).frag = s.frag := rfl
@[simp] theorem State.writeK_groups (n : PReg) (m b : Mask) (l : Nat) : (s.writeK n m b l).groups = s.groups := rfl
@[simp] theorem State.writeK_latch (n : PReg) (m b : Mask) (l : Nat) : (s.writeK n m b l).latch = s.latch := rfl
@[simp] theorem State.writeK_blocks (n : PReg) (m b : Mask) (l : Nat) : (s.writeK n m b l).blocks = s.blocks := rfl
@[simp] theorem State.writeK_clusterLaunches (n : PReg) (m b : Mask) (l : Nat) : (s.writeK n m b l).clusterLaunches = s.clusterLaunches := rfl
@[simp] theorem State.writeK_ops (n : PReg) (m b : Mask) (l : Nat) : (s.writeK n m b l).ops = s.ops := rfl
@[simp] theorem State.writeK_fences (n : PReg) (m b : Mask) (l : Nat) : (s.writeK n m b l).fences = s.fences := rfl
@[simp] theorem State.writeK_windows (n : PReg) (m b : Mask) (l : Nat) : (s.writeK n m b l).windows = s.windows := rfl
@[simp] theorem State.writeK_spills (n : PReg) (m b : Mask) (l : Nat) : (s.writeK n m b l).spills = s.spills := rfl
@[simp] theorem State.writeK_copyRuns (n : PReg) (m b : Mask) (l : Nat) : (s.writeK n m b l).copyRuns = s.copyRuns := rfl
@[simp] theorem State.writeK_launches (n : PReg) (m b : Mask) (l : Nat) : (s.writeK n m b l).launches = s.launches := rfl
@[simp] theorem State.writeK_queues (n : PReg) (m b : Mask) (l : Nat) : (s.writeK n m b l).queues = s.queues := rfl
@[simp] theorem State.writeK_jobs (n : PReg) (m b : Mask) (l : Nat) : (s.writeK n m b l).jobs = s.jobs := rfl
@[simp] theorem State.writeK_jobsNext (n : PReg) (m b : Mask) (l : Nat) : (s.writeK n m b l).jobsNext = s.jobsNext := rfl
@[simp] theorem State.writeK_counters (n : PReg) (m b : Mask) (l : Nat) : (s.writeK n m b l).counters = s.counters := rfl
@[simp] theorem State.writeK_tables (n : PReg) (m b : Mask) (l : Nat) : (s.writeK n m b l).tables = s.tables := rfl
@[simp] theorem State.writeK_btc (n : PReg) (m b : Mask) (l : Nat) : (s.writeK n m b l).btc = s.btc := rfl
@[simp] theorem State.writeK_pins (n : PReg) (m b : Mask) (l : Nat) : (s.writeK n m b l).pins = s.pins := rfl
@[simp] theorem State.writeK_mem (n : PReg) (m b : Mask) (l : Nat) : (s.writeK n m b l).mem = s.mem := rfl
@[simp] theorem State.writeK_dirty (n : PReg) (m b : Mask) (l : Nat) : (s.writeK n m b l).dirty = s.dirty := rfl
@[simp] theorem State.writeK_hostMem (n : PReg) (m b : Mask) (l : Nat) : (s.writeK n m b l).hostMem = s.hostMem := rfl
@[simp] theorem State.writeK_poison (n : PReg) (m b : Mask) (l : Nat) : (s.writeK n m b l).poison = s.poison := rfl
@[simp] theorem State.writeK_correctable (n : PReg) (m b : Mask) (l : Nat) : (s.writeK n m b l).correctable = s.correctable := rfl
@[simp] theorem State.writeK_scrubAt (n : PReg) (m b : Mask) (l : Nat) : (s.writeK n m b l).scrubAt = s.scrubAt := rfl
@[simp] theorem State.writeK_retired (n : PReg) (m b : Mask) (l : Nat) : (s.writeK n m b l).retired = s.retired := rfl
@[simp] theorem State.writeK_retiring (n : PReg) (m b : Mask) (l : Nat) : (s.writeK n m b l).retiring = s.retiring := rfl
@[simp] theorem State.writeK_tlb (n : PReg) (m b : Mask) (l : Nat) : (s.writeK n m b l).tlb = s.tlb := rfl
@[simp] theorem State.writeK_l1 (n : PReg) (m b : Mask) (l : Nat) : (s.writeK n m b l).l1 = s.l1 := rfl
@[simp] theorem State.writeK_atc (n : PReg) (m b : Mask) (l : Nat) : (s.writeK n m b l).atc = s.atc := rfl
@[simp] theorem State.writeK_ready (n : PReg) (m b : Mask) (l : Nat) : (s.writeK n m b l).ready = s.ready := rfl
@[simp] theorem State.writeK_modeSplit (n : PReg) (m b : Mask) (l : Nat) : (s.writeK n m b l).modeSplit = s.modeSplit := rfl
@[simp] theorem State.writeK_bar2Win (n : PReg) (m b : Mask) (l : Nat) : (s.writeK n m b l).bar2Win = s.bar2Win := rfl
@[simp] theorem State.writeK_pwrLim (n : PReg) (m b : Mask) (l : Nat) : (s.writeK n m b l).pwrLim = s.pwrLim := rfl
@[simp] theorem State.writeK_dumpA (n : PReg) (m b : Mask) (l : Nat) : (s.writeK n m b l).dumpA = s.dumpA := rfl
@[simp] theorem State.writeK_traceA (n : PReg) (m b : Mask) (l : Nat) : (s.writeK n m b l).traceA = s.traceA := rfl
@[simp] theorem State.writeK_logA (n : PReg) (m b : Mask) (l : Nat) : (s.writeK n m b l).logA = s.logA := rfl
@[simp] theorem State.writeK_devId (n : PReg) (m b : Mask) (l : Nat) : (s.writeK n m b l).devId = s.devId := rfl
@[simp] theorem State.writeK_power (n : PReg) (m b : Mask) (l : Nat) : (s.writeK n m b l).power = s.power := rfl
@[simp] theorem State.writeK_clocks (n : PReg) (m b : Mask) (l : Nat) : (s.writeK n m b l).clocks = s.clocks := rfl
@[simp] theorem State.writeK_lock (n : PReg) (m b : Mask) (l : Nat) : (s.writeK n m b l).lock = s.lock := rfl
@[simp] theorem State.writeK_lockBroken (n : PReg) (m b : Mask) (l : Nat) : (s.writeK n m b l).lockBroken = s.lockBroken := rfl
@[simp] theorem State.writeK_time (n : PReg) (m b : Mask) (l : Nat) : (s.writeK n m b l).time = s.time := rfl
@[simp] theorem State.writeK_dbg (n : PReg) (m b : Mask) (l : Nat) : (s.writeK n m b l).dbg = s.dbg := rfl
@[simp] theorem State.writeK_counts (n : PReg) (m b : Mask) (l : Nat) : (s.writeK n m b l).counts = s.counts := rfl
@[simp] theorem State.writeK_traceNext (n : PReg) (m b : Mask) (l : Nat) : (s.writeK n m b l).traceNext = s.traceNext := rfl
@[simp] theorem State.writeK_traceWait (n : PReg) (m b : Mask) (l : Nat) : (s.writeK n m b l).traceWait = s.traceWait := rfl
@[simp] theorem State.writeK_heldBars (n : PReg) (m b : Mask) (l : Nat) : (s.writeK n m b l).heldBars = s.heldBars := rfl
@[simp] theorem State.writeK_errorLog (n : PReg) (m b : Mask) (l : Nat) : (s.writeK n m b l).errorLog = s.errorLog := rfl
@[simp] theorem State.writeK_replay (n : PReg) (m b : Mask) (l : Nat) : (s.writeK n m b l).replay = s.replay := rfl
@[simp] theorem State.writeK_follow (n : PReg) (m b : Mask) (l : Nat) : (s.writeK n m b l).follow = s.follow := rfl
@[simp] theorem State.writeK_hostWritten (n : PReg) (m b : Mask) (l : Nat) : (s.writeK n m b l).hostWritten = s.hostWritten := rfl
@[simp] theorem State.writeK_jobPages (n : PReg) (m b : Mask) (l : Nat) : (s.writeK n m b l).jobPages = s.jobPages := rfl
@[simp] theorem State.writeK_inj (n : PReg) (m b : Mask) (l : Nat) : (s.writeK n m b l).inj = s.inj := rfl
@[simp] theorem State.writeK_out (n : PReg) (m b : Mask) (l : Nat) : (s.writeK n m b l).out = s.out := rfl
@[simp] theorem State.writeK_hostReqs (n : PReg) (m b : Mask) (l : Nat) : (s.writeK n m b l).hostReqs = s.hostReqs := rfl
@[simp] theorem State.writeK_kslots (n : PReg) (m b : Mask) (l : Nat) : (s.writeK n m b l).kslots = s.kslots := rfl
@[simp] theorem State.writeK_streams (n : PReg) (m b : Mask) (l : Nat) : (s.writeK n m b l).streams = s.streams := rfl
@[simp] theorem State.writeK_log (n : PReg) (m b : Mask) (l : Nat) : (s.writeK n m b l).log = s.log := rfl
@[simp] theorem State.writeK_tdis (n : PReg) (m b : Mask) (l : Nat) : (s.writeK n m b l).tdis = s.tdis := rfl
@[simp] theorem State.writeK_spdm (n : PReg) (m b : Mask) (l : Nat) : (s.writeK n m b l).spdm = s.spdm := rfl
@[simp] theorem State.writeK_meas (n : PReg) (m b : Mask) (l : Nat) : (s.writeK n m b l).meas = s.meas := rfl
@[simp] theorem State.writeK_firmware (n : PReg) (m b : Mask) (l : Nat) : (s.writeK n m b l).firmware = s.firmware := rfl
@[simp] theorem State.writeK_clusters (n : PReg) (m b : Mask) (l : Nat) : (s.writeK n m b l).clusters = s.clusters := rfl
@[simp] theorem State.writeK_bridle (n : PReg) (m b : Mask) (l : Nat) : (s.writeK n m b l).bridle = s.bridle := rfl
@[simp] theorem State.writeK_ports (n : PReg) (m b : Mask) (l : Nat) : (s.writeK n m b l).ports = s.ports := rfl
@[simp] theorem State.writeK_txStreams (n : PReg) (m b : Mask) (l : Nat) : (s.writeK n m b l).txStreams = s.txStreams := rfl
@[simp] theorem State.writeK_flits (n : PReg) (m b : Mask) (l : Nat) : (s.writeK n m b l).flits = s.flits := rfl
@[simp] theorem State.writeK_rxStreams (n : PReg) (m b : Mask) (l : Nat) : (s.writeK n m b l).rxStreams = s.rxStreams := rfl
@[simp] theorem State.writeK_exportPins (n : PReg) (m b : Mask) (l : Nat) : (s.writeK n m b l).exportPins = s.exportPins := rfl
@[simp] theorem State.writeK_contributions (n : PReg) (m b : Mask) (l : Nat) : (s.writeK n m b l).contributions = s.contributions := rfl
@[simp] theorem State.writeK_aredCount (n : PReg) (m b : Mask) (l : Nat) : (s.writeK n m b l).aredCount = s.aredCount := rfl
@[simp] theorem State.writeK_agenda (n : PReg) (m b : Mask) (l : Nat) : (s.writeK n m b l).agenda = s.agenda := rfl
@[simp] theorem State.writeK_turns (n : PReg) (m b : Mask) (l : Nat) : (s.writeK n m b l).turns = s.turns := rfl
@[simp] theorem State.writeK_turn (n : PReg) (m b : Mask) (l : Nat) : (s.writeK n m b l).turn = s.turn := rfl
@[simp] theorem State.writeK_picks (n : PReg) (m b : Mask) (l : Nat) : (s.writeK n m b l).picks = s.picks := rfl
@[simp] theorem State.writeK_fresh (n : PReg) (m b : Mask) (l : Nat) : (s.writeK n m b l).fresh = s.fresh := rfl
@[simp] theorem State.writeK_nextId (n : PReg) (m b : Mask) (l : Nat) : (s.writeK n m b l).nextId = s.nextId := rfl
@[simp] theorem State.writeK_nextRot (n : PReg) (m b : Mask) (l : Nat) : (s.writeK n m b l).nextRot = s.nextRot := rfl
@[simp] theorem State.writeK_nextOrder (n : PReg) (m b : Mask) (l : Nat) : (s.writeK n m b l).nextOrder = s.nextOrder := rfl

/-! ### A result to come -/

@[simp] theorem State.pend_live (op : Nat) (c : RegClass) (n : Nat) (twice : Bool) (key : Nat) (cur : VReg × BitVec 64) : (s.pend op c n twice key cur).live = s.live := rfl
@[simp] theorem State.pend_frag (op : Nat) (c : RegClass) (n : Nat) (twice : Bool) (key : Nat) (cur : VReg × BitVec 64) : (s.pend op c n twice key cur).frag = s.frag := rfl
@[simp] theorem State.pend_groups (op : Nat) (c : RegClass) (n : Nat) (twice : Bool) (key : Nat) (cur : VReg × BitVec 64) : (s.pend op c n twice key cur).groups = s.groups := rfl
@[simp] theorem State.pend_latch (op : Nat) (c : RegClass) (n : Nat) (twice : Bool) (key : Nat) (cur : VReg × BitVec 64) : (s.pend op c n twice key cur).latch = s.latch := rfl
@[simp] theorem State.pend_blocks (op : Nat) (c : RegClass) (n : Nat) (twice : Bool) (key : Nat) (cur : VReg × BitVec 64) : (s.pend op c n twice key cur).blocks = s.blocks := rfl
@[simp] theorem State.pend_clusterLaunches (op : Nat) (c : RegClass) (n : Nat) (twice : Bool) (key : Nat) (cur : VReg × BitVec 64) : (s.pend op c n twice key cur).clusterLaunches = s.clusterLaunches := rfl
@[simp] theorem State.pend_ops (op : Nat) (c : RegClass) (n : Nat) (twice : Bool) (key : Nat) (cur : VReg × BitVec 64) : (s.pend op c n twice key cur).ops = s.ops := rfl
@[simp] theorem State.pend_fences (op : Nat) (c : RegClass) (n : Nat) (twice : Bool) (key : Nat) (cur : VReg × BitVec 64) : (s.pend op c n twice key cur).fences = s.fences := rfl
@[simp] theorem State.pend_windows (op : Nat) (c : RegClass) (n : Nat) (twice : Bool) (key : Nat) (cur : VReg × BitVec 64) : (s.pend op c n twice key cur).windows = s.windows := rfl
@[simp] theorem State.pend_spills (op : Nat) (c : RegClass) (n : Nat) (twice : Bool) (key : Nat) (cur : VReg × BitVec 64) : (s.pend op c n twice key cur).spills = s.spills := rfl
@[simp] theorem State.pend_copyRuns (op : Nat) (c : RegClass) (n : Nat) (twice : Bool) (key : Nat) (cur : VReg × BitVec 64) : (s.pend op c n twice key cur).copyRuns = s.copyRuns := rfl
@[simp] theorem State.pend_launches (op : Nat) (c : RegClass) (n : Nat) (twice : Bool) (key : Nat) (cur : VReg × BitVec 64) : (s.pend op c n twice key cur).launches = s.launches := rfl
@[simp] theorem State.pend_queues (op : Nat) (c : RegClass) (n : Nat) (twice : Bool) (key : Nat) (cur : VReg × BitVec 64) : (s.pend op c n twice key cur).queues = s.queues := rfl
@[simp] theorem State.pend_jobs (op : Nat) (c : RegClass) (n : Nat) (twice : Bool) (key : Nat) (cur : VReg × BitVec 64) : (s.pend op c n twice key cur).jobs = s.jobs := rfl
@[simp] theorem State.pend_jobsNext (op : Nat) (c : RegClass) (n : Nat) (twice : Bool) (key : Nat) (cur : VReg × BitVec 64) : (s.pend op c n twice key cur).jobsNext = s.jobsNext := rfl
@[simp] theorem State.pend_counters (op : Nat) (c : RegClass) (n : Nat) (twice : Bool) (key : Nat) (cur : VReg × BitVec 64) : (s.pend op c n twice key cur).counters = s.counters := rfl
@[simp] theorem State.pend_tables (op : Nat) (c : RegClass) (n : Nat) (twice : Bool) (key : Nat) (cur : VReg × BitVec 64) : (s.pend op c n twice key cur).tables = s.tables := rfl
@[simp] theorem State.pend_btc (op : Nat) (c : RegClass) (n : Nat) (twice : Bool) (key : Nat) (cur : VReg × BitVec 64) : (s.pend op c n twice key cur).btc = s.btc := rfl
@[simp] theorem State.pend_pins (op : Nat) (c : RegClass) (n : Nat) (twice : Bool) (key : Nat) (cur : VReg × BitVec 64) : (s.pend op c n twice key cur).pins = s.pins := rfl
@[simp] theorem State.pend_mem (op : Nat) (c : RegClass) (n : Nat) (twice : Bool) (key : Nat) (cur : VReg × BitVec 64) : (s.pend op c n twice key cur).mem = s.mem := rfl
@[simp] theorem State.pend_dirty (op : Nat) (c : RegClass) (n : Nat) (twice : Bool) (key : Nat) (cur : VReg × BitVec 64) : (s.pend op c n twice key cur).dirty = s.dirty := rfl
@[simp] theorem State.pend_hostMem (op : Nat) (c : RegClass) (n : Nat) (twice : Bool) (key : Nat) (cur : VReg × BitVec 64) : (s.pend op c n twice key cur).hostMem = s.hostMem := rfl
@[simp] theorem State.pend_poison (op : Nat) (c : RegClass) (n : Nat) (twice : Bool) (key : Nat) (cur : VReg × BitVec 64) : (s.pend op c n twice key cur).poison = s.poison := rfl
@[simp] theorem State.pend_correctable (op : Nat) (c : RegClass) (n : Nat) (twice : Bool) (key : Nat) (cur : VReg × BitVec 64) : (s.pend op c n twice key cur).correctable = s.correctable := rfl
@[simp] theorem State.pend_scrubAt (op : Nat) (c : RegClass) (n : Nat) (twice : Bool) (key : Nat) (cur : VReg × BitVec 64) : (s.pend op c n twice key cur).scrubAt = s.scrubAt := rfl
@[simp] theorem State.pend_retired (op : Nat) (c : RegClass) (n : Nat) (twice : Bool) (key : Nat) (cur : VReg × BitVec 64) : (s.pend op c n twice key cur).retired = s.retired := rfl
@[simp] theorem State.pend_retiring (op : Nat) (c : RegClass) (n : Nat) (twice : Bool) (key : Nat) (cur : VReg × BitVec 64) : (s.pend op c n twice key cur).retiring = s.retiring := rfl
@[simp] theorem State.pend_tlb (op : Nat) (c : RegClass) (n : Nat) (twice : Bool) (key : Nat) (cur : VReg × BitVec 64) : (s.pend op c n twice key cur).tlb = s.tlb := rfl
@[simp] theorem State.pend_l1 (op : Nat) (c : RegClass) (n : Nat) (twice : Bool) (key : Nat) (cur : VReg × BitVec 64) : (s.pend op c n twice key cur).l1 = s.l1 := rfl
@[simp] theorem State.pend_atc (op : Nat) (c : RegClass) (n : Nat) (twice : Bool) (key : Nat) (cur : VReg × BitVec 64) : (s.pend op c n twice key cur).atc = s.atc := rfl
@[simp] theorem State.pend_ready (op : Nat) (c : RegClass) (n : Nat) (twice : Bool) (key : Nat) (cur : VReg × BitVec 64) : (s.pend op c n twice key cur).ready = s.ready := rfl
@[simp] theorem State.pend_modeSplit (op : Nat) (c : RegClass) (n : Nat) (twice : Bool) (key : Nat) (cur : VReg × BitVec 64) : (s.pend op c n twice key cur).modeSplit = s.modeSplit := rfl
@[simp] theorem State.pend_bar2Win (op : Nat) (c : RegClass) (n : Nat) (twice : Bool) (key : Nat) (cur : VReg × BitVec 64) : (s.pend op c n twice key cur).bar2Win = s.bar2Win := rfl
@[simp] theorem State.pend_pwrLim (op : Nat) (c : RegClass) (n : Nat) (twice : Bool) (key : Nat) (cur : VReg × BitVec 64) : (s.pend op c n twice key cur).pwrLim = s.pwrLim := rfl
@[simp] theorem State.pend_dumpA (op : Nat) (c : RegClass) (n : Nat) (twice : Bool) (key : Nat) (cur : VReg × BitVec 64) : (s.pend op c n twice key cur).dumpA = s.dumpA := rfl
@[simp] theorem State.pend_traceA (op : Nat) (c : RegClass) (n : Nat) (twice : Bool) (key : Nat) (cur : VReg × BitVec 64) : (s.pend op c n twice key cur).traceA = s.traceA := rfl
@[simp] theorem State.pend_logA (op : Nat) (c : RegClass) (n : Nat) (twice : Bool) (key : Nat) (cur : VReg × BitVec 64) : (s.pend op c n twice key cur).logA = s.logA := rfl
@[simp] theorem State.pend_devId (op : Nat) (c : RegClass) (n : Nat) (twice : Bool) (key : Nat) (cur : VReg × BitVec 64) : (s.pend op c n twice key cur).devId = s.devId := rfl
@[simp] theorem State.pend_power (op : Nat) (c : RegClass) (n : Nat) (twice : Bool) (key : Nat) (cur : VReg × BitVec 64) : (s.pend op c n twice key cur).power = s.power := rfl
@[simp] theorem State.pend_clocks (op : Nat) (c : RegClass) (n : Nat) (twice : Bool) (key : Nat) (cur : VReg × BitVec 64) : (s.pend op c n twice key cur).clocks = s.clocks := rfl
@[simp] theorem State.pend_lock (op : Nat) (c : RegClass) (n : Nat) (twice : Bool) (key : Nat) (cur : VReg × BitVec 64) : (s.pend op c n twice key cur).lock = s.lock := rfl
@[simp] theorem State.pend_lockBroken (op : Nat) (c : RegClass) (n : Nat) (twice : Bool) (key : Nat) (cur : VReg × BitVec 64) : (s.pend op c n twice key cur).lockBroken = s.lockBroken := rfl
@[simp] theorem State.pend_time (op : Nat) (c : RegClass) (n : Nat) (twice : Bool) (key : Nat) (cur : VReg × BitVec 64) : (s.pend op c n twice key cur).time = s.time := rfl
@[simp] theorem State.pend_dbg (op : Nat) (c : RegClass) (n : Nat) (twice : Bool) (key : Nat) (cur : VReg × BitVec 64) : (s.pend op c n twice key cur).dbg = s.dbg := rfl
@[simp] theorem State.pend_counts (op : Nat) (c : RegClass) (n : Nat) (twice : Bool) (key : Nat) (cur : VReg × BitVec 64) : (s.pend op c n twice key cur).counts = s.counts := rfl
@[simp] theorem State.pend_traceNext (op : Nat) (c : RegClass) (n : Nat) (twice : Bool) (key : Nat) (cur : VReg × BitVec 64) : (s.pend op c n twice key cur).traceNext = s.traceNext := rfl
@[simp] theorem State.pend_traceWait (op : Nat) (c : RegClass) (n : Nat) (twice : Bool) (key : Nat) (cur : VReg × BitVec 64) : (s.pend op c n twice key cur).traceWait = s.traceWait := rfl
@[simp] theorem State.pend_heldBars (op : Nat) (c : RegClass) (n : Nat) (twice : Bool) (key : Nat) (cur : VReg × BitVec 64) : (s.pend op c n twice key cur).heldBars = s.heldBars := rfl
@[simp] theorem State.pend_errorLog (op : Nat) (c : RegClass) (n : Nat) (twice : Bool) (key : Nat) (cur : VReg × BitVec 64) : (s.pend op c n twice key cur).errorLog = s.errorLog := rfl
@[simp] theorem State.pend_replay (op : Nat) (c : RegClass) (n : Nat) (twice : Bool) (key : Nat) (cur : VReg × BitVec 64) : (s.pend op c n twice key cur).replay = s.replay := rfl
@[simp] theorem State.pend_follow (op : Nat) (c : RegClass) (n : Nat) (twice : Bool) (key : Nat) (cur : VReg × BitVec 64) : (s.pend op c n twice key cur).follow = s.follow := rfl
@[simp] theorem State.pend_hostWritten (op : Nat) (c : RegClass) (n : Nat) (twice : Bool) (key : Nat) (cur : VReg × BitVec 64) : (s.pend op c n twice key cur).hostWritten = s.hostWritten := rfl
@[simp] theorem State.pend_jobPages (op : Nat) (c : RegClass) (n : Nat) (twice : Bool) (key : Nat) (cur : VReg × BitVec 64) : (s.pend op c n twice key cur).jobPages = s.jobPages := rfl
@[simp] theorem State.pend_inj (op : Nat) (c : RegClass) (n : Nat) (twice : Bool) (key : Nat) (cur : VReg × BitVec 64) : (s.pend op c n twice key cur).inj = s.inj := rfl
@[simp] theorem State.pend_out (op : Nat) (c : RegClass) (n : Nat) (twice : Bool) (key : Nat) (cur : VReg × BitVec 64) : (s.pend op c n twice key cur).out = s.out := rfl
@[simp] theorem State.pend_hostReqs (op : Nat) (c : RegClass) (n : Nat) (twice : Bool) (key : Nat) (cur : VReg × BitVec 64) : (s.pend op c n twice key cur).hostReqs = s.hostReqs := rfl
@[simp] theorem State.pend_kslots (op : Nat) (c : RegClass) (n : Nat) (twice : Bool) (key : Nat) (cur : VReg × BitVec 64) : (s.pend op c n twice key cur).kslots = s.kslots := rfl
@[simp] theorem State.pend_streams (op : Nat) (c : RegClass) (n : Nat) (twice : Bool) (key : Nat) (cur : VReg × BitVec 64) : (s.pend op c n twice key cur).streams = s.streams := rfl
@[simp] theorem State.pend_log (op : Nat) (c : RegClass) (n : Nat) (twice : Bool) (key : Nat) (cur : VReg × BitVec 64) : (s.pend op c n twice key cur).log = s.log := rfl
@[simp] theorem State.pend_tdis (op : Nat) (c : RegClass) (n : Nat) (twice : Bool) (key : Nat) (cur : VReg × BitVec 64) : (s.pend op c n twice key cur).tdis = s.tdis := rfl
@[simp] theorem State.pend_spdm (op : Nat) (c : RegClass) (n : Nat) (twice : Bool) (key : Nat) (cur : VReg × BitVec 64) : (s.pend op c n twice key cur).spdm = s.spdm := rfl
@[simp] theorem State.pend_meas (op : Nat) (c : RegClass) (n : Nat) (twice : Bool) (key : Nat) (cur : VReg × BitVec 64) : (s.pend op c n twice key cur).meas = s.meas := rfl
@[simp] theorem State.pend_firmware (op : Nat) (c : RegClass) (n : Nat) (twice : Bool) (key : Nat) (cur : VReg × BitVec 64) : (s.pend op c n twice key cur).firmware = s.firmware := rfl
@[simp] theorem State.pend_clusters (op : Nat) (c : RegClass) (n : Nat) (twice : Bool) (key : Nat) (cur : VReg × BitVec 64) : (s.pend op c n twice key cur).clusters = s.clusters := rfl
@[simp] theorem State.pend_bridle (op : Nat) (c : RegClass) (n : Nat) (twice : Bool) (key : Nat) (cur : VReg × BitVec 64) : (s.pend op c n twice key cur).bridle = s.bridle := rfl
@[simp] theorem State.pend_ports (op : Nat) (c : RegClass) (n : Nat) (twice : Bool) (key : Nat) (cur : VReg × BitVec 64) : (s.pend op c n twice key cur).ports = s.ports := rfl
@[simp] theorem State.pend_txStreams (op : Nat) (c : RegClass) (n : Nat) (twice : Bool) (key : Nat) (cur : VReg × BitVec 64) : (s.pend op c n twice key cur).txStreams = s.txStreams := rfl
@[simp] theorem State.pend_flits (op : Nat) (c : RegClass) (n : Nat) (twice : Bool) (key : Nat) (cur : VReg × BitVec 64) : (s.pend op c n twice key cur).flits = s.flits := rfl
@[simp] theorem State.pend_rxStreams (op : Nat) (c : RegClass) (n : Nat) (twice : Bool) (key : Nat) (cur : VReg × BitVec 64) : (s.pend op c n twice key cur).rxStreams = s.rxStreams := rfl
@[simp] theorem State.pend_exportPins (op : Nat) (c : RegClass) (n : Nat) (twice : Bool) (key : Nat) (cur : VReg × BitVec 64) : (s.pend op c n twice key cur).exportPins = s.exportPins := rfl
@[simp] theorem State.pend_contributions (op : Nat) (c : RegClass) (n : Nat) (twice : Bool) (key : Nat) (cur : VReg × BitVec 64) : (s.pend op c n twice key cur).contributions = s.contributions := rfl
@[simp] theorem State.pend_aredCount (op : Nat) (c : RegClass) (n : Nat) (twice : Bool) (key : Nat) (cur : VReg × BitVec 64) : (s.pend op c n twice key cur).aredCount = s.aredCount := rfl
@[simp] theorem State.pend_agenda (op : Nat) (c : RegClass) (n : Nat) (twice : Bool) (key : Nat) (cur : VReg × BitVec 64) : (s.pend op c n twice key cur).agenda = s.agenda := rfl
@[simp] theorem State.pend_turns (op : Nat) (c : RegClass) (n : Nat) (twice : Bool) (key : Nat) (cur : VReg × BitVec 64) : (s.pend op c n twice key cur).turns = s.turns := rfl
@[simp] theorem State.pend_turn (op : Nat) (c : RegClass) (n : Nat) (twice : Bool) (key : Nat) (cur : VReg × BitVec 64) : (s.pend op c n twice key cur).turn = s.turn := rfl
@[simp] theorem State.pend_picks (op : Nat) (c : RegClass) (n : Nat) (twice : Bool) (key : Nat) (cur : VReg × BitVec 64) : (s.pend op c n twice key cur).picks = s.picks := rfl
@[simp] theorem State.pend_fresh (op : Nat) (c : RegClass) (n : Nat) (twice : Bool) (key : Nat) (cur : VReg × BitVec 64) : (s.pend op c n twice key cur).fresh = s.fresh := rfl
@[simp] theorem State.pend_nextId (op : Nat) (c : RegClass) (n : Nat) (twice : Bool) (key : Nat) (cur : VReg × BitVec 64) : (s.pend op c n twice key cur).nextId = s.nextId := rfl
@[simp] theorem State.pend_nextRot (op : Nat) (c : RegClass) (n : Nat) (twice : Bool) (key : Nat) (cur : VReg × BitVec 64) : (s.pend op c n twice key cur).nextRot = s.nextRot := rfl
@[simp] theorem State.pend_nextOrder (op : Nat) (c : RegClass) (n : Nat) (twice : Bool) (key : Nat) (cur : VReg × BitVec 64) : (s.pend op c n twice key cur).nextOrder = s.nextOrder := rfl

/-! ### An operation joins those in flight -/

@[simp] theorem State.enqueue_live (o : Op) : (s.enqueue o).live = s.live := rfl
@[simp] theorem State.enqueue_frag (o : Op) : (s.enqueue o).frag = s.frag := rfl
@[simp] theorem State.enqueue_groups (o : Op) : (s.enqueue o).groups = s.groups := rfl
@[simp] theorem State.enqueue_latch (o : Op) : (s.enqueue o).latch = s.latch := rfl
@[simp] theorem State.enqueue_blocks (o : Op) : (s.enqueue o).blocks = s.blocks := rfl
@[simp] theorem State.enqueue_clusterLaunches (o : Op) : (s.enqueue o).clusterLaunches = s.clusterLaunches := rfl
@[simp] theorem State.enqueue_ops (o : Op) : (s.enqueue o).ops = s.ops ++ [o] := rfl
@[simp] theorem State.enqueue_fences (o : Op) : (s.enqueue o).fences = s.fences := rfl
@[simp] theorem State.enqueue_windows (o : Op) : (s.enqueue o).windows = s.windows := rfl
@[simp] theorem State.enqueue_spills (o : Op) : (s.enqueue o).spills = s.spills := rfl
@[simp] theorem State.enqueue_copyRuns (o : Op) : (s.enqueue o).copyRuns = s.copyRuns := rfl
@[simp] theorem State.enqueue_launches (o : Op) : (s.enqueue o).launches = s.launches := rfl
@[simp] theorem State.enqueue_queues (o : Op) : (s.enqueue o).queues = s.queues := rfl
@[simp] theorem State.enqueue_jobs (o : Op) : (s.enqueue o).jobs = s.jobs := rfl
@[simp] theorem State.enqueue_jobsNext (o : Op) : (s.enqueue o).jobsNext = s.jobsNext := rfl
@[simp] theorem State.enqueue_counters (o : Op) : (s.enqueue o).counters = s.counters := rfl
@[simp] theorem State.enqueue_tables (o : Op) : (s.enqueue o).tables = s.tables := rfl
@[simp] theorem State.enqueue_btc (o : Op) : (s.enqueue o).btc = s.btc := rfl
@[simp] theorem State.enqueue_pins (o : Op) : (s.enqueue o).pins = s.pins := rfl
@[simp] theorem State.enqueue_mem (o : Op) : (s.enqueue o).mem = s.mem := rfl
@[simp] theorem State.enqueue_dirty (o : Op) : (s.enqueue o).dirty = s.dirty := rfl
@[simp] theorem State.enqueue_hostMem (o : Op) : (s.enqueue o).hostMem = s.hostMem := rfl
@[simp] theorem State.enqueue_poison (o : Op) : (s.enqueue o).poison = s.poison := rfl
@[simp] theorem State.enqueue_correctable (o : Op) : (s.enqueue o).correctable = s.correctable := rfl
@[simp] theorem State.enqueue_scrubAt (o : Op) : (s.enqueue o).scrubAt = s.scrubAt := rfl
@[simp] theorem State.enqueue_retired (o : Op) : (s.enqueue o).retired = s.retired := rfl
@[simp] theorem State.enqueue_retiring (o : Op) : (s.enqueue o).retiring = s.retiring := rfl
@[simp] theorem State.enqueue_tlb (o : Op) : (s.enqueue o).tlb = s.tlb := rfl
@[simp] theorem State.enqueue_l1 (o : Op) : (s.enqueue o).l1 = s.l1 := rfl
@[simp] theorem State.enqueue_atc (o : Op) : (s.enqueue o).atc = s.atc := rfl
@[simp] theorem State.enqueue_ready (o : Op) : (s.enqueue o).ready = s.ready := rfl
@[simp] theorem State.enqueue_modeSplit (o : Op) : (s.enqueue o).modeSplit = s.modeSplit := rfl
@[simp] theorem State.enqueue_bar2Win (o : Op) : (s.enqueue o).bar2Win = s.bar2Win := rfl
@[simp] theorem State.enqueue_pwrLim (o : Op) : (s.enqueue o).pwrLim = s.pwrLim := rfl
@[simp] theorem State.enqueue_dumpA (o : Op) : (s.enqueue o).dumpA = s.dumpA := rfl
@[simp] theorem State.enqueue_traceA (o : Op) : (s.enqueue o).traceA = s.traceA := rfl
@[simp] theorem State.enqueue_logA (o : Op) : (s.enqueue o).logA = s.logA := rfl
@[simp] theorem State.enqueue_devId (o : Op) : (s.enqueue o).devId = s.devId := rfl
@[simp] theorem State.enqueue_power (o : Op) : (s.enqueue o).power = s.power := rfl
@[simp] theorem State.enqueue_clocks (o : Op) : (s.enqueue o).clocks = s.clocks := rfl
@[simp] theorem State.enqueue_lock (o : Op) : (s.enqueue o).lock = s.lock := rfl
@[simp] theorem State.enqueue_lockBroken (o : Op) : (s.enqueue o).lockBroken = s.lockBroken := rfl
@[simp] theorem State.enqueue_time (o : Op) : (s.enqueue o).time = s.time := rfl
@[simp] theorem State.enqueue_dbg (o : Op) : (s.enqueue o).dbg = s.dbg := rfl
@[simp] theorem State.enqueue_counts (o : Op) : (s.enqueue o).counts = s.counts := rfl
@[simp] theorem State.enqueue_traceNext (o : Op) : (s.enqueue o).traceNext = s.traceNext := rfl
@[simp] theorem State.enqueue_traceWait (o : Op) : (s.enqueue o).traceWait = s.traceWait := rfl
@[simp] theorem State.enqueue_heldBars (o : Op) : (s.enqueue o).heldBars = s.heldBars := rfl
@[simp] theorem State.enqueue_errorLog (o : Op) : (s.enqueue o).errorLog = s.errorLog := rfl
@[simp] theorem State.enqueue_replay (o : Op) : (s.enqueue o).replay = s.replay := rfl
@[simp] theorem State.enqueue_follow (o : Op) : (s.enqueue o).follow = s.follow := rfl
@[simp] theorem State.enqueue_hostWritten (o : Op) : (s.enqueue o).hostWritten = s.hostWritten := rfl
@[simp] theorem State.enqueue_jobPages (o : Op) : (s.enqueue o).jobPages = s.jobPages := rfl
@[simp] theorem State.enqueue_inj (o : Op) : (s.enqueue o).inj = s.inj := rfl
@[simp] theorem State.enqueue_out (o : Op) : (s.enqueue o).out = s.out := rfl
@[simp] theorem State.enqueue_hostReqs (o : Op) : (s.enqueue o).hostReqs = s.hostReqs := rfl
@[simp] theorem State.enqueue_kslots (o : Op) : (s.enqueue o).kslots = s.kslots := rfl
@[simp] theorem State.enqueue_log (o : Op) : (s.enqueue o).log = s.log := rfl
@[simp] theorem State.enqueue_tdis (o : Op) : (s.enqueue o).tdis = s.tdis := rfl
@[simp] theorem State.enqueue_spdm (o : Op) : (s.enqueue o).spdm = s.spdm := rfl
@[simp] theorem State.enqueue_meas (o : Op) : (s.enqueue o).meas = s.meas := rfl
@[simp] theorem State.enqueue_firmware (o : Op) : (s.enqueue o).firmware = s.firmware := rfl
@[simp] theorem State.enqueue_clusters (o : Op) : (s.enqueue o).clusters = s.clusters := rfl
@[simp] theorem State.enqueue_bridle (o : Op) : (s.enqueue o).bridle = s.bridle := rfl
@[simp] theorem State.enqueue_ports (o : Op) : (s.enqueue o).ports = s.ports := rfl
@[simp] theorem State.enqueue_txStreams (o : Op) : (s.enqueue o).txStreams = s.txStreams := rfl
@[simp] theorem State.enqueue_flits (o : Op) : (s.enqueue o).flits = s.flits := rfl
@[simp] theorem State.enqueue_rxStreams (o : Op) : (s.enqueue o).rxStreams = s.rxStreams := rfl
@[simp] theorem State.enqueue_exportPins (o : Op) : (s.enqueue o).exportPins = s.exportPins := rfl
@[simp] theorem State.enqueue_contributions (o : Op) : (s.enqueue o).contributions = s.contributions := rfl
@[simp] theorem State.enqueue_aredCount (o : Op) : (s.enqueue o).aredCount = s.aredCount := rfl
@[simp] theorem State.enqueue_agenda (o : Op) : (s.enqueue o).agenda = s.agenda := rfl
@[simp] theorem State.enqueue_turns (o : Op) : (s.enqueue o).turns = s.turns := rfl
@[simp] theorem State.enqueue_turn (o : Op) : (s.enqueue o).turn = s.turn := rfl
@[simp] theorem State.enqueue_picks (o : Op) : (s.enqueue o).picks = s.picks := rfl
@[simp] theorem State.enqueue_fresh (o : Op) : (s.enqueue o).fresh = s.fresh := rfl
@[simp] theorem State.enqueue_nextId (o : Op) : (s.enqueue o).nextId = s.nextId + 1 := rfl
@[simp] theorem State.enqueue_nextRot (o : Op) : (s.enqueue o).nextRot = s.nextRot := rfl
@[simp] theorem State.enqueue_nextOrder (o : Op) : (s.enqueue o).nextOrder = s.nextOrder := rfl

/-! ### Change of an operation -/

@[simp] theorem State.setOp_live (o : Op) : (s.setOp o).live = s.live := rfl
@[simp] theorem State.setOp_grp (o : Op) : (s.setOp o).grp = s.grp := rfl
@[simp] theorem State.setOp_frag (o : Op) : (s.setOp o).frag = s.frag := rfl
@[simp] theorem State.setOp_groups (o : Op) : (s.setOp o).groups = s.groups := rfl
@[simp] theorem State.setOp_latch (o : Op) : (s.setOp o).latch = s.latch := rfl
@[simp] theorem State.setOp_blocks (o : Op) : (s.setOp o).blocks = s.blocks := rfl
@[simp] theorem State.setOp_clusterLaunches (o : Op) : (s.setOp o).clusterLaunches = s.clusterLaunches := rfl
@[simp] theorem State.setOp_ops (o : Op) : (s.setOp o).ops = s.ops.map fun p => if p.id == o.id then o else p := rfl
@[simp] theorem State.setOp_fences (o : Op) : (s.setOp o).fences = s.fences := rfl
@[simp] theorem State.setOp_windows (o : Op) : (s.setOp o).windows = s.windows := rfl
@[simp] theorem State.setOp_spills (o : Op) : (s.setOp o).spills = s.spills := rfl
@[simp] theorem State.setOp_copyRuns (o : Op) : (s.setOp o).copyRuns = s.copyRuns := rfl
@[simp] theorem State.setOp_launches (o : Op) : (s.setOp o).launches = s.launches := rfl
@[simp] theorem State.setOp_queues (o : Op) : (s.setOp o).queues = s.queues := rfl
@[simp] theorem State.setOp_jobs (o : Op) : (s.setOp o).jobs = s.jobs := rfl
@[simp] theorem State.setOp_jobsNext (o : Op) : (s.setOp o).jobsNext = s.jobsNext := rfl
@[simp] theorem State.setOp_counters (o : Op) : (s.setOp o).counters = s.counters := rfl
@[simp] theorem State.setOp_tables (o : Op) : (s.setOp o).tables = s.tables := rfl
@[simp] theorem State.setOp_btc (o : Op) : (s.setOp o).btc = s.btc := rfl
@[simp] theorem State.setOp_pins (o : Op) : (s.setOp o).pins = s.pins := rfl
@[simp] theorem State.setOp_mem (o : Op) : (s.setOp o).mem = s.mem := rfl
@[simp] theorem State.setOp_dirty (o : Op) : (s.setOp o).dirty = s.dirty := rfl
@[simp] theorem State.setOp_hostMem (o : Op) : (s.setOp o).hostMem = s.hostMem := rfl
@[simp] theorem State.setOp_poison (o : Op) : (s.setOp o).poison = s.poison := rfl
@[simp] theorem State.setOp_correctable (o : Op) : (s.setOp o).correctable = s.correctable := rfl
@[simp] theorem State.setOp_scrubAt (o : Op) : (s.setOp o).scrubAt = s.scrubAt := rfl
@[simp] theorem State.setOp_retired (o : Op) : (s.setOp o).retired = s.retired := rfl
@[simp] theorem State.setOp_retiring (o : Op) : (s.setOp o).retiring = s.retiring := rfl
@[simp] theorem State.setOp_tlb (o : Op) : (s.setOp o).tlb = s.tlb := rfl
@[simp] theorem State.setOp_l1 (o : Op) : (s.setOp o).l1 = s.l1 := rfl
@[simp] theorem State.setOp_atc (o : Op) : (s.setOp o).atc = s.atc := rfl
@[simp] theorem State.setOp_ready (o : Op) : (s.setOp o).ready = s.ready := rfl
@[simp] theorem State.setOp_modeSplit (o : Op) : (s.setOp o).modeSplit = s.modeSplit := rfl
@[simp] theorem State.setOp_bar2Win (o : Op) : (s.setOp o).bar2Win = s.bar2Win := rfl
@[simp] theorem State.setOp_pwrLim (o : Op) : (s.setOp o).pwrLim = s.pwrLim := rfl
@[simp] theorem State.setOp_dumpA (o : Op) : (s.setOp o).dumpA = s.dumpA := rfl
@[simp] theorem State.setOp_traceA (o : Op) : (s.setOp o).traceA = s.traceA := rfl
@[simp] theorem State.setOp_logA (o : Op) : (s.setOp o).logA = s.logA := rfl
@[simp] theorem State.setOp_devId (o : Op) : (s.setOp o).devId = s.devId := rfl
@[simp] theorem State.setOp_power (o : Op) : (s.setOp o).power = s.power := rfl
@[simp] theorem State.setOp_clocks (o : Op) : (s.setOp o).clocks = s.clocks := rfl
@[simp] theorem State.setOp_lock (o : Op) : (s.setOp o).lock = s.lock := rfl
@[simp] theorem State.setOp_lockBroken (o : Op) : (s.setOp o).lockBroken = s.lockBroken := rfl
@[simp] theorem State.setOp_time (o : Op) : (s.setOp o).time = s.time := rfl
@[simp] theorem State.setOp_dbg (o : Op) : (s.setOp o).dbg = s.dbg := rfl
@[simp] theorem State.setOp_counts (o : Op) : (s.setOp o).counts = s.counts := rfl
@[simp] theorem State.setOp_traceNext (o : Op) : (s.setOp o).traceNext = s.traceNext := rfl
@[simp] theorem State.setOp_traceWait (o : Op) : (s.setOp o).traceWait = s.traceWait := rfl
@[simp] theorem State.setOp_heldBars (o : Op) : (s.setOp o).heldBars = s.heldBars := rfl
@[simp] theorem State.setOp_errorLog (o : Op) : (s.setOp o).errorLog = s.errorLog := rfl
@[simp] theorem State.setOp_replay (o : Op) : (s.setOp o).replay = s.replay := rfl
@[simp] theorem State.setOp_follow (o : Op) : (s.setOp o).follow = s.follow := rfl
@[simp] theorem State.setOp_hostWritten (o : Op) : (s.setOp o).hostWritten = s.hostWritten := rfl
@[simp] theorem State.setOp_jobPages (o : Op) : (s.setOp o).jobPages = s.jobPages := rfl
@[simp] theorem State.setOp_inj (o : Op) : (s.setOp o).inj = s.inj := rfl
@[simp] theorem State.setOp_out (o : Op) : (s.setOp o).out = s.out := rfl
@[simp] theorem State.setOp_hostReqs (o : Op) : (s.setOp o).hostReqs = s.hostReqs := rfl
@[simp] theorem State.setOp_kslots (o : Op) : (s.setOp o).kslots = s.kslots := rfl
@[simp] theorem State.setOp_streams (o : Op) : (s.setOp o).streams = s.streams := rfl
@[simp] theorem State.setOp_log (o : Op) : (s.setOp o).log = s.log := rfl
@[simp] theorem State.setOp_tdis (o : Op) : (s.setOp o).tdis = s.tdis := rfl
@[simp] theorem State.setOp_spdm (o : Op) : (s.setOp o).spdm = s.spdm := rfl
@[simp] theorem State.setOp_meas (o : Op) : (s.setOp o).meas = s.meas := rfl
@[simp] theorem State.setOp_firmware (o : Op) : (s.setOp o).firmware = s.firmware := rfl
@[simp] theorem State.setOp_clusters (o : Op) : (s.setOp o).clusters = s.clusters := rfl
@[simp] theorem State.setOp_bridle (o : Op) : (s.setOp o).bridle = s.bridle := rfl
@[simp] theorem State.setOp_ports (o : Op) : (s.setOp o).ports = s.ports := rfl
@[simp] theorem State.setOp_txStreams (o : Op) : (s.setOp o).txStreams = s.txStreams := rfl
@[simp] theorem State.setOp_flits (o : Op) : (s.setOp o).flits = s.flits := rfl
@[simp] theorem State.setOp_rxStreams (o : Op) : (s.setOp o).rxStreams = s.rxStreams := rfl
@[simp] theorem State.setOp_exportPins (o : Op) : (s.setOp o).exportPins = s.exportPins := rfl
@[simp] theorem State.setOp_contributions (o : Op) : (s.setOp o).contributions = s.contributions := rfl
@[simp] theorem State.setOp_aredCount (o : Op) : (s.setOp o).aredCount = s.aredCount := rfl
@[simp] theorem State.setOp_agenda (o : Op) : (s.setOp o).agenda = s.agenda := rfl
@[simp] theorem State.setOp_turns (o : Op) : (s.setOp o).turns = s.turns := rfl
@[simp] theorem State.setOp_turn (o : Op) : (s.setOp o).turn = s.turn := rfl
@[simp] theorem State.setOp_picks (o : Op) : (s.setOp o).picks = s.picks := rfl
@[simp] theorem State.setOp_fresh (o : Op) : (s.setOp o).fresh = s.fresh := rfl
@[simp] theorem State.setOp_nextId (o : Op) : (s.setOp o).nextId = s.nextId := rfl
@[simp] theorem State.setOp_nextRot (o : Op) : (s.setOp o).nextRot = s.nextRot := rfl
@[simp] theorem State.setOp_nextOrder (o : Op) : (s.setOp o).nextOrder = s.nextOrder := rfl

/-! ### Change of a block -/

@[simp] theorem State.updBlock_live (l b : Nat) (f : Block → Block) : (s.updBlock l b f).live = s.live := rfl
@[simp] theorem State.updBlock_grp (l b : Nat) (f : Block → Block) : (s.updBlock l b f).grp = s.grp := rfl
@[simp] theorem State.updBlock_frag (l b : Nat) (f : Block → Block) : (s.updBlock l b f).frag = s.frag := rfl
@[simp] theorem State.updBlock_groups (l b : Nat) (f : Block → Block) : (s.updBlock l b f).groups = s.groups := rfl
@[simp] theorem State.updBlock_latch (l b : Nat) (f : Block → Block) : (s.updBlock l b f).latch = s.latch := rfl
@[simp] theorem State.updBlock_blocks (l b : Nat) (f : Block → Block) : (s.updBlock l b f).blocks = s.blocks.map fun x => if x.l == l && x.idx == b then f x else x := rfl
@[simp] theorem State.updBlock_clusterLaunches (l b : Nat) (f : Block → Block) : (s.updBlock l b f).clusterLaunches = s.clusterLaunches := rfl
@[simp] theorem State.updBlock_ops (l b : Nat) (f : Block → Block) : (s.updBlock l b f).ops = s.ops := rfl
@[simp] theorem State.updBlock_fences (l b : Nat) (f : Block → Block) : (s.updBlock l b f).fences = s.fences := rfl
@[simp] theorem State.updBlock_windows (l b : Nat) (f : Block → Block) : (s.updBlock l b f).windows = s.windows := rfl
@[simp] theorem State.updBlock_spills (l b : Nat) (f : Block → Block) : (s.updBlock l b f).spills = s.spills := rfl
@[simp] theorem State.updBlock_copyRuns (l b : Nat) (f : Block → Block) : (s.updBlock l b f).copyRuns = s.copyRuns := rfl
@[simp] theorem State.updBlock_launches (l b : Nat) (f : Block → Block) : (s.updBlock l b f).launches = s.launches := rfl
@[simp] theorem State.updBlock_queues (l b : Nat) (f : Block → Block) : (s.updBlock l b f).queues = s.queues := rfl
@[simp] theorem State.updBlock_jobs (l b : Nat) (f : Block → Block) : (s.updBlock l b f).jobs = s.jobs := rfl
@[simp] theorem State.updBlock_jobsNext (l b : Nat) (f : Block → Block) : (s.updBlock l b f).jobsNext = s.jobsNext := rfl
@[simp] theorem State.updBlock_counters (l b : Nat) (f : Block → Block) : (s.updBlock l b f).counters = s.counters := rfl
@[simp] theorem State.updBlock_tables (l b : Nat) (f : Block → Block) : (s.updBlock l b f).tables = s.tables := rfl
@[simp] theorem State.updBlock_btc (l b : Nat) (f : Block → Block) : (s.updBlock l b f).btc = s.btc := rfl
@[simp] theorem State.updBlock_pins (l b : Nat) (f : Block → Block) : (s.updBlock l b f).pins = s.pins := rfl
@[simp] theorem State.updBlock_mem (l b : Nat) (f : Block → Block) : (s.updBlock l b f).mem = s.mem := rfl
@[simp] theorem State.updBlock_dirty (l b : Nat) (f : Block → Block) : (s.updBlock l b f).dirty = s.dirty := rfl
@[simp] theorem State.updBlock_hostMem (l b : Nat) (f : Block → Block) : (s.updBlock l b f).hostMem = s.hostMem := rfl
@[simp] theorem State.updBlock_poison (l b : Nat) (f : Block → Block) : (s.updBlock l b f).poison = s.poison := rfl
@[simp] theorem State.updBlock_correctable (l b : Nat) (f : Block → Block) : (s.updBlock l b f).correctable = s.correctable := rfl
@[simp] theorem State.updBlock_scrubAt (l b : Nat) (f : Block → Block) : (s.updBlock l b f).scrubAt = s.scrubAt := rfl
@[simp] theorem State.updBlock_retired (l b : Nat) (f : Block → Block) : (s.updBlock l b f).retired = s.retired := rfl
@[simp] theorem State.updBlock_retiring (l b : Nat) (f : Block → Block) : (s.updBlock l b f).retiring = s.retiring := rfl
@[simp] theorem State.updBlock_tlb (l b : Nat) (f : Block → Block) : (s.updBlock l b f).tlb = s.tlb := rfl
@[simp] theorem State.updBlock_l1 (l b : Nat) (f : Block → Block) : (s.updBlock l b f).l1 = s.l1 := rfl
@[simp] theorem State.updBlock_atc (l b : Nat) (f : Block → Block) : (s.updBlock l b f).atc = s.atc := rfl
@[simp] theorem State.updBlock_ready (l b : Nat) (f : Block → Block) : (s.updBlock l b f).ready = s.ready := rfl
@[simp] theorem State.updBlock_modeSplit (l b : Nat) (f : Block → Block) : (s.updBlock l b f).modeSplit = s.modeSplit := rfl
@[simp] theorem State.updBlock_bar2Win (l b : Nat) (f : Block → Block) : (s.updBlock l b f).bar2Win = s.bar2Win := rfl
@[simp] theorem State.updBlock_pwrLim (l b : Nat) (f : Block → Block) : (s.updBlock l b f).pwrLim = s.pwrLim := rfl
@[simp] theorem State.updBlock_dumpA (l b : Nat) (f : Block → Block) : (s.updBlock l b f).dumpA = s.dumpA := rfl
@[simp] theorem State.updBlock_traceA (l b : Nat) (f : Block → Block) : (s.updBlock l b f).traceA = s.traceA := rfl
@[simp] theorem State.updBlock_logA (l b : Nat) (f : Block → Block) : (s.updBlock l b f).logA = s.logA := rfl
@[simp] theorem State.updBlock_devId (l b : Nat) (f : Block → Block) : (s.updBlock l b f).devId = s.devId := rfl
@[simp] theorem State.updBlock_power (l b : Nat) (f : Block → Block) : (s.updBlock l b f).power = s.power := rfl
@[simp] theorem State.updBlock_clocks (l b : Nat) (f : Block → Block) : (s.updBlock l b f).clocks = s.clocks := rfl
@[simp] theorem State.updBlock_lock (l b : Nat) (f : Block → Block) : (s.updBlock l b f).lock = s.lock := rfl
@[simp] theorem State.updBlock_lockBroken (l b : Nat) (f : Block → Block) : (s.updBlock l b f).lockBroken = s.lockBroken := rfl
@[simp] theorem State.updBlock_time (l b : Nat) (f : Block → Block) : (s.updBlock l b f).time = s.time := rfl
@[simp] theorem State.updBlock_dbg (l b : Nat) (f : Block → Block) : (s.updBlock l b f).dbg = s.dbg := rfl
@[simp] theorem State.updBlock_counts (l b : Nat) (f : Block → Block) : (s.updBlock l b f).counts = s.counts := rfl
@[simp] theorem State.updBlock_traceNext (l b : Nat) (f : Block → Block) : (s.updBlock l b f).traceNext = s.traceNext := rfl
@[simp] theorem State.updBlock_traceWait (l b : Nat) (f : Block → Block) : (s.updBlock l b f).traceWait = s.traceWait := rfl
@[simp] theorem State.updBlock_heldBars (l b : Nat) (f : Block → Block) : (s.updBlock l b f).heldBars = s.heldBars := rfl
@[simp] theorem State.updBlock_errorLog (l b : Nat) (f : Block → Block) : (s.updBlock l b f).errorLog = s.errorLog := rfl
@[simp] theorem State.updBlock_replay (l b : Nat) (f : Block → Block) : (s.updBlock l b f).replay = s.replay := rfl
@[simp] theorem State.updBlock_follow (l b : Nat) (f : Block → Block) : (s.updBlock l b f).follow = s.follow := rfl
@[simp] theorem State.updBlock_hostWritten (l b : Nat) (f : Block → Block) : (s.updBlock l b f).hostWritten = s.hostWritten := rfl
@[simp] theorem State.updBlock_jobPages (l b : Nat) (f : Block → Block) : (s.updBlock l b f).jobPages = s.jobPages := rfl
@[simp] theorem State.updBlock_inj (l b : Nat) (f : Block → Block) : (s.updBlock l b f).inj = s.inj := rfl
@[simp] theorem State.updBlock_out (l b : Nat) (f : Block → Block) : (s.updBlock l b f).out = s.out := rfl
@[simp] theorem State.updBlock_hostReqs (l b : Nat) (f : Block → Block) : (s.updBlock l b f).hostReqs = s.hostReqs := rfl
@[simp] theorem State.updBlock_kslots (l b : Nat) (f : Block → Block) : (s.updBlock l b f).kslots = s.kslots := rfl
@[simp] theorem State.updBlock_streams (l b : Nat) (f : Block → Block) : (s.updBlock l b f).streams = s.streams := rfl
@[simp] theorem State.updBlock_log (l b : Nat) (f : Block → Block) : (s.updBlock l b f).log = s.log := rfl
@[simp] theorem State.updBlock_tdis (l b : Nat) (f : Block → Block) : (s.updBlock l b f).tdis = s.tdis := rfl
@[simp] theorem State.updBlock_spdm (l b : Nat) (f : Block → Block) : (s.updBlock l b f).spdm = s.spdm := rfl
@[simp] theorem State.updBlock_meas (l b : Nat) (f : Block → Block) : (s.updBlock l b f).meas = s.meas := rfl
@[simp] theorem State.updBlock_firmware (l b : Nat) (f : Block → Block) : (s.updBlock l b f).firmware = s.firmware := rfl
@[simp] theorem State.updBlock_clusters (l b : Nat) (f : Block → Block) : (s.updBlock l b f).clusters = s.clusters := rfl
@[simp] theorem State.updBlock_bridle (l b : Nat) (f : Block → Block) : (s.updBlock l b f).bridle = s.bridle := rfl
@[simp] theorem State.updBlock_ports (l b : Nat) (f : Block → Block) : (s.updBlock l b f).ports = s.ports := rfl
@[simp] theorem State.updBlock_txStreams (l b : Nat) (f : Block → Block) : (s.updBlock l b f).txStreams = s.txStreams := rfl
@[simp] theorem State.updBlock_flits (l b : Nat) (f : Block → Block) : (s.updBlock l b f).flits = s.flits := rfl
@[simp] theorem State.updBlock_rxStreams (l b : Nat) (f : Block → Block) : (s.updBlock l b f).rxStreams = s.rxStreams := rfl
@[simp] theorem State.updBlock_exportPins (l b : Nat) (f : Block → Block) : (s.updBlock l b f).exportPins = s.exportPins := rfl
@[simp] theorem State.updBlock_contributions (l b : Nat) (f : Block → Block) : (s.updBlock l b f).contributions = s.contributions := rfl
@[simp] theorem State.updBlock_aredCount (l b : Nat) (f : Block → Block) : (s.updBlock l b f).aredCount = s.aredCount := rfl
@[simp] theorem State.updBlock_agenda (l b : Nat) (f : Block → Block) : (s.updBlock l b f).agenda = s.agenda := rfl
@[simp] theorem State.updBlock_turns (l b : Nat) (f : Block → Block) : (s.updBlock l b f).turns = s.turns := rfl
@[simp] theorem State.updBlock_turn (l b : Nat) (f : Block → Block) : (s.updBlock l b f).turn = s.turn := rfl
@[simp] theorem State.updBlock_picks (l b : Nat) (f : Block → Block) : (s.updBlock l b f).picks = s.picks := rfl
@[simp] theorem State.updBlock_fresh (l b : Nat) (f : Block → Block) : (s.updBlock l b f).fresh = s.fresh := rfl
@[simp] theorem State.updBlock_nextId (l b : Nat) (f : Block → Block) : (s.updBlock l b f).nextId = s.nextId := rfl
@[simp] theorem State.updBlock_nextRot (l b : Nat) (f : Block → Block) : (s.updBlock l b f).nextRot = s.nextRot := rfl
@[simp] theorem State.updBlock_nextOrder (l b : Nat) (f : Block → Block) : (s.updBlock l b f).nextOrder = s.nextOrder := rfl

/-! ### Change of a launch -/

@[simp] theorem State.updLaunch_live (l : Nat) (f : Launch → Launch) : (s.updLaunch l f).live = s.live := rfl
@[simp] theorem State.updLaunch_grp (l : Nat) (f : Launch → Launch) : (s.updLaunch l f).grp = s.grp := rfl
@[simp] theorem State.updLaunch_frag (l : Nat) (f : Launch → Launch) : (s.updLaunch l f).frag = s.frag := rfl
@[simp] theorem State.updLaunch_groups (l : Nat) (f : Launch → Launch) : (s.updLaunch l f).groups = s.groups := rfl
@[simp] theorem State.updLaunch_latch (l : Nat) (f : Launch → Launch) : (s.updLaunch l f).latch = s.latch := rfl
@[simp] theorem State.updLaunch_blocks (l : Nat) (f : Launch → Launch) : (s.updLaunch l f).blocks = s.blocks := rfl
@[simp] theorem State.updLaunch_clusterLaunches (l : Nat) (f : Launch → Launch) : (s.updLaunch l f).clusterLaunches = s.clusterLaunches := rfl
@[simp] theorem State.updLaunch_ops (l : Nat) (f : Launch → Launch) : (s.updLaunch l f).ops = s.ops := rfl
@[simp] theorem State.updLaunch_fences (l : Nat) (f : Launch → Launch) : (s.updLaunch l f).fences = s.fences := rfl
@[simp] theorem State.updLaunch_windows (l : Nat) (f : Launch → Launch) : (s.updLaunch l f).windows = s.windows := rfl
@[simp] theorem State.updLaunch_spills (l : Nat) (f : Launch → Launch) : (s.updLaunch l f).spills = s.spills := rfl
@[simp] theorem State.updLaunch_copyRuns (l : Nat) (f : Launch → Launch) : (s.updLaunch l f).copyRuns = s.copyRuns := rfl
@[simp] theorem State.updLaunch_launches (l : Nat) (f : Launch → Launch) : (s.updLaunch l f).launches = s.launches.map fun x => if x.uid == l then f x else x := rfl
@[simp] theorem State.updLaunch_queues (l : Nat) (f : Launch → Launch) : (s.updLaunch l f).queues = s.queues := rfl
@[simp] theorem State.updLaunch_jobs (l : Nat) (f : Launch → Launch) : (s.updLaunch l f).jobs = s.jobs := rfl
@[simp] theorem State.updLaunch_jobsNext (l : Nat) (f : Launch → Launch) : (s.updLaunch l f).jobsNext = s.jobsNext := rfl
@[simp] theorem State.updLaunch_counters (l : Nat) (f : Launch → Launch) : (s.updLaunch l f).counters = s.counters := rfl
@[simp] theorem State.updLaunch_tables (l : Nat) (f : Launch → Launch) : (s.updLaunch l f).tables = s.tables := rfl
@[simp] theorem State.updLaunch_btc (l : Nat) (f : Launch → Launch) : (s.updLaunch l f).btc = s.btc := rfl
@[simp] theorem State.updLaunch_pins (l : Nat) (f : Launch → Launch) : (s.updLaunch l f).pins = s.pins := rfl
@[simp] theorem State.updLaunch_mem (l : Nat) (f : Launch → Launch) : (s.updLaunch l f).mem = s.mem := rfl
@[simp] theorem State.updLaunch_dirty (l : Nat) (f : Launch → Launch) : (s.updLaunch l f).dirty = s.dirty := rfl
@[simp] theorem State.updLaunch_hostMem (l : Nat) (f : Launch → Launch) : (s.updLaunch l f).hostMem = s.hostMem := rfl
@[simp] theorem State.updLaunch_poison (l : Nat) (f : Launch → Launch) : (s.updLaunch l f).poison = s.poison := rfl
@[simp] theorem State.updLaunch_correctable (l : Nat) (f : Launch → Launch) : (s.updLaunch l f).correctable = s.correctable := rfl
@[simp] theorem State.updLaunch_scrubAt (l : Nat) (f : Launch → Launch) : (s.updLaunch l f).scrubAt = s.scrubAt := rfl
@[simp] theorem State.updLaunch_retired (l : Nat) (f : Launch → Launch) : (s.updLaunch l f).retired = s.retired := rfl
@[simp] theorem State.updLaunch_retiring (l : Nat) (f : Launch → Launch) : (s.updLaunch l f).retiring = s.retiring := rfl
@[simp] theorem State.updLaunch_tlb (l : Nat) (f : Launch → Launch) : (s.updLaunch l f).tlb = s.tlb := rfl
@[simp] theorem State.updLaunch_l1 (l : Nat) (f : Launch → Launch) : (s.updLaunch l f).l1 = s.l1 := rfl
@[simp] theorem State.updLaunch_atc (l : Nat) (f : Launch → Launch) : (s.updLaunch l f).atc = s.atc := rfl
@[simp] theorem State.updLaunch_ready (l : Nat) (f : Launch → Launch) : (s.updLaunch l f).ready = s.ready := rfl
@[simp] theorem State.updLaunch_modeSplit (l : Nat) (f : Launch → Launch) : (s.updLaunch l f).modeSplit = s.modeSplit := rfl
@[simp] theorem State.updLaunch_bar2Win (l : Nat) (f : Launch → Launch) : (s.updLaunch l f).bar2Win = s.bar2Win := rfl
@[simp] theorem State.updLaunch_pwrLim (l : Nat) (f : Launch → Launch) : (s.updLaunch l f).pwrLim = s.pwrLim := rfl
@[simp] theorem State.updLaunch_dumpA (l : Nat) (f : Launch → Launch) : (s.updLaunch l f).dumpA = s.dumpA := rfl
@[simp] theorem State.updLaunch_traceA (l : Nat) (f : Launch → Launch) : (s.updLaunch l f).traceA = s.traceA := rfl
@[simp] theorem State.updLaunch_logA (l : Nat) (f : Launch → Launch) : (s.updLaunch l f).logA = s.logA := rfl
@[simp] theorem State.updLaunch_devId (l : Nat) (f : Launch → Launch) : (s.updLaunch l f).devId = s.devId := rfl
@[simp] theorem State.updLaunch_power (l : Nat) (f : Launch → Launch) : (s.updLaunch l f).power = s.power := rfl
@[simp] theorem State.updLaunch_clocks (l : Nat) (f : Launch → Launch) : (s.updLaunch l f).clocks = s.clocks := rfl
@[simp] theorem State.updLaunch_lock (l : Nat) (f : Launch → Launch) : (s.updLaunch l f).lock = s.lock := rfl
@[simp] theorem State.updLaunch_lockBroken (l : Nat) (f : Launch → Launch) : (s.updLaunch l f).lockBroken = s.lockBroken := rfl
@[simp] theorem State.updLaunch_time (l : Nat) (f : Launch → Launch) : (s.updLaunch l f).time = s.time := rfl
@[simp] theorem State.updLaunch_dbg (l : Nat) (f : Launch → Launch) : (s.updLaunch l f).dbg = s.dbg := rfl
@[simp] theorem State.updLaunch_counts (l : Nat) (f : Launch → Launch) : (s.updLaunch l f).counts = s.counts := rfl
@[simp] theorem State.updLaunch_traceNext (l : Nat) (f : Launch → Launch) : (s.updLaunch l f).traceNext = s.traceNext := rfl
@[simp] theorem State.updLaunch_traceWait (l : Nat) (f : Launch → Launch) : (s.updLaunch l f).traceWait = s.traceWait := rfl
@[simp] theorem State.updLaunch_heldBars (l : Nat) (f : Launch → Launch) : (s.updLaunch l f).heldBars = s.heldBars := rfl
@[simp] theorem State.updLaunch_errorLog (l : Nat) (f : Launch → Launch) : (s.updLaunch l f).errorLog = s.errorLog := rfl
@[simp] theorem State.updLaunch_replay (l : Nat) (f : Launch → Launch) : (s.updLaunch l f).replay = s.replay := rfl
@[simp] theorem State.updLaunch_follow (l : Nat) (f : Launch → Launch) : (s.updLaunch l f).follow = s.follow := rfl
@[simp] theorem State.updLaunch_hostWritten (l : Nat) (f : Launch → Launch) : (s.updLaunch l f).hostWritten = s.hostWritten := rfl
@[simp] theorem State.updLaunch_jobPages (l : Nat) (f : Launch → Launch) : (s.updLaunch l f).jobPages = s.jobPages := rfl
@[simp] theorem State.updLaunch_inj (l : Nat) (f : Launch → Launch) : (s.updLaunch l f).inj = s.inj := rfl
@[simp] theorem State.updLaunch_out (l : Nat) (f : Launch → Launch) : (s.updLaunch l f).out = s.out := rfl
@[simp] theorem State.updLaunch_hostReqs (l : Nat) (f : Launch → Launch) : (s.updLaunch l f).hostReqs = s.hostReqs := rfl
@[simp] theorem State.updLaunch_kslots (l : Nat) (f : Launch → Launch) : (s.updLaunch l f).kslots = s.kslots := rfl
@[simp] theorem State.updLaunch_streams (l : Nat) (f : Launch → Launch) : (s.updLaunch l f).streams = s.streams := rfl
@[simp] theorem State.updLaunch_log (l : Nat) (f : Launch → Launch) : (s.updLaunch l f).log = s.log := rfl
@[simp] theorem State.updLaunch_tdis (l : Nat) (f : Launch → Launch) : (s.updLaunch l f).tdis = s.tdis := rfl
@[simp] theorem State.updLaunch_spdm (l : Nat) (f : Launch → Launch) : (s.updLaunch l f).spdm = s.spdm := rfl
@[simp] theorem State.updLaunch_meas (l : Nat) (f : Launch → Launch) : (s.updLaunch l f).meas = s.meas := rfl
@[simp] theorem State.updLaunch_firmware (l : Nat) (f : Launch → Launch) : (s.updLaunch l f).firmware = s.firmware := rfl
@[simp] theorem State.updLaunch_clusters (l : Nat) (f : Launch → Launch) : (s.updLaunch l f).clusters = s.clusters := rfl
@[simp] theorem State.updLaunch_bridle (l : Nat) (f : Launch → Launch) : (s.updLaunch l f).bridle = s.bridle := rfl
@[simp] theorem State.updLaunch_ports (l : Nat) (f : Launch → Launch) : (s.updLaunch l f).ports = s.ports := rfl
@[simp] theorem State.updLaunch_txStreams (l : Nat) (f : Launch → Launch) : (s.updLaunch l f).txStreams = s.txStreams := rfl
@[simp] theorem State.updLaunch_flits (l : Nat) (f : Launch → Launch) : (s.updLaunch l f).flits = s.flits := rfl
@[simp] theorem State.updLaunch_rxStreams (l : Nat) (f : Launch → Launch) : (s.updLaunch l f).rxStreams = s.rxStreams := rfl
@[simp] theorem State.updLaunch_exportPins (l : Nat) (f : Launch → Launch) : (s.updLaunch l f).exportPins = s.exportPins := rfl
@[simp] theorem State.updLaunch_contributions (l : Nat) (f : Launch → Launch) : (s.updLaunch l f).contributions = s.contributions := rfl
@[simp] theorem State.updLaunch_aredCount (l : Nat) (f : Launch → Launch) : (s.updLaunch l f).aredCount = s.aredCount := rfl
@[simp] theorem State.updLaunch_agenda (l : Nat) (f : Launch → Launch) : (s.updLaunch l f).agenda = s.agenda := rfl
@[simp] theorem State.updLaunch_turns (l : Nat) (f : Launch → Launch) : (s.updLaunch l f).turns = s.turns := rfl
@[simp] theorem State.updLaunch_turn (l : Nat) (f : Launch → Launch) : (s.updLaunch l f).turn = s.turn := rfl
@[simp] theorem State.updLaunch_picks (l : Nat) (f : Launch → Launch) : (s.updLaunch l f).picks = s.picks := rfl
@[simp] theorem State.updLaunch_fresh (l : Nat) (f : Launch → Launch) : (s.updLaunch l f).fresh = s.fresh := rfl
@[simp] theorem State.updLaunch_nextId (l : Nat) (f : Launch → Launch) : (s.updLaunch l f).nextId = s.nextId := rfl
@[simp] theorem State.updLaunch_nextRot (l : Nat) (f : Launch → Launch) : (s.updLaunch l f).nextRot = s.nextRot := rfl
@[simp] theorem State.updLaunch_nextOrder (l : Nat) (f : Launch → Launch) : (s.updLaunch l f).nextOrder = s.nextOrder := rfl

end Sys2Proof.Machine
end

