-- ==== Sys2Proof/Laws/Places.lean ====
section
/-! SUPPORT. Laws of places: what a byte reads as after writes to places of device memory, host memory and scratchpads, and
that such writes keep every memory in canonical form. -/

namespace Sys2Proof.Machine

/-- A write to a place keeps every memory in canonical form. -/
theorem writeLoc_memWf {s : State} (p : Loc) (v : Byte) (h : s.memWf) : (s.writeLoc p v).memWf := by
  cases p with
  | dev pa => exact ⟨writeByte_wf _ _ h.1, h.2.1, h.2.2⟩
  | host q va => exact ⟨h.1, writeByte_wf _ _ h.2.1, h.2.2⟩
  | scr l blk o =>
    refine ⟨h.1, h.2.1, fun b hb => ?_⟩
    simp only [State.writeLoc, State.updBlock_blocks, List.mem_map] at hb
    obtain ⟨x, hx, rfl⟩ := hb
    split
    · exact writeByte_wf _ _ (h.2.2 x hx)
    · exact h.2.2 x hx

/-- Writes to places keep every memory in canonical form. -/
theorem writeLocs_memWf : ∀ {s : State} (ps : List Loc) (vs : List Byte), s.memWf → (s.writeLocs ps vs).memWf
  | _, [], _, h => by simpa [State.writeLocs] using h
  | _, _ :: _, [], h => by simpa [State.writeLocs] using h
  | _, p :: ps, v :: vs, h => by
    rw [State.writeLocs]
    exact writeLocs_memWf ps vs (writeLoc_memWf p v h)

/-- A write to a place leaves every device byte that is not that place. -/
theorem mem_writeLoc_other {s : State} (p : Loc) (v : Byte) (x : Nat) (h : s.memWf) (hx : Loc.dev x ≠ p) :
    readByte (s.writeLoc p v).mem x = readByte s.mem x := by
  cases p with
  | dev pa => exact readByte_writeByte_other v (fun e => hx (by rw [e])) h.1
  | host _ _ => rfl
  | scr _ _ _ => rfl

/-- Writes to places leave every device byte that is none of them. -/
theorem mem_writeLocs_other : ∀ {s : State} (ps : List Loc) (vs : List Byte) (x : Nat), s.memWf → Loc.dev x ∉ ps →
    readByte (s.writeLocs ps vs).mem x = readByte s.mem x
  | _, [], _, _, _, _ => by simp [State.writeLocs]
  | _, _ :: _, [], _, _, _ => by simp [State.writeLocs]
  | _, p :: ps, v :: vs, x, h, hx => by
    simp only [List.mem_cons, not_or] at hx
    rw [State.writeLocs, mem_writeLocs_other ps vs x (writeLoc_memWf p v h) hx.2, mem_writeLoc_other p v x h hx.1]

/-- A written device byte reads back, if no later write of the list names it. -/
theorem mem_writeLocs_same : ∀ {s : State} (ps : List Loc) (vs : List Byte) (n x : Nat) (v : Byte), s.memWf → ps.Nodup →
    ps[n]? = some (.dev x) → vs[n]? = some v → readByte (s.writeLocs ps vs).mem x = v
  | _, [], _, _, _, _, _, _, hp, _ => by simp at hp
  | _, _ :: _, [], _, _, _, _, _, _, hv => by simp at hv
  | _, p :: ps, w :: vs, 0, x, v, h, hn, hp, hv => by
    simp only [List.getElem?_cons_zero, Option.some.injEq] at hp hv
    subst hp; subst hv
    rw [State.writeLocs, mem_writeLocs_other ps vs x (writeLoc_memWf _ _ h) (List.nodup_cons.mp hn).1]
    exact readByte_writeByte_same x w h.1
  | _, p :: ps, w :: vs, n + 1, x, v, h, hn, hp, hv => by
    simp only [List.getElem?_cons_succ] at hp hv
    rw [State.writeLocs]
    exact mem_writeLocs_same ps vs n x v (writeLoc_memWf p w h) (List.nodup_cons.mp hn).2 hp hv

/-- Writes to places touch memories only. -/
theorem writeLocs_frame : ∀ (s : State) (ps : List Loc) (vs : List Byte),
    s.writeLocs ps vs = { s with
      mem := (s.writeLocs ps vs).mem, hostMem := (s.writeLocs ps vs).hostMem, blocks := (s.writeLocs ps vs).blocks }
  | _, [], _ => by simp [State.writeLocs]
  | _, _ :: _, [] => by simp [State.writeLocs]
  | s, p :: ps, v :: vs => by
    rw [State.writeLocs, writeLocs_frame (s.writeLoc p v) ps vs]
    cases p <;> rfl

end Sys2Proof.Machine
end

