-- ==== Sys2Proof/Laws/Shapes.lean ====
section
/-! SUPPORT. Laws of the shared shapes: what a register write does, and what a lane-wise instruction comes to. -/

namespace Sys2Proof.Machine

/-! ### Lanes -/

theorem Lanes.get_ofFn (f : Fin 32 → BitVec 32) (l : Nat) (h : l < 32) : Lanes.get (Vector.ofFn f) l = f ⟨l, h⟩ := by
  simp [Lanes.get, h]

theorem Lanes.get_splat (x : BitVec 32) (l : Nat) (h : l < 32) : Lanes.get (Lanes.splat x) l = x := by
  simp [Lanes.splat, Lanes.get, h]

theorem Lanes.get_mergeLanes (m : Mask) (old new : Lanes) (l : Nat) (h : l < 32) :
    Lanes.get (mergeLanes m old new) l = if m.getLsbD l then Lanes.get new l else Lanes.get old l := by
  simp only [mergeLanes, Lanes.get_ofFn _ l h]
  split <;> simp [Lanes.get, h]

theorem compAt_nil (j : Nat) : compAt [] j = Lanes.splat 0 := by simp [compAt]

theorem compAt_map_range (n : Nat) (f : Nat → Lanes) (j : Nat) (h : j < n) : compAt ((List.range n).map f) j = f j := by
  simp [compAt, List.getD, h]

/-! ### Frees -/

@[simp] theorem freeNames_grp (s : State) (ns : List Reg) : (s.freeNames ns).grp = s.grp.freed ns := rfl

/-- What a name's registers go back to the pool from: the map, the reserved ones, and who is still to read them. -/
theorem Group.unmap_frame (g : Group) (n : Reg) :
    g.unmap n = { g with
      v := (g.unmap n).v, reserved := (g.unmap n).reserved, pending := (g.unmap n).pending,
      deferredFree := (g.unmap n).deferredFree } := by
  unfold Group.unmap; simp only; split <;> rfl

theorem Group.unmap_isPending (g : Group) (n : Reg) (c : RegClass) (k : Nat) :
    (g.unmap n).isPending c k = g.isPending c k := by
  unfold Group.unmap Group.isPending
  simp only
  split
  · rfl
  · simp only [List.any_map]
    congr 1; funext p
    simp only [Function.comp]
    split <;> rfl

/-- A free leaves what is still to come to a register. -/
theorem Group.freed_isPending (ns : List Reg) (c : RegClass) (k : Nat) :
    ∀ g : Group, (g.freed ns).isPending c k = g.isPending c k := by
  induction ns with
  | nil => intro g; rfl
  | cons n t ih =>
    intro g
    refine (ih (g.freeName n)).trans ?_
    unfold Group.freeName
    split
    · rfl
    · split
      · rfl
      · exact g.unmap_isPending n c k

/-- A free touches the renaming map, the reserved registers with their readers, and the deferred-free list only. -/
theorem Group.freeName_frame (g : Group) (n : Reg) :
    g.freeName n = { g with
      v := (g.freeName n).v, reserved := (g.freeName n).reserved, pending := (g.freeName n).pending,
      deferredFree := (g.freeName n).deferredFree } := by
  unfold Group.freeName; split
  · rfl
  · split
    · rfl
    · exact g.unmap_frame n

theorem Group.freed_frame (ns : List Reg) : ∀ g : Group,
    g.freed ns = { g with
      v := (g.freed ns).v, reserved := (g.freed ns).reserved, pending := (g.freed ns).pending,
      deferredFree := (g.freed ns).deferredFree } := by
  induction ns with
  | nil => intro g; rfl
  | cons n t ih =>
    intro g
    have h1 := g.freeName_frame n
    have h2 := ih (g.freeName n)
    have h3 : g.freed (n :: t) = (g.freeName n).freed t := rfl
    rw [h3, h2]
    rw [h1]

/-- Noting a read of unmapped names changes nothing else. -/
theorem touch_eq (s : State) (ns : List Reg) :
    s.touch ns = s.setGrp fun g => { g with unmapped := s.grp.unmapped || !(ns.all s.grp.mapped) } := by
  unfold State.touch
  split
  · rename_i h; simp [State.setGrp, h]
  · rename_i h; simp [State.setGrp, h]

/-! ### Register writes -/

/-- The map after an allocation, at the name and elsewhere. -/
theorem Group.alloc_lane (g : Group) (d : Reg) (j l : Nat) (hl : l < 32) :
    (compAt (((g.alloc d).vreg d).getD []) j).get l = g.lane d j l := by
  unfold Group.alloc
  by_cases h : g.mapped d
  · simp [h, Group.lane]
  · have hn : g.vreg d = none := by simpa [Group.mapped] using h
    have hv : ({ g with v := g.v.set d.toNat (some (List.replicate (g.kt + 1) (Lanes.splat 0))) d.isLt } : Group).vreg d
        = some (List.replicate (g.kt + 1) (Lanes.splat 0)) := by simp [Group.vreg]
    simp only [h, Bool.false_eq_true, if_false, hv, Group.lane, hn, Option.getD_some, Option.getD_none]
    rw [compAt_nil, Lanes.get_splat _ _ hl]
    simp only [compAt]
    by_cases hj : j < g.kt + 1
    · simp [List.getD, hj, Lanes.get_splat _ _ hl]
    · simp [List.getD, hj, Lanes.get_splat _ _ hl]

theorem Group.alloc_other (g : Group) (d n : Reg) (h : n ≠ d) : (g.alloc d).vreg n = g.vreg n := by
  unfold Group.alloc
  split
  · rfl
  · have : d.toNat ≠ n.toNat := fun e => h (BitVec.eq_of_toNat_eq e.symm)
    simp [Group.vreg, this]

theorem Group.alloc_frame (g : Group) (d : Reg) : g.alloc d = { g with v := (g.alloc d).v } := by
  unfold Group.alloc; split <;> rfl

/-- The state in which an instruction writes: its sources noted, its frees applied. -/
def State.readied (s : State) (srcs frees : List Reg) : State := (s.touch srcs).freeNames frees

theorem readied_grp (s : State) (srcs frees : List Reg) :
    (s.readied srcs frees).grp = { s.grp.freed frees with
      unmapped := s.grp.unmapped || !(srcs.all s.grp.mapped) } := by
  have key : ∀ (ns : List Reg) (g : Group) (u : Bool),
      ({ g with unmapped := u } : Group).freed ns = { g.freed ns with unmapped := u } := by
    intro ns
    induction ns with
    | nil => intro g u; rfl
    | cons n t ih =>
      intro g u
      have h1 : ({ g with unmapped := u } : Group).freeName n = { g.freeName n with unmapped := u } := by
        unfold Group.freeName
        have hm : ({ g with unmapped := u } : Group).mapped n = g.mapped n := rfl
        have hs : ({ g with unmapped := u } : Group).split? = g.split? := rfl
        rw [hm, hs]
        split
        · rfl
        · split
          · rfl
          · unfold Group.unmap
            have hr : ({ g with unmapped := u } : Group).readers n = g.readers n := rfl
            simp only [hr]
            cases (g.readers n).isEmpty <;> rfl
      show (({ g with unmapped := u } : Group).freeName n).freed t = _
      rw [h1, ih]
      rfl
  unfold State.readied
  rw [touch_eq, freeNames_grp]
  simp only [State.setGrp]
  rw [key]

theorem readied_frame (s : State) (srcs frees : List Reg) :
    s.readied srcs frees = { s with grp := (s.readied srcs frees).grp } := by
  unfold State.readied
  rw [touch_eq]
  rfl

/-- The components a write leaves in its destination. -/
def Group.merged (g : Group) (d : Reg) (m : Mask) (r : VReg) : VReg :=
  (List.range (g.kt + 1)).map fun j => mergeLanes m (compAt (((g.alloc d).vreg d).getD []) j) (compAt r j)

/-- Nothing that awaits its WAIT read a name that is settled (R281). -/
theorem Group.readFrom_settled (g : Group) (d : Reg) (hd : g.settledV d) : g.readFrom d.toNat = [] := by
  have h := hd.1
  unfold Group.isPending at h
  unfold Group.readFrom
  rw [List.filter_eq_nil_iff]
  intro x _
  simp only [List.any_eq_true, not_exists, not_and, Bool.and_eq_true]
  rw [List.any_eq_false] at h
  intro p hp hc hn
  exact h p hp (by simp [hc.2, beq_iff_eq.mp hn])

theorem writeV_settled (u : State) (d : Reg) (m : Mask) (r : VReg) (n : Nat) (hd : u.grp.settledV d) (hn : n ≠ 0) :
    u.writeV d m r n = { u with grp := { u.grp with
      v := (u.grp.alloc d).v.set d.toNat (some (u.grp.merged d m r)) d.isLt,
      deferredFree := u.grp.deferredFree &&& ~~~(1#32 <<< d.toNat),
      lat := { cls := .vec, name := d.toNat, ready := u.grp.cycle + n, old := ((u.grp.alloc d).vreg d).getD [],
               oldWord := 0, wrote := u.grp.merged d m r } :: u.grp.lat } } := by
  have ho : (u.grp.alloc d).isPending .vec d.toNat = false := by rw [Group.alloc_frame]; exact hd.1
  have hl : (u.grp.alloc d).late .vec d.toNat = none := by rw [Group.alloc_frame]; exact hd.2
  unfold State.writeV
  rw [u.grp.readFrom_settled d hd, List.foldl_nil]
  unfold Group.writeV
  simp only [ho, hl, Group.firstStays, Bool.false_eq_true, if_false, Option.isSome_none, Bool.false_and, if_neg hn]
  rw [Group.alloc_frame]
  rfl

/-- What a write of a vector register comes to when nothing is still to come to it (R12, R13, R21). -/
theorem writeV_wrote (s : State) (srcs frees : List Reg) (d : Reg) (m : Mask) (r : VReg) (n : Nat)
    (hd : s.grp.settledV d) (hn : n ≠ 0) :
    WroteV s srcs frees d m n (fun j l => (compAt r j).get l) ((s.readied srcs frees).writeV d m r n) := by
  have hg := readied_grp s srcs frees
  have hlat : (s.readied srcs frees).grp.lat = s.grp.lat := by rw [hg, Group.freed_frame]
  have hcyc : (s.readied srcs frees).grp.cycle = s.grp.cycle := by rw [hg, Group.freed_frame]
  have hd' : (s.readied srcs frees).grp.settledV d := by
    refine ⟨?_, ?_⟩
    · rw [hg]; exact (Group.freed_isPending frees .vec d.toNat s.grp).trans hd.1
    · have h := hd.2
      unfold Group.late at h ⊢
      rw [hlat, hcyc]; exact h
  have hv : ∀ k : Reg, (s.readied srcs frees).grp.vreg k = (s.grp.freed frees).vreg k := by intro k; rw [hg]; rfl
  rw [writeV_settled _ d m r n hd' hn]
  have hkt : (s.readied srcs frees).grp.kt = s.grp.kt := by rw [hg, Group.freed_frame]
  generalize hW : ({ s.readied srcs frees with grp := _ } : State) = W
  have e : W.grp.vreg d = some ((s.readied srcs frees).grp.merged d m r) := by rw [← hW]; simp [Group.vreg]
  refine ⟨?_, ?_, ?_, ?_, ?_⟩
  · simp [Group.mapped, e]
  · intro j hj l hl
    simp only [Group.lane]
    rw [e]
    simp only [Option.getD_some, Group.merged]
    rw [compAt_map_range _ _ _ (by omega), Lanes.get_mergeLanes _ _ _ _ hl, Group.alloc_lane _ _ _ _ hl]
    simp only [Group.lane, hv]
  · intro k hk
    have hne : d.toNat ≠ k.toNat := fun h => hk (BitVec.eq_of_toNat_eq h.symm)
    have hs : W.grp.v = ((s.readied srcs frees).grp.alloc d).v.set d.toNat
        (some ((s.readied srcs frees).grp.merged d m r)) d.isLt := by rw [← hW]
    rw [← hv k, ← Group.alloc_other (s.readied srcs frees).grp d k hk]
    unfold Group.vreg
    rw [hs]
    exact Vector.getElem_set_ne d.isLt k.isLt hne
  · rw [← hW]; exact ⟨_, by rw [← hlat], rfl, rfl, by rw [← hcyc]⟩
  · rw [← hW, readied_frame s srcs frees, hg]

/-- A lane-wise instruction with one destination completes when it may write (R12 to R14, R78). -/
theorem lanewise_completes (s : State) (g : PReg) (srcs frees : List Reg) (d : Reg) (n : Nat) (r : VReg)
    (h : s.writesV g frees [d]) (hn : n ≠ 0) :
    lanewise s g srcs frees [d] (fun act t => t.writeV d act r n) =
        .done ((s.readied srcs frees).writeV d (s.active g) r n) ∧
      WroteV s srcs frees d (s.active g) n (fun j l => (compAt r j).get l) ((s.readied srcs frees).writeV d (s.active g) r n) := by
  obtain ⟨_, hact, hroom, hd⟩ := h
  refine ⟨?_, writeV_wrote s srcs frees d _ r n (hd d (by simp)) hn⟩
  have hr : (s.readied srcs frees).grp.room [d] = .ok := by
    rw [readied_grp, ← hroom]
    rfl
  unfold lanewise
  simp only [hact, if_false]
  show (match (s.readied srcs frees).grp.room [d] with
    | .quota => Eff.trap (exc 5)
    | .stall => Eff.stall s
    | .ok => Eff.done ((s.readied srcs frees).writeV d (s.active g) r n)) = _
  rw [hr]

/-- The result of a write may be said in other words. -/
theorem WroteV.congr {s t : State} {srcs frees : List Reg} {d : Reg} {m : Mask} {n : Nat} {r r' : Nat → Nat → BitVec 32}
    (h : WroteV s srcs frees d m n r t) (e : ∀ j, j ≤ s.grp.kt → ∀ l, l < 32 → r j l = r' j l) :
    WroteV s srcs frees d m n r' t :=
  ⟨h.mapped, fun j hj l hl => by rw [h.value j hj l hl, e j hj l hl], h.others, h.late, h.frame⟩

/-- The components of a primal with zero tangents. -/
theorem plain_get (s : State) (x : Lanes) (j l : Nat) (hl : l < 32) :
    (compAt (plain s x) j).get l = if j = 0 then x.get l else 0 := by
  unfold plain
  cases j with
  | zero => rfl
  | succ j =>
    simp only [compAt, List.getD, List.getElem?_cons_succ, Nat.succ_ne_zero, if_false]
    by_cases hj : j < s.grp.kt
    · simp [hj, Lanes.get_splat _ _ hl]
    · simp [hj, Lanes.get_splat _ _ hl]

/-- What a write of a scalar register comes to when nothing is still to come to it. -/
theorem writeS_wrote (s : State) (d : Reg) (x : BitVec 64) (n : Nat) (hd : s.grp.settledS d) (hn : n ≠ 0) :
    WroteS s d x n (s.writeS d x n) := by
  have e : s.writeS d x n = { s with grp := { s.grp with
      s := s.grp.s.set d.toNat x d.isLt,
      lat := { cls := .scalar, name := d.toNat, ready := s.grp.cycle + n, old := [], oldWord := s.grp.s[d.toFin],
               wrote := [] }
        :: s.grp.lat } } := by
    unfold State.writeS Group.writeS
    simp only [Group.firstStays, hd.1, hd.2, Bool.false_eq_true, if_false, Option.isSome_none, Bool.false_and, if_neg hn]
  rw [e]
  refine ⟨by simp, fun k hk => ?_, ⟨_, rfl, rfl, rfl, rfl⟩, rfl⟩
  have hne : d.toNat ≠ k.toNat := fun h => hk (BitVec.eq_of_toNat_eq h.symm)
  exact Vector.getElem_set_ne d.isLt k.isLt hne

/-- What a write of a predicate comes to when nothing is still to come to it (R8). -/
theorem writeK_wrote (s : State) (d : PReg) (m bits : Mask) (n : Nat) (hd : s.grp.settledK d) (hn : n ≠ 0) :
    WroteK s d m bits n (s.writeK d m bits n) := by
  by_cases h : d = 0 ∨ m = 0
  · have e : s.writeK d m bits n = s := by unfold State.writeK Group.writeK; rw [if_pos h]
    rw [e]
    refine ⟨fun _ => rfl, fun hd0 l _ => ?_, fun _ _ => rfl, fun hd0 hm => ?_, rfl⟩
    · rcases h with h | h
      · exact absurd h hd0
      · simp [h]
    · rcases h with h | h
      · exact absurd h hd0
      · exact absurd h hm
  · have e : s.writeK d m bits n = { s with grp := { s.grp with
        k := s.grp.k.set d.toNat ((s.grp.k[d.toFin] &&& ~~~m) ||| (bits &&& m)) d.isLt,
        lat := { cls := .pred, name := d.toNat, ready := s.grp.cycle + n, old := [],
                 oldWord := (s.grp.k[d.toFin]).setWidth 64, wrote := [] } :: s.grp.lat } } := by
      unfold State.writeK Group.writeK
      rw [if_neg h]
      simp only [Group.firstStays, hd.1, hd.2, Bool.false_eq_true, if_false, Option.isSome_none, Bool.false_and, if_neg hn]
    rw [e]
    refine ⟨fun h' => absurd h' h, fun _ l hl => ?_, fun k hk => ?_, fun _ _ => ⟨_, rfl, rfl, rfl, rfl⟩, rfl⟩
    · have hs : (s.grp.k.set d.toNat ((s.grp.k[d.toFin] &&& ~~~m) ||| (bits &&& m)) d.isLt)[d.toFin]
          = (s.grp.k[d.toFin] &&& ~~~m) ||| (bits &&& m) := Vector.getElem_set_self d.isLt
      simp only [hs, BitVec.getLsbD_or, BitVec.getLsbD_and, BitVec.getLsbD_not]
      cases m.getLsbD l <;> simp [hl]
    · have hne : d.toNat ≠ k.toNat := fun h => hk (BitVec.eq_of_toNat_eq h.symm)
      exact Vector.getElem_set_ne d.isLt k.isLt hne

/-! ### Issue -/

/-- An instruction whose effect is done goes on after it. -/
theorem issue_done {s t : State} {f : State → Eff} (h : s.issues) (hf : f s = .done t) :
    issue s f = .next (t.goesOn s.latch.next) := by
  simp [issue, h.1, h.2, hf, finish]

theorem issueDual_done {s t : State} {f : State → Eff} (h : s.live = true) (hf : f s = .done t) :
    issueDual s f = .next (t.goesOn s.latch.next) := by
  simp [issueDual, h, hf, finish]

/-- An instruction that faults raises its exception and has no effect (R330). -/
theorem issue_trap {s : State} {f : State → Eff} {e : Exc} (h : s.issues) (hf : f s = .trap e) :
    issue s f = .next { ((s.countSlot s.latch.leaf).raise e).stepDone with fresh := s.fresh + 1 } := by
  simp [issue, h.1, h.2, hf, finish]

theorem issue_stall {s t : State} {f : State → Eff} (h : s.issues) (hf : f s = .stall t) :
    issue s f = .next (t.stalled s.latch.start) := by
  simp [issue, h.1, h.2, hf, finish]

end Sys2Proof.Machine
end

