-- ==== Sys2Proof/Tests/Slice0.lean ====
section
/-! SUPPORT. Tests: ill-formed terms that WellFormed refuses; words written out from the encodings of the spec that decode to
their instructions; single steps on small states; and, for every obligation that has hypotheses, a witness that meets them. -/

set_option maxRecDepth 100000

open Sys2Proof Sys2Proof.Machine

/-! ### Ill-formed terms, one for each check of WellFormed -/

/-- A source that carries both its last-read and its reuse bit. -/
def both2 : Marks2 := { ub := false, ua := true, lb := false, la := true }
def both1 : Marks1 := { ua := true, la := true }
def no2 : Marks2 := { ub := false, ua := false, lb := false, la := false }
def no1 : Marks1 := { ua := false, la := false }

theorem test_ill_marks :
    [Instr.add 0 both2 1 2 3, .add 0 { no2 with ub := true, lb := true } 1 2 3, .icmp 0 both2 .eq 1 2 3, .amscl 0 both2 0 1 2,
     .popc 0 both1 1 2, .atomAddW32 0 both1 1 2 3, .atomAddW64 0 both1 2 2 3, .frnd 0 both1 0 1 2].all (fun i => !i.wf) = true := by decide
theorem test_ill_ranges :
    [Instr.pushm 3 false false 29, .pushm 0 true true 0, .popm 1 true 31, .sreadScalar 1 .laneid, .frnd 0 no1 9 1 2, .tnext 0 0 7 2 1,
     .tseed 0 0 1 2 3, .tget 0 5 1 2, .tset 0 0 1 2, .tzero 0 0 1, .cpyIn 0 0 1 29, .cpyOut 0 0 1 29, .cpyRem 0 0 1 29, .amrow 0 0 29 1,
     .regroup 0 1 5 4, .kvapp 0 1 2 30, .qget 0 0 27 1 2, .xmerge 0 27 0 0, .xmerge 0 0 27 0, .xmerge 0 0 0 27,
     .mov16bit 0 0].all (fun i => !i.wf) = true := by decide
theorem test_ill_formats :
    [Instr.fcvt 0 0x0A 2 1 2, .fcvt 0 2 0x0A 1 2, .fcvt 0 0x3C 0x0A 1 2, .icvt 0 2 2 1 2, .icvt 0 0x0A 0x0A 1 2, .icvt 0 0x0A 3 1 3,
     .ftoi 0 0x0A 0x0A 1 2, .ftoi 0 2 0x11 1 2, .ftoi 0 7 0x0A 3 2].all (fun i => !i.wf) = true := by decide
theorem test_ill_pairs :
    [Instr.ld 0 .w64 .lane false 1 2 3, .st 0 .w64 .lane false 1 2 3, .lds 0 .w64 1 2 3, .sts 0 .w64 1 2 3, .ldr 0 0 .w64 1 2 3,
     .ldr 0 0 .w32 1 3 3, .str 0 0 .w8 1 3 3, .atomXchgW64 0 no1 1 2 3, .acasW64 0 1 2 3 4, .acasW64 0 2 2 3 5, .tfind 0 1 2 3,
     .tinsQ 0 2 1 3, .tscan 0 0 1 2 4, .tscan 0 0 2 2 5, .tnext 0 0 0 1 2, .ratom 0 true .add 1 2 3,
     .ratom 0 true .f32 2 2 3].all (fun i => !i.wf) = true := by decide
theorem test_ill_barriers :
    [Instr.barArv 28 1, .barWt 28 1, .barSync 31, .barArm 30 1, .barTst 29 1, .qpost 0 28 1 2 3, .qpost 0 31 1 2 31, .tsend 0 30 1 2,
     .trecv 0 31 31 2, .ared 0 31 1 31, .ratom 0 false .add 1 2 31].all (fun i => !i.wf) = true := by decide
theorem test_ill_events :
    (let p : Partition := { cu := { die := 0, cluster := 5, cu := 0 }, part := 0 }
     [Instr.pageWalk 0 (some 40) 1 0, .halt p, .resume p, .step p 0, .dump p, .snapshot p, .registerWrite (.dbgRefusedClear p),
      .functionReady (.clu 20), .clearSequence 20, .bridleFlitReplay 6, .bridleLaneLoss 6, .bridleRetrainTimeout 6].all fun i => !i.wf) = true := by
  decide

/-! ### Words and the instructions they stand for (R25 to R32 and the opcode table) -/

/-- Each row: bits, word, the instruction that the decoder is to read. -/
def wordsDecode (xs : List (Nat × Nat × Instr)) : Bool := xs.all fun x => decodeTableWord x.1 x.2.1 == some x.2.2

theorem test_words_0 : wordsDecode [
    (32, 0xA0155E03, .bra 5 10940), (32, 0x00155E05, .call 10940), (32, 0x00004007, .bri 4),
    (32, 0x00404007, .calli 4), (32, 0x01125007, .trap 293), (32, 0x01C00187, .wpclr 3),
    (32, 0x00155E09, .join 10940), (32, 0x0250730B, .wait 9 8 7 6), (32, 0x0A50730B, .waitAny 9 8 7 6),
    (32, 0x0100110D, .pushm 4 false true 2), (32, 0x0902010D, .popm 4 true 2), (32, 0x1000010D, .spget 2),
    (32, 0x1800400D, .spset 4), (32, 0x00C0010F, .sysrd .tepc 2), (32, 0x08C0400F, .syswr .tepc 4),
    (32, 0x1000418F, .segld 4 3), (32, 0x18CCA18F, .wpset .key 6 5 3),
    (32, 0xA40C4111, .add 5 { ub := false, ua := false, lb := true, la := false } 2 4 6),
    (32, 0xA44C4111, .sub 5 { ub := false, ua := false, lb := true, la := false } 2 4 6),
    (32, 0xA48C4111, .mul 5 { ub := false, ua := false, lb := true, la := false } 2 4 6),
    (32, 0xA4CC4111, .mulhi 5 { ub := false, ua := false, lb := true, la := false } 2 4 6),
    (32, 0xA50C4111, .imin 5 { ub := false, ua := false, lb := true, la := false } 2 4 6),
    (32, 0xA54C4111, .imax 5 { ub := false, ua := false, lb := true, la := false } 2 4 6),
    (32, 0xA3804111, .iabs 5 { ua := false, la := true } 2 4),
    (32, 0xA3C04111, .popc 5 { ua := false, la := true } 2 4)] = true := by decide

theorem test_words_1 : wordsDecode [
    (32, 0xA40C4113, .and 5 { ub := false, ua := false, lb := true, la := false } 2 4 6),
    (32, 0xA44C4113, .or 5 { ub := false, ua := false, lb := true, la := false } 2 4 6),
    (32, 0xA48C4113, .xor 5 { ub := false, ua := false, lb := true, la := false } 2 4 6),
    (32, 0xA4CC4113, .andn 5 { ub := false, ua := false, lb := true, la := false } 2 4 6),
    (32, 0xA50C4113, .shl 5 { ub := false, ua := false, lb := true, la := false } 2 4 6),
    (32, 0xA54C4113, .shr 5 { ub := false, ua := false, lb := true, la := false } 2 4 6),
    (32, 0xA58C4113, .sar 5 { ub := false, ua := false, lb := true, la := false } 2 4 6),
    (32, 0xA5CC4113, .rotl 5 { ub := false, ua := false, lb := true, la := false } 2 4 6),
    (32, 0xA2004115, .clz 5 { ua := false, la := true } 2 4),
    (32, 0xA2404115, .brev 5 { ua := false, la := true } 2 4),
    (32, 0xA48C4115, .addc 5 { ub := false, ua := false, lb := true, la := false } 2 4 6),
    (32, 0xA4CC4115, .subb 5 { ub := false, ua := false, lb := true, la := false } 2 4 6),
    (32, 0xA3004115, .mov 5 { ua := false, la := true } 2 4), (32, 0xA1404115, .bcast 5 2 4),
    (32, 0xA38C4115, .laneget 5 { ua := false, la := true } 2 4 6), (32, 0xA1C0A115, .sread 5 2 .place),
    (32, 0xA0CC4117, .imad 5 2 4 6 3), (32, 0xAC564117, .bfx 5 2 4 17 11), (32, 0xB4564117, .bfi 5 2 4 17 11),
    (32, 0xB8CC4117, .sel 5 2 4 6 3), (32, 0xB02A4119, .addi 5 true 2 4 21), (32, 0xA001511B, .movi 5 2 21),
    (32, 0xB001511B, .movhi 5 2 21), (32, 0x000C4121, .addScalar 2 4 6), (32, 0x004C4121, .subScalar 2 4 6)] = true := by decide

theorem test_words_2 : wordsDecode [
    (32, 0x008C4121, .mulScalar 2 4 6), (32, 0x00CC4121, .mulhiScalar 2 4 6), (32, 0x010C4121, .iminScalar 2 4 6),
    (32, 0x014C4121, .imaxScalar 2 4 6), (32, 0x01804121, .movScalar 2 4), (32, 0x01C09121, .sreadScalar 2 .gst),
    (32, 0x000C4123, .andScalar 2 4 6), (32, 0x004C4123, .orScalar 2 4 6), (32, 0x008C4123, .xorScalar 2 4 6),
    (32, 0x00CC4123, .andnScalar 2 4 6), (32, 0x010C4123, .shlScalar 2 4 6), (32, 0x014C4123, .shrScalar 2 4 6),
    (32, 0x018C4123, .sarScalar 2 4 6), (32, 0x01CC4123, .rotlScalar 2 4 6), (32, 0x002A4125, .addiScalar 2 4 21),
    (32, 0x00015127, .moviScalar 2 21), (32, 0x10015127, .movhiScalar 2 21),
    (32, 0xA48C4129, .icmp 5 { ub := false, ua := false, lb := true, la := false } .lt 2 4 6),
    (32, 0x018C412B, .icmpScalar .ltn 2 4 6), (32, 0xB02A4D2F, .icmpi 5 true .ge 2 4 21),
    (32, 0xA00E612D, .kand 5 2 6 7), (32, 0xA04C412D, .kor 5 2 4 6), (32, 0xA08C412D, .kxor 5 2 4 6),
    (32, 0xA4CC412D, .shflIdx 5 { ub := false, ua := false, lb := true, la := false } 2 4 6),
    (32, 0xA306412D, .shflUp 5 { ua := false, la := true } 2 4 3)] = true := by decide

theorem test_words_3 : wordsDecode [
    (32, 0xA346412D, .shflDown 5 { ua := false, la := true } 2 4 3),
    (32, 0xA386412D, .shflXor 5 { ua := false, la := true } 2 4 3), (32, 0xA1C0412D, .knot 5 2 4),
    (32, 0xA1C2612D, .kmov 5 2 6), (32, 0xA1C4412D, .kfroms 5 2 4), (32, 0x01C6412D, .ktos 2 4),
    (32, 0xA1C8012D, .emget 5 2), (32, 0x01CA402D, .emset 4), (32, 0xA1CC412D, .voteAny 5 2 4),
    (32, 0xA1CE412D, .voteAll 5 2 4), (32, 0xA1D0412D, .voteBal 5 2 4), (32, 0xA1D2012D, .elect 5 2),
    (32, 0xA1D4412D, .lscan 5 2 4), (32, 0xA1D6412D, .reduxAdd 5 2 4), (32, 0xA1D8412D, .reduxMin 5 2 4),
    (32, 0xA1DA412D, .reduxMax 5 2 4), (32, 0xA1DC412D, .reduxAnd 5 2 4), (32, 0xA1DE412D, .reduxOr 5 2 4),
    (32, 0xA1E0412D, .reduxXor 5 2 4),
    (32, 0xA40C4131, .fadd 5 { ub := false, ua := false, lb := true, la := false } 2 4 6),
    (32, 0xA44C4131, .fsub 5 { ub := false, ua := false, lb := true, la := false } 2 4 6),
    (32, 0xA48C4131, .fmul 5 { ub := false, ua := false, lb := true, la := false } 2 4 6),
    (32, 0xA4CC4131, .fmin 5 { ub := false, ua := false, lb := true, la := false } 2 4 6),
    (32, 0xA50C4131, .fmax 5 { ub := false, ua := false, lb := true, la := false } 2 4 6),
    (32, 0xA3404131, .fabs 5 { ua := false, la := true } 2 4)] = true := by decide

theorem test_words_4 : wordsDecode [
    (32, 0xA3804131, .fneg 5 { ua := false, la := true } 2 4),
    (32, 0xA3C24131, .frnd 5 { ua := false, la := true } 1 2 4), (32, 0xA0CC4133, .ffma 5 2 4 6 3),
    (32, 0xA8CC4133, .hfma2 5 2 4 6 3), (32, 0xB0CC4133, .fdot4 5 2 4 6 3),
    (32, 0xA5CC4135, .fcmp 5 { ub := false, ua := false, lb := true, la := false } .ord 2 4 6),
    (32, 0xA2004137, .frcp 5 { ua := false, la := true } 2 4),
    (32, 0xA2404137, .frsq 5 { ua := false, la := true } 2 4),
    (32, 0xA2804137, .fsqrt 5 { ua := false, la := true } 2 4),
    (32, 0xA2C04137, .fexp2 5 { ua := false, la := true } 2 4),
    (32, 0xA3004137, .flog2 5 { ua := false, la := true } 2 4),
    (32, 0xA3404137, .fsin 5 { ua := false, la := true } 2 4),
    (32, 0xA3804137, .fcos 5 { ua := false, la := true } 2 4),
    (32, 0xA3C04137, .ftanh 5 { ua := false, la := true } 2 4),
    (32, 0xA40C4139, .hadd2 5 { ub := false, ua := false, lb := true, la := false } 2 4 6),
    (32, 0xA44C4139, .hmul2 5 { ub := false, ua := false, lb := true, la := false } 2 4 6),
    (32, 0xA48C4139, .fldexp 5 { ub := false, ua := false, lb := true, la := false } 2 4 6),
    (32, 0xA4CC4139, .pack 5 { ub := false, ua := false, lb := true, la := false } 2 4 6),
    (32, 0xA31A4139, .unpk 5 { ua := false, la := true } 2 4 13), (32, 0x014C4039, .fmtset 4 6),
    (32, 0x01800139, .fmtget 2), (32, 0xA510413B, .fcvt 5 10 8 2 4), (32, 0xA50A413B, .icvt 5 10 5 2 4),
    (32, 0xA2C2413B, .ftoi 5 5 33 2 4), (32, 0xA08C4141, .tseed 5 2 2 4 6)] = true := by decide

theorem test_words_5 : wordsDecode [
    (32, 0xA8804141, .tget 5 2 2 4), (32, 0xB08C0141, .tset 5 2 2 6), (32, 0xB8800141, .tzero 5 2 2),
    (32, 0x00000143, .tcnt 2), (32, 0x080C09C5, .scbind 51 6), (32, 0x084159C5, .scmov 51 21),
    (32, 0x088C99C5, .scset 51 9 6), (32, 0x08CC99C5, .scget 51 9 6), (32, 0x190159C5, .scmul 51 53),
    (32, 0x094159C5, .scmax 51 21), (32, 0x098009C5, .screl 51), (32, 0xB3CC4149, .ld 5 .w32 .mem true 2 4 6),
    (32, 0xB38C414B, .st 5 .w32 .mem false 2 4 6), (32, 0xA08C414D, .lds 5 .w32 2 4 6),
    (32, 0xA88C414D, .sts 5 .w32 2 4 6), (32, 0x10CC314D, .ldc .w64 3 2 6), (32, 0xA38C414F, .ldr 5 3 .w32 2 4 6),
    (32, 0xAB8C414F, .str 5 3 .w32 2 4 6), (32, 0x114C014F, .qapp 5 2 6), (32, 0x1940414F, .qpop 5 2 4),
    (32, 0xA20C4151, .atomAddW32 5 { ua := false, la := true } 2 4 6),
    (32, 0xA24C4151, .atomMinW32 5 { ua := false, la := true } 2 4 6),
    (32, 0xA28C4151, .atomMaxW32 5 { ua := false, la := true } 2 4 6),
    (32, 0xA2CC4151, .atomAndW32 5 { ua := false, la := true } 2 4 6),
    (32, 0xA30C4151, .atomOrW32 5 { ua := false, la := true } 2 4 6)] = true := by decide

theorem test_words_6 : wordsDecode [
    (32, 0xA34C4151, .atomXorW32 5 { ua := false, la := true } 2 4 6),
    (32, 0xA38C4151, .atomXchgW32 5 { ua := false, la := true } 2 4 6),
    (32, 0xA3CC4151, .atomF32 5 { ua := false, la := true } 2 4 6),
    (32, 0xA20C4153, .atomAddW64 5 { ua := false, la := true } 2 4 6),
    (32, 0xA24C4153, .atomMinW64 5 { ua := false, la := true } 2 4 6),
    (32, 0xA28C4153, .atomMaxW64 5 { ua := false, la := true } 2 4 6),
    (32, 0xA2CC4153, .atomAndW64 5 { ua := false, la := true } 2 4 6),
    (32, 0xA30C4153, .atomOrW64 5 { ua := false, la := true } 2 4 6),
    (32, 0xA34C4153, .atomXorW64 5 { ua := false, la := true } 2 4 6),
    (32, 0xA38C4153, .atomXchgW64 5 { ua := false, la := true } 2 4 6), (32, 0xA38C4155, .arwRd 5 .mem 2 4 6),
    (32, 0xAB8C4155, .arwRdx 5 .mem 2 4 6), (32, 0xB38C4155, .arwWr 5 .mem 2 4 6),
    (32, 0xBB8C4155, .arwWrx 5 .mem 2 4 6), (32, 0xA0CC4157, .acasW32 5 2 4 6 3),
    (32, 0xAA0C4157, .acasW64 5 2 4 6 8), (32, 0x13800057, .fence .mem), (32, 0x194C0057, .qfree 5 6),
    (32, 0xA00C4159, .tfind 5 2 4 6), (32, 0xA04C4159, .tins 5 2 4 6), (32, 0xA08C4159, .trepl 5 2 4 6),
    (32, 0xA0CC4159, .tdel 5 2 4 6), (32, 0xA10C4159, .tfindQ 5 2 4 6), (32, 0xA14C4159, .tinsQ 5 2 4 6),
    (32, 0xA18C4159, .treplQ 5 2 4 6)] = true := by decide

theorem test_words_7 : wordsDecode [
    (32, 0xA1CC4159, .tdelQ 5 2 4 6), (32, 0xA20C415B, .tscan 5 2 4 6 8), (32, 0xAC4C015B, .tnext 5 2 1 2 6),
    (32, 0xB000015B, .tclose 5 2), (32, 0x190C015B, .tstat .freeSlots 2 6), (32, 0x0040015D, .txc 2),
    (32, 0x00C0015D, .txst 2), (32, 0xA00041E1, .shape 5 4 3), (32, 0xA8CC4061, .cpyIn 5 3 4 6),
    (32, 0xB0CC4061, .cpyOut 5 3 4 6), (32, 0xB8CC4061, .cpyRem 5 3 4 6),
    (32, 0xA0CC44E3, .mma 5 false true true 9 4 6), (32, 0xA8CC44E3, .mmag 5 false true true 9 4 6),
    (32, 0xB14C44E3, .mmaT 5 true false true 9 4 6), (32, 0x180C4063, .oprdy 4 6), (32, 0xA00044E5, .amld 5 9 4),
    (32, 0xA04044E5, .amst 5 9 4), (32, 0xA08004E5, .amzero 5 9), (32, 0xA0CC9165, .amrow 5 9 2 6),
    (32, 0xA50C44E5, .amscl 5 { ub := false, ua := false, lb := true, la := false } 9 4 6),
    (32, 0xA14C44E5, .drainSt 5 9 4 6), (32, 0xA18C44E5, .drainAdd 5 9 4 6), (32, 0x00C0016D, .barArv 3 2),
    (32, 0x08C0406D, .barWt 3 4), (32, 0x10C0006D, .barSync 3)] = true := by decide

theorem test_words_8 : wordsDecode [
    (32, 0x18CC006D, .barArm 3 6), (32, 0x0000316F, .barTst 3 2), (32, 0x164C416F, .regroup 11 2 4 6),
    (32, 0x008C416F, .rqxfer 2 4 6), (32, 0x00C0016F, .rqget 2), (32, 0x0100406F, .roleset 4),
    (32, 0x0140016F, .roleget 2), (32, 0xA00C4171, .kvapp 5 2 4 6), (32, 0xA04C4071, .kvappDrop 5 4 6),
    (32, 0xA8CC4171, .qpost 5 3 2 4 6), (32, 0xB0CC4171, .qget 5 3 2 4 6), (32, 0xB8CC4071, .btld 5 3 4 6),
    (32, 0xA00C4173, .xmerge 5 2 4 6), (32, 0x000C4175, .launch 2 4 6), (32, 0x08804175, .cancel .phase 2 4),
    (32, 0x10404175, .cntrd .graph 2 4), (32, 0x18CC4175, .cntwt .job 2 4 6), (32, 0xA0CC4079, .tsend 5 3 4 6),
    (32, 0xA8CC4079, .trecv 5 3 4 6), (32, 0xB28C4179, .ratom 5 true .max 2 4 6), (32, 0xB8CC4079, .ared 5 3 4 6),
    (16, 0x3080, .mov16bit 2 6), (16, 0xA882, .movi16bit 2 21), (16, 0x3084, .add16bit 2 6),
    (16, 0xA886, .addi16bit 2 21)] = true := by decide

theorem test_words_9 : wordsDecode [
    (16, 0x3088, .sub16bit 2 6), (16, 0x308A, .and16bit 2 6), (16, 0x308C, .or16bit 2 6), (16, 0x308E, .xor16bit 2 6),
    (16, 0x3090, .shl16bit 2 6), (16, 0x3092, .shr16bit 2 6), (16, 0x3094, .imin16bit 2 6),
    (16, 0x3096, .imax16bit 2 6), (16, 0x3098, .fadd16bit 2 6), (16, 0x309A, .fsub16bit 2 6),
    (16, 0x309C, .fmul16bit 2 6), (16, 0x309E, .fmax16bit 2 6), (16, 0x0062, .dl true), (32, 0x00800007, .ret),
    (32, 0x00C00007, .endFrag), (32, 0x01400007, .eret), (32, 0x01800007, .eretSkip), (32, 0x0000005D, .txb),
    (32, 0x0080005D, .txa), (16, 0x0020, .nop), (16, 0x0024, .yield)] = true := by decide

/-- Encodings that the spec works out (its examples in 00, 01, 04, 06, 08, 10, 11, 13, 16, 17 and 18), beside those of DecodeWords. -/
theorem test_spec_words :
    wordsDecode [
      (32, 0x000030A7, .moviScalar 1 3), (32, 0x0000100D, .pushm 0 false true 0), (32, 0x0800000D, .popm 0 false 0),
      (32, 0x184412F5, .cntwt .graph 5 1 2), (32, 0x10C032CD, .ldc .w64 3 5 0), (32, 0x000030E1, .shape 0 3 1),
      (32, 0x08904061, .cpyIn 0 2 4 8), (32, 0x180E5063, .oprdy 5 7), (32, 0x050A40E5, .amscl 0 { no2 with lb := true } 1 4 5),
      (32, 0x00D20465, .amrow 0 0 8 9), (32, 0x01408065, .drainSt 0 0 8 0), (32, 0x09003245, .scmul 0x24 3),
      (32, 0x088800CD, .sts 0 .w32 1 0 4), (32, 0x08CC2471, .qpost 0 3 8 2 6), (32, 0x10923871, .qget 0 2 0x10 3 9),
      (32, 0x18CC2071, .btld 0 3 2 6), (32, 0x00100073, .xmerge 0 0 0 8), (32, 0x009484EF, .rqxfer 9 8 10),
      (32, 0x1856006D, .barArm 1 11), (32, 0x01025007, .trap 0x25), (32, 0x1840200F, .wpset .wr 0 1 0),
      (32, 0x0080028F, .sysrd .tmask 5)] = true := by decide

/-! ### States of the tests -/

/-- The small launch of Install.lean: one group of 32 lanes at quota 64, K = 0, sg0 to sg4 readable; its first bundle has a
32-bit instruction at slots 0 and 1, then NOPs. -/
def w0 : State :=
  let s := State.small State.reset
  { s with mem := writeBytes s.mem codeAt (bundleWith 0 1 0) }
/-- Its group with changes. -/
def wg (f : Group → Group) : State := { w0 with grp := f w0.grp }
/-- Its fragment with changes. -/
def wf (f : Frag → Frag) : State := { w0 with frag := f w0.frag }
/-- An instruction at slot 0 of its first bundle, fetched. -/
def wAt : State := { w0 with latch := { w0.latch with start := 0x10004, here := 0x10004, next := 0x10008 } }
/-- Its one fragment split in two halves. -/
def wSplit : State :=
  { w0 with
    frag := { w0.frag with em := 0xFFFF, lanes := 0xFFFF, entry := 1, split := some 0 },
    grp := { w0.grp with
      frags := [{ w0.frag with em := 0xFFFF0000, lanes := 0xFFFF0000, entry := 2, split := some 0 }],
      splits := [{ entry := 0, lanes := BitVec.allOnes 32, join := 0x10014, fmt := 0, depth := 1, parent := none,
                   members := 2, arrived := 0, written := false }] } }
/-- A fresh transaction. -/
def tx0 : Tx := { cause := 0, count := 0, ops := [], stores := [], rows := [], lines := [] }
/-- A DL 0 that acts stands before the instruction. -/
def wDl : State := { w0 with latch := { w0.latch with dl := some false } }
/-- Marks of a last-read source a. -/
def lastA : Marks1 := { ua := false, la := true }
/-- Marks of last-read sources. -/
def lastAB : Marks2 := { ub := false, ua := false, lb := true, la := true }

/-! ### Witnesses of the obligations -/

/-! ### Witnesses: each statement's hypotheses, met together -/

/-- VectorTwoSourceResults, VectorOneSourceResults, VectorMoves, FloatResults, PackAndConvert: with frees, a destination
that is a source, the last name, a pair, one active lane, and the last of the quota. -/
theorem witness_writes_frees : w0.writesV 0 (freed2 lastAB 1 2) [3] ∧ w0.writesV 0 (freed2 lastAB 1 2) [1] := by decide
theorem witness_writes_names : w0.writesV 0 [] [31] ∧ w0.writesV 0 [] [30, 31] ∧ w0.writesV 0 (freed1 lastA 31) [31] := by decide
theorem witness_writes_lane : (wf fun f => { f with em := 1 }).writesV 0 [] [0] ∧
    (wg fun g => { g with k := g.k.set 1 0x80000000#32 }).writesV 1 [] [5] := by decide
theorem witness_writes_quota : (wg fun g => { g with quota := 1 }).writesV 0 [] [5] := by decide

/-- VectorOneSourceResults: no reuse mark on ADDI's source. -/
theorem witness_VectorOneSourceResults : lastA.ua = false := by decide

/-- VectorMoves: a tangent index within K, the destination mapped with K tangents. -/
theorem witness_VectorMoves :
    let s := wg fun g => { g with kt := 4, v := g.v.set 3 (some (List.replicate 5 (Lanes.splat 7))) }
    s.writesV 0 [] [3] ∧ 1 ≤ (4#5).toNat ∧ (4#5).toNat ≤ s.grp.kt ∧ (s.readVAll 3).length = s.grp.kt + 1 := by decide
theorem witness_VectorMoves_above : w0.issues ∧ w0.grp.kt < (1#5).toNat := by decide

/-- ScalarResults, PredicateResults, SpillPointer, BriTarget, PlainControl, WaitTerms, SystemRegisterWrites. -/
theorem witness_settled : w0.issues ∧ w0.grp.settledS 31 ∧ w0.grp.settledK 0 ∧ w0.grp.settledK 7 := by decide

/-- A second group of the block, in the same partition. -/
def peer : Group := { Group.start with id := { w0.grp.id with g := 1 }, job := 1, quota := 10, place := w0.grp.place }

/-- ScalarResults, RQXFER: a target beyond the block, the group itself, a group that has ended, one in another partition,
one in reach with too little and with exactly enough quota free. -/
theorem witness_ScalarResults :
    let s := wg fun g => { g with ngrp := 2, s := (g.s.set 1 1).set 2 64 }
    let far : Group := { peer with place := { peer.place with part := { peer.place.part with part := 1 } } }
    s.issues ∧ s.grp.settledS 3 ∧ s.grp.ngrp ≤ (s.readS 2).toNat ∧ (s.readS 0).toNat = s.grp.id.g ∧
    (s.readS 1).toNat < s.grp.ngrp ∧ (s.readS 1).toNat ≠ s.grp.id.g ∧
    (∀ g ∈ [peer, far, { peer with ended := true }], ({ s with groups := [g] } : State).groups.find? (fun y =>
      y.id == { s.grp.id with g := (s.readS 1).toNat }) = some g) ∧
    peer.ended = false ∧ far.ended = false ∧ far.place.part ≠ s.grp.place.part ∧ peer.place.part = s.grp.place.part ∧
    s.grp.quota - s.grp.held < 65 ∧ (s.readS 2).toNat ≤ s.grp.quota - s.grp.held := by decide

/-- AllocationAndFrees: unsplit and split groups, an unmapped name, no active lane, no quota, and quota that only
reserved registers take. -/
theorem witness_AllocationAndFrees :
    w0.grp.split? = false ∧ wSplit.grp.split? = true ∧ w0.grp.vreg 4 = none ∧
    (wf fun f => { f with em := 0 }).issues ∧ (wf fun f => { f with em := 0 }).active 0 = 0 ∧
    w0.issues ∧ w0.active 0 ≠ 0 ∧
    (let h := (wg fun g => { g with quota := 0 }).grp.freed (freed2 lastAB 1 2)
     h.mapped 3 = false ∧ h.quota < (h.mappedCount + 1) * (h.kt + 1)) ∧
    (let h := (wg fun g => { g with quota := 1, reserved := [{ ops := [0], count := 1 }] }).grp.freed (freed2 lastAB 1 2)
     h.mapped 3 = false ∧ (h.mappedCount + 1) * (h.kt + 1) ≤ h.quota ∧
       h.quota < (h.mappedCount + 1) * (h.kt + 1) + h.reservedCount) := by decide

/-- DualPrefix: v31 among the names, and room for a pair. -/
theorem witness_DualPrefix :
    wDl.live = true ∧ wDl.dlDual = true ∧ 31#5 ∈ [31#5, 1] ∧ 31#5 ∉ [30#5, 1] ∧ wDl.active 0 ≠ 0 ∧
    (wDl.grp.freed []).room [30, 30 + 1] = .ok ∧ wDl.grp.settledV 30 ∧ wDl.grp.settledV (30 + 1) := by decide

/-- PackAndConvert: a 64-bit and a 32-bit integer format. -/
theorem witness_PackAndConvert : fmt64 3 = true ∧ fmt64 7 = true ∧ fmt64 5 = false := by decide

/-- RoundingKeepsValues: the largest draw, and codes that are no NaN. -/
theorem witness_RoundingKeepsValues : 2 ^ 24 - 1 < 2 ^ 24 ∧ isNan32 0x80000000 = false ∧ isNan32 0x7F800000 = false := by decide
/-- FloatResults, PackAndConvert: the largest integer below 2^24, and its code; NaN codes; S8 elements. -/
theorem witness_FloatResults_codes :
    (16777215 : Int).natAbs < 2 ^ 24 ∧ intCode 16777215 = 0x4B7FFFFF ∧ intCode (-1) = 0xBF800000 ∧ intCode 3 = 0x40400000 ∧
    isNan32 0x7FC00000 = true ∧ isNan32 0xFF800000 = false ∧ fmtAF 0 = 0 := by decide

/-- PlainControl: no DL before, a DL before; a target that passes and one that fails; roles 4 and 5; no trace. -/
theorem witness_PlainControl :
    let s := wg fun g => { g with s := (g.s.set 1 4).set 2 5 }
    let dl1 : State := { w0 with latch := { w0.latch with dl := some true } }
    w0.issues ∧ w0.latch.dl = none ∧ dl1.issues ∧ dl1.latch.dl.isSome ∧
    wAt.issues ∧ wAt.checkTarget (wAt.latch.here + ((2#22).signExtend 52 <<< 1)) = .ok ∧
    wAt.checkTarget (wAt.latch.here + ((1#22).signExtend 52 <<< 1)) = .bad ∧
    s.issues ∧ (s.readS 1).toNat ≤ 4 ∧ 4 < (s.readS 2).toNat ∧ s.traceA = 0 := by decide

/-- BriTarget: a target that passes, one that is no slot, and one that is not leased. -/
theorem witness_BriTarget :
    w0.issues ∧ w0.checkTarget 0x10004 = .ok ∧ w0.checkTarget 0x10000 = .bad ∧ w0.checkTarget 0x80000004 = .lease := by decide

/-- BranchOutcomes: all lanes take it, none does, some do; in the handler, at depth 8, and below it. -/
theorem witness_BranchOutcomes :
    let k (m : Mask) (s : State) : State := { s with grp := { s.grp with k := s.grp.k.set 1 m } }
    let s := k 0xF wAt
    let h : State := { s with grp := { s.grp with tmode := true, handler := some s.frag.entry } }
    let deep : State := { k 0xF wSplit with grp := { (k 0xF wSplit).grp with
      splits := (k 0xF wSplit).grp.splits.map fun x => { x with depth := 8 } } }
    s.issues ∧ s.checkTarget (s.latch.here + ((2#22).signExtend 52 <<< 1)) = .ok ∧
    s.checkTarget (s.latch.here + ((0x3FFFFF#22).signExtend 52 <<< 1)) = .bad ∧
    s.frag.em &&& s.readK 0 = s.frag.em ∧ (k 0 wAt).frag.em &&& (k 0 wAt).readK 1 = 0 ∧ wAt.frag.em ≠ 0 ∧
    s.frag.em &&& s.readK 1 ≠ s.frag.em ∧ s.frag.em &&& s.readK 1 ≠ 0 ∧
    (h.issues ∧ h.grp.tmode = true ∧ h.grp.handler = some h.frag.entry) ∧
    (s.grp.tmode = false ∧ (∀ x ∈ s.grp.splits, s.frag.split ≠ some x.entry) ∧ s.grp.depthOf s.frag < 8 ∧ 3 ≤ s.tableFree.length) ∧
    (deep.issues ∧ deep.grp.tmode = false ∧ (∀ x ∈ deep.grp.splits, x.join ≠ deep.frag.jr) ∧
      deep.checkTarget (deep.latch.here + ((0x8002#22).signExtend 52 <<< 1)) = .ok ∧ 8 ≤ deep.grp.depthOf deep.frag) := by decide
/-- BranchOutcomes: the fragment stands in a split with its own JR. -/
theorem witness_BranchOutcomes_sibling :
    let s : State := { wSplit with frag := { wSplit.frag with jr := 0x10014 }, grp := { wSplit.grp with k := wSplit.grp.k.set 1 0xF } }
    s.issues ∧ s.grp.tmode = false ∧ s.frag.em &&& s.readK 1 ≠ s.frag.em ∧ s.frag.em &&& s.readK 1 ≠ 0 ∧
    s.checkTarget (s.latch.here + ((0x8002#22).signExtend 52 <<< 1)) = .ok ∧
    (∃ x ∈ s.grp.splits, s.frag.split = some x.entry ∧ x.join = s.frag.jr) ∧ s.grp.writtenEntries = [] ∧ 1 ≤ s.tableFree.length := by decide

/-- FragmentEnds: the only fragment, and one of two; a live transaction. -/
theorem witness_FragmentEnds :
    w0.issues ∧ w0.grp.frags = [] ∧ wSplit.issues ∧ wSplit.grp.frags ≠ [] ∧ w0.grp.id.g < 32 ∧
    (∃ b ∈ w0.blocks, b.l = w0.grp.id.l ∧ b.idx = w0.grp.id.blk) ∧
    (wg fun g => { g with tx := some tx0 }).grp.tx.any (fun x => x.cause == 0) = true := by decide

/-- GoesOnFrame: no join there, and no debugger's step. -/
theorem witness_GoesOnFrame :
    w0.grp.joins { w0.frag with pc := 0x10008, st := .ready } = none ∧ ∀ d ∈ w0.dbg, d.stepping = false := by decide

/-- A spill pointer. -/
def wSp (n : BitVec 64) : State := { wAt with grp := { wAt.grp with sp := n } }
/-- A call record at the foot of sg3. -/
def wRet : State := { wSp 16 with mem := writeBytes wAt.mem 0x120000 (leBytes 8 0x10044) }
/-- The bytes that a check found. -/
def okAccs (c : Checked) : List Acc := match c with | .ok a => a | _ => []

/-- CallsAndSpills: RET below 16, with a record and with a store to it in flight; CALL's target. -/
theorem witness_CallsAndSpills_ret :
    let accs := okAccs (wRet.checkSpill .rd 0 8)
    (wSp 15).issues ∧ (wSp 15).grp.tx = none ∧ (wSp 15).grp.sp.toNat < 16 ∧ 16 ≤ wRet.grp.sp.toNat ∧
    wRet.busyLocs (accs.flatMap Acc.locs) = false ∧
    wRet.checkTarget ((BitVec.ofNat 64 (leNat (wRet.readLocs (accs.flatMap Acc.locs)))).setWidth 52) = .ok ∧
    (wSp 16).checkTarget ((BitVec.ofNat 64 (leNat ((wSp 16).readLocs (accs.flatMap Acc.locs)))).setWidth 52) = .bad ∧
    ({ wRet with ops := [wRet.newOp (some .st) (.store accs none)] } : State).busyLocs (accs.flatMap Acc.locs) = true := by decide
theorem witness_CallsAndSpills_record : ∃ accs, wRet.checkSpill .rd (wRet.grp.sp.toNat - 16) 8 = .ok accs := ⟨_, rfl⟩
/-- CallsAndSpills: a record that passes the limit by one byte and one that just fits, of a call and of PUSHM and POPM. -/
theorem witness_CallsAndSpills_limit :
    (wg fun g => { g with tx := some tx0 }).grp.tx.isSome ∧ (wSp 4081).grp.limit 3 < 4081 + 16 ∧ 4080 + 16 ≤ (wSp 4080).grp.limit 3 ∧
    (wSp 0).grp.st < 31 ∧ (wSp 0).grp.ld < 31 ∧ wAt.inj[wAt.grp.place.part.cu.die.toFin].en = false ∧
    (31#5).toNat + (0#5).toNat ≤ 31 ∧ recordSize true 32 0 ≤ (wSp 4096).grp.limit 3 ∧
    (wSp 255).grp.sp.toNat < recordSize true 32 0 := by decide
theorem witness_CallsAndSpills_call : ∃ accs, (wSp 4080).checkSpill .wr 4080 16 = .ok accs := ⟨_, rfl⟩
theorem witness_CallsAndSpills_pushm : ∃ accs, (wSp 0).checkSpill .wr 0 (recordSize true 32 0) = .ok accs := ⟨_, rfl⟩
theorem witness_CallsAndSpills_popm : ∃ accs, (wSp 4096).checkSpill .rd (4096 - recordSize true 32 0) (recordSize true 32 0) = .ok accs :=
  ⟨_, rfl⟩
/-- CallsAndSpills: POPM of a record of one mapped vector that a PUSHM left, of a scalar, and of bytes that none left. -/
def wPop (scalar : Bool) (n : Nat) : State :=
  let s : State := { wSp n with mem := writeBytes wAt.mem 0x120000 (leBytes 8 (1 + 2 ^ 40)) }
  let ps := (okAccs (s.checkSpill .rd 0 n)).flatMap Acc.locs
  { s with spills := [{ scalar := scalar, count := 1, kt := 0, locs := ps }] }
theorem witness_CallsAndSpills_popped :
    let left (scalar : Bool) (n : Nat) (s : State) : Prop :=
      let ps := (okAccs (s.checkSpill .rd 0 n)).flatMap Acc.locs
      s.grp.ld < 31 ∧ s.busyLocs ps = false ∧
        { scalar := scalar, count := 1, kt := s.grp.kt, locs := ps } ∈ s.spills
    recordSize false 1 0 = 144 ∧ recordSize true 1 0 = 16 ∧ left false 144 (wPop false 144) ∧ left true 16 (wPop true 16) ∧
    (wSp 144).spills = [] ∧ (wPop false 144).grp.room [3] = .ok := by decide
theorem witness_CallsAndSpills_header :
    let s := wPop false 144
    headerFits (s.readLocs ((okAccs (s.checkSpill .rd 0 144)).flatMap Acc.locs)) 1 0 = true ∧ s.ops = [] ∧ wRet.ops = [] := by decide
/-- WaitTerms: a completed ARED whose counter's term holds, and a completed load of a scalar alone. -/
theorem witness_WaitTerms :
    let d : Done := { op := 1, ctr := .cp, instant := 0, writes := [], wrote := [], tile := none, fab := true, bar := none }
    let s := wg fun g => { g with done := [d] }
    let w : RegWrite := { cls := .scalar, name := 5, mask := 0, comps := [], word := 9 }
    let v := wg fun g => { g with done := [{ d with ctr := .ld, fab := false, writes := [w] }] }
    s.issues ∧ (s.grp.done.any fun d => [Ctr.cp].contains d.ctr && d.fab) = true ∧ s.grp.count .cp ≤ (30#5).toNat ∧
    v.grp.done = [{ d with ctr := .ld, fab := false, writes := [w] }] ∧ w.name < 32 ∧ v.grp.pending = [] := by decide

/-- ExceptionEntry: a usable vector; no vector; one outside the lease; the handler's own fragment, and another under TMODE. -/
theorem witness_ExceptionEntry :
    let noVec := wg fun g => { g with trapVec := 0 }
    let own := wg fun g => { g with tmode := true, handler := some 64 }
    let other := wg fun g => { g with tmode := true, handler := some 3 }
    w0.issues ∧ w0.grp.tmode = false ∧ w0.checkVector = .ok ∧ (∀ d ∈ w0.dbg, d.stepping = false) ∧
    (∃ x ∈ w0.launches, w0.launch? w0.grp.id.l = some x ∧ x.state < 3 ∧ x.final = none) ∧
    (noVec.live = true ∧ noVec.grp.tmode = false ∧ noVec.checkVector = .bad) ∧ (wg fun g => { g with trapVec := 0x80000004 }).checkVector = .lease ∧
    (own.grp.tmode = true ∧ own.grp.handler = some own.frag.entry) ∧
    (other.grp.tmode = true ∧ other.grp.handler ≠ some other.frag.entry) := by decide
/-- ExceptionEntry: the vector's page is the host's to walk. -/
theorem witness_ExceptionEntry_wait : w0.live = true ∧ ({ w0 with modeSplit := 0 } : State).checkVector = .wait := by decide
/-- Bytes read below an address where two memories agree. -/
theorem readBytes_agree {m n : List Host.Cell} {top : Nat} (h : ∀ y, y < top → readByte m y = readByte n y) (k a : Nat) (ha : a + k ≤ top) :
    readBytes m a k = readBytes n a k := by
  induction k generalizing a with
  | zero => rfl
  | succ k ih => simp only [readBytes]; rw [h a (by omega), ih (a + 1) (by omega)]
/-- ExceptionEntry: a context area on an open page, whatever the record's own bytes are. -/
theorem witness_ExceptionEntry_record (m : List Host.Cell) (h : ∀ y, y < 0x200000 ∨ 0x200000 + 64 ≤ y → readByte m y = readByte w0.mem y) :
    Memory.wf w0.mem = true ∧ smallRec.ctxa.toNat = 0x200000 ∧
    ∀ k, k < 4 → ({ w0 with mem := m } : State).areaPart 1 (0x200000 + 16 * k) = some (0x200000 + 16 * k, none) := by
  refine ⟨by decide, rfl, fun k hk => ?_⟩
  have e (a : Nat) (ha : a + 8 ≤ 0x200000) : ({ w0 with mem := m } : State).pteAt a = w0.pteAt a :=
    congrArg (fun bs => BitVec.ofNat 64 (leNat bs)) (readBytes_agree (fun y hy => h y (.inl hy)) 8 a ha)
  have j : ({ w0 with mem := m } : State).job? 1 = some smallJob := rfl
  have r1 := e 0x1000 (by decide)
  have r2 := e 0x2000 (by decide)
  have r3 := e 0x3000 (by decide)
  have v1 : w0.pteAt 0x1000 = 0x2001 := by decide
  have v2 : w0.pteAt 0x2000 = 0x3001 := by decide
  have v3 : w0.pteAt 0x3000 = 3 := by decide
  rw [v1] at r1; rw [v2] at r2; rw [v3] at r3
  have p0 : smallJob.ptroot.toNat = 0x1000 := by decide
  have p1 : ptePA 0x2001 = 0x2000 := by decide
  have p2 : ptePA 0x3001 = 0x3000 := by decide
  have w : ({ w0 with mem := m } : State).walk 1 (0x200000 + 16 * k) = some ((0x200000 + 16 * k) / 2 ^ 30 * 2 ^ 30, 2 ^ 30, 3) := by
    simp only [State.walk, j]
    rw [p0, show 0x1000 + 8 * ((0x200000 + 16 * k) / 2 ^ 48 % 16) = 0x1000 by omega, r1, p1,
      if_pos (by simp only [Bool.and_eq_true, decide_eq_true_eq]; exact ⟨by decide, by omega⟩)]
    unfold State.walkLevels
    simp only [show (2 : Nat) ^ (12 + 9 * (2 + 1)) = 2 ^ 39 from rfl]
    rw [show 0x2000 + 8 * ((0x200000 + 16 * k) / 2 ^ 39 % 512) = 0x2000 by omega, r2, if_neg (by decide), if_pos (by decide), p2]
    unfold State.walkLevels
    simp only [show (2 : Nat) ^ (12 + 9 * (1 + 1)) = 2 ^ 30 from rfl]
    rw [show 0x3000 + 8 * ((0x200000 + 16 * k) / 2 ^ 30 % 512) = 0x3000 by omega, r3, if_pos (by decide), if_pos (by decide)]
  simp only [State.areaPart, w, physOf]
  rw [if_neg (by decide)]
  simp only [show ptePA 3 = 0 by decide]
  rw [show 0 + (0x200000 + 16 * k - (0x200000 + 16 * k) / 2 ^ 30 * 2 ^ 30) = 0x200000 + 16 * k by omega]

/-- ReturnFromHandler: outside a handler; in one with TEPC its own, written and passing, written and failing. -/
theorem witness_ReturnFromHandler :
    let h (a : VA) (w : Bool) := wg fun g => { g with tmode := true, tepc := a, tepcWritten := w }
    w0.issues ∧ w0.grp.tmode = false ∧ ((h 0x10006 false).grp.tmode = true ∧ (h 0x10006 false).grp.resumes = none) ∧
    (h 0x10008 true).checkTarget 0x10008 = .ok ∧ (h 0x10006 true).checkTarget 0x10006 = .bad := by decide
theorem witness_ReturnFromHandler_bundle : ∃ b, w0.fetch 0x10008 = .bundle b := ⟨_, rfl⟩
theorem witness_ReturnFromHandler_join :
    let s := wg fun g => { g with tmode := true, tepc := 0x10006 }
    s.retire.grp.joins { s.retire.frag with pc := s.grp.tepc } = none := by decide

/-- A descriptor in memory whose limit ends at the top of the address space, and one byte past it. -/
def wDesc (n : Nat) : State := { w0 with mem := writeBytes (writeBytes w0.mem 0x100000 (leBytes 8 0x1000)) 0x100008 (leBytes 8 n) }
/-- SystemRegisterWrites: a privileged launch and one that is not; a descriptor that passes and one that does not. -/
theorem witness_SystemRegisterWrites :
    let bs (n : Nat) := ((wDesc n).readNow ((okAccs ((wDesc n).checkRecord 0 16)).flatMap Acc.locs))
    let ok (n : Nat) := descriptorOk 0 (BitVec.ofNat 64 (leNat ((bs n).take 8))) (BitVec.ofNat 64 (leNat ((bs n).drop 8)))
    w0.grp.tmode = false ∧ w0.grp.priv = true ∧ (wg fun g => { g with priv := false }).grp.priv = false ∧
    ok (2 ^ 52 - 0x1000) = true ∧ ok (2 ^ 52 - 0xFFF) = false ∧
    (wDesc 0).busyLocs ((okAccs ((wDesc 0).checkRecord 0 16)).flatMap Acc.locs) = false ∧ segOf 0xE000000000000000 = 7 := by decide
theorem witness_SystemRegisterWrites_access :
    ∃ accs, w0.checkRecord (w0.readS 0) 16 = .ok accs := ⟨_, rfl⟩

/-- The group inside a transaction. -/
def wTx : State := wg fun g => { g with tx := some tx0 }
/-- Lane l of v1 holds 8 l; scalar 1 holds the last offset of sg0 that 32 such lanes leave room for. -/
def wLanes : State := wg fun g => { g with
  v := g.v.set 1 (some [Vector.ofFn fun l => BitVec.ofNat 32 (8 * l.val)]), s := g.s.set 1 (0x10000 - 256) }
/-- LoadsStart: in and out of a transaction, the counter at its last place, the last bytes of the segment, of sg1 and sg4. -/
theorem witness_LoadsStart :
    wTx.issues ∧ wTx.grp.tx.isSome ∧ (wg fun g => { g with ld := 30 }).grp.ld < 31 ∧ w0.grp.tx = none ∧
    w0.grp.room (Width.names .w64 31) = .ok ∧ (wf fun f => { f with em := 0 }).active 0 = 0 := by decide
theorem witness_LoadsStart_segment : ∃ accs, wLanes.checkAccess .rd (segOf (wLanes.readS 1)) (baseHigh (wLanes.readS 1)) [0, 3, 4, 6] 1 8
    (laneOffs (wLanes.readS 1) (wLanes.readV 1) (wLanes.active 0)) false = .ok accs := ⟨_, rfl⟩
theorem witness_LoadsStart_scratch : ∃ accs, wLanes.checkAccess .rd 1 false [1] 1 4 (laneOffsScratch (wLanes.readS 0) (wLanes.readV 1) (wLanes.active 0))
    false = .ok accs := ⟨_, rfl⟩
theorem witness_LoadsStart_constant : ∃ accs, w0.checkAccess .rd 4 false [4] 1 8 [{ lane := 0, off := (w0.readS 0).toNat + (31#5).toNat * 8 }] true = .ok accs :=
  ⟨_, rfl⟩

/-- StoresStart: in and out of a transaction, sg0 and another segment, up to 32 lines. -/
theorem witness_StoresStart :
    wTx.issues ∧ wTx.grp.tx.isSome ∧ segOf (wTx.readS 0) = 0 ∧ segOf 0x6000000000000000 ≠ 0 ∧ w0.grp.st < 31 ∧ w0.grp.tx = none ∧
    w0.inj[w0.grp.place.part.cu.die.toFin].en = false ∧ tx0.cause = 0 ∧ wTx.busyLocs [.dev 0x100000] = false ∧
    ((List.range 31 ++ linesOf [.dev 0x100000]).eraseDups).length ≤ 32 := by decide
theorem witness_StoresStart_segment : ∃ accs, wLanes.checkAccess .wr (segOf (wLanes.readS 1)) (baseHigh (wLanes.readS 1)) [0, 3, 6] 1 8
    (laneOffs (wLanes.readS 1) (wLanes.readV 1) (wLanes.active 0)) false = .ok accs := ⟨_, rfl⟩
theorem witness_StoresStart_scratch : ∃ accs, wLanes.checkAccess .wr 1 false [1] 1 4 (laneOffsScratch (wLanes.readS 0) (wLanes.readV 1) (wLanes.active 0))
    false = .ok accs := ⟨_, rfl⟩
theorem witness_StoresStart_inside : ∃ accs, wTx.checkAccess .wr (segOf (wTx.readS 0)) (baseHigh (wTx.readS 0)) [0, 3, 6] 1 4
    (laneOffs (wTx.readS 0) (wTx.readV 1) (wTx.active 0)) false = .ok accs := ⟨_, rfl⟩

/-- AtomicsStart: aligned words of 4 and 8 bytes, the pair's last name, deterministic mode with room in the buffer. -/
theorem witness_AtomicsStart :
    w0.issues ∧ wTx.grp.tx.isSome ∧ w0.grp.tx = none ∧ w0.grp.ld < 31 ∧ (w0.grp.freed []).room [30, 30 + 1] = .ok ∧
    w0.grp.det = false ∧ (wg fun g => { g with det := true }).grp.det = true ∧ segOf (w0.readS 0) = 0 ∧ w0.active 0 ≠ 0 ∧
    (w0.block? w0.grp.id.l w0.grp.id.blk).any (fun b => w0.detFits b (16 * 32)) = true ∧ (w0.grp.freed (freed1 lastA 1)).room [2] = .ok := by
  decide
theorem witness_AtomicsStart_access : ∃ accs, wLanes.checkAtomic .both 0 8 1 0 = .ok accs := ⟨_, rfl⟩
theorem witness_AtomicsStart_buffered : ∃ accs, wLanes.checkAtomic .buffered 0 4 1 0 = .ok accs := ⟨_, rfl⟩

/-- AtomicWords: a lock with the most readers, with a writer waiting, held, free; comparands equal and not. -/
theorem witness_AtomicWords :
    (2 ^ 32 - 1 : BitVec 64).toNat < 2 ^ 32 ∧ (0xFFFFFFFE#64).getLsbD 63 = false ∧ ((0xFFFFFFFE#64).extractLsb' 32 31).toNat = 0 ∧
    ((0xFFFFFFFE#64).extractLsb' 0 32).toNat < 2 ^ 32 - 1 ∧ ((0x100000000#64).extractLsb' 32 31).toNat ≠ 0 ∧
    (0x8000000000000000#64).getLsbD 63 = true ∧ ((0#64).extractLsb' 0 32).toNat = 0 ∧ (2#64).setWidth 32 ≠ 1#32 := by decide
/-- AtomicWords: the most readers, the most waiters, a writer that had waited, at 32 bits a comparand that is met. -/
theorem witness_AtomicWords_edges :
    let held (o : BitVec 64) := o.getLsbD 63
    let wait (o : BitVec 64) := (o.extractLsb' 32 31).toNat
    let readers (o : BitVec 64) := (o.extractLsb' 0 32).toNat
    (held 0xFFFFFFFF = false ∧ wait 0xFFFFFFFF = 0 ∧ readers 0xFFFFFFFF = 2 ^ 32 - 1) ∧
    (held 0xFFFFFFFE00000000 = true ∧ wait 0xFFFFFFFE00000000 = 2 ^ 31 - 2 ∧ wait 0xFFFFFFFF00000000 = 2 ^ 31 - 1) ∧
    (held 0x100000000 = false ∧ readers 0x100000000 = 0 ∧ 0 < wait 0x100000000 ∧ (1#64).setWidth 32 = 1#32) ∧
    (7#64).toNat < 2 ^ 32 ∧ atomLane .cas 32 7 9 7 = (some 9, 7) := by decide

/-- An operation of w0's group alone in flight, with its counter at 1. -/
def wOp (c : Option Ctr) (k : OpKind) (f : Op → Op) : State :=
  { w0 with grp := { w0.grp with ld := 1, st := 1, cp := 1, mx := 1 }, ops := [f (w0.newOp c k)], nextId := w0.nextId + 1 }
/-- One lane's access to the first word of sg0. -/
def acc0 : Acc := { lane := 0, off := 0, locs := (List.range 4).map fun i => .dev (0x100000 + i), data := [1, 2, 3, 4] }
/-- A step of one lane's atomic add. -/
def atom0 : AtomLane := { lane := 0, off := 0, locs := acc0.locs, x := 5, cmp := 0 }
/-- StoresStart, AtomicsStart: the injector holds a store of the group, and none. -/
theorem witness_StoresStart_holding :
    (wOp (some .st) (.store [acc0] none) fun o => { o with hold := true }).holding = true ∧ w0.holding = false ∧
    (wOp (some .st) (.store [acc0] none) fun o => { o with hold := true }).issues := by decide
theorem witness_AccessesComplete_store :
    let s := wOp (some .st) (.store [acc0] none) id
    ∃ o, s.memWf ∧ s.atEvent.mayGo 1 o ∧ o.kind = .store [acc0] none ∧ o.ctr = some .st ∧ o.kind.hostBytes = 0 ∧ o.performed = false ∧
      (([acc0].flatMap Acc.pieces).flatMap Acc.locs).Nodup ∧ (∀ c ∈ [acc0].flatMap Acc.pieces, c.data.length = c.locs.length) ∧
      ∃ g ∈ s.atEvent.groups, g.id = o.gid :=
  ⟨_, by decide, ⟨rfl, by decide⟩, rfl, rfl, by decide, rfl, by decide, by decide, by decide⟩
theorem witness_AccessesComplete_load :
    let s := wOp (some .ld) (.load (.vec 3 false) [acc0] none false) id
    ∃ o, s.atEvent.mayGo 1 o ∧ o.kind = .load (.vec 3 false) [acc0] none false ∧ o.ctr = some .ld ∧ o.clobbered = false ∧
      (∀ d ∈ s.dbg, d.stopped = false ∧ d.pendings.contains 1 = false) ∧ (∀ x ∈ s.streams, ∀ f ∈ x.flight, f.1 ≠ 1) ∧
      (∃ g ∈ s.atEvent.groups, g.id = o.gid) ∧ (∀ x ∈ s.l1, x.cu ≠ o.cu) ∧ ∀ q ∈ s.atEvent.ops, q.writesTo (.dev 0x100000) = false :=
  ⟨_, ⟨rfl, by decide⟩, rfl, rfl, rfl, by decide, by decide, by decide, by decide, by decide⟩
theorem witness_AccessesComplete_pieces : acc0.data.length = acc0.locs.length ∧ acc0.data ≠ [] := by decide

/-- AccessEvents: an atomic of one lane, and a store in the hold buffer. -/
theorem witness_AccessEvents :
    let s := wOp (some .ld) (.atomic (.atom .add) .lane false 3 [atom0]) id
    ∃ o, s.atEvent.op? 1 = some o ∧ o.kind = .atomic (.atom .add) .lane false 3 [atom0] ∧
      atom0.locs = [Loc.dev 0x100000, .dev (0x100000 + 1), .dev (0x100000 + 2), .dev (0x100000 + 3)] ∧ s.memWf ∧ o.performed = false ∧
      s.atEvent.mayPerform o = true ∧ (∀ g ∈ s.atEvent.groups, g.det = false) ∧
      ∀ q ∈ s.atEvent.ops, ∀ p ∈ atom0.locs, q.writesTo p = false :=
  ⟨_, rfl, rfl, rfl, by decide, rfl, by decide, by decide, by decide⟩
theorem witness_AccessEvents_hold :
    let s := wOp (some .st) (.store [acc0] none) fun o => { o with hold := true }
    ∃ o, s.atEvent.op? 1 = some o ∧ o.hold = true ∧ ∀ p ∈ opsBefore s.atEvent.ops 1, p.hold = true → p.gid = o.gid → ∀ x ∈ p.kind.locs, x ∉ o.kind.locs :=
  ⟨_, rfl, rfl, by decide⟩

/-- A queue record of capacity 4 and 16-byte entries, queue 0 of every block, with one credit; `es` its entries. -/
def wQueue (es : List QEntry) : State :=
  { w0 with
    grp := { w0.grp with sg := w0.grp.sg.set 5 { base := 0, limit := 1 }, clb := 1 },
    clusterLaunches := [{ l := 0, c := 0, blocks := 1, die := 0, cluster := 0, bars := Vector.replicate 8 Barrier.none }],
    launches := w0.launches.map fun x => { x with qcfg := [3] },
    blocks := w0.blocks.map fun b => { b with queues := [{ entries := es, tail := 0, credits := [(0, 1)] }] } }
theorem witness_FencesAndQueues :
    wTx.issues ∧ wTx.grp.tx.isSome ∧ w0.grp.tx = none ∧ w0.quiet = true ∧ w0.linksBusy = false ∧ Scope.orders .dev = true ∧
    (wOp (some .st) (.store [acc0] none) id).quiet = false ∧ w0.holding = false ∧ Scope.wide .dev = true ∧ Scope.wide .die = false ∧
    (wOp (some .st) (.store [acc0] none) fun o => { o with hold := true }).holding = true ∧ Scope.mem .mem = true ∧ Scope.mem .die = false ∧
    Scope.widerThanCu .cu = false ∧ Scope.orders .lane = false ∧ Scope.far .peer = true ∧ (wOp (some .cp) (.ratom .add false 3 16 []) id).linksBusy = true := by decide
theorem witness_FencesAndQueues_queues :
    let s := wQueue []
    let e : QEntry := { off := 0, src := 0, popped := false }
    let r (x : State) : Option RemoteQueue := (x.block? 0 0).bind fun b => b.queues[0]?
    queueBad s 0 0 = false ∧ (31#5).toNat + (queueNames (s.queueConfig 0) 31).length ≤ 32 ∧ (r s).any (fun r => decide (0 < r.credit s.clusterIndex)) = true ∧
    s.grp.st < 31 ∧ (r (wQueue [{ e with popped := true }])).any (fun r => r.entries.all QEntry.popped) = true ∧ s.grp.settledS 1 ∧
    (r (wQueue [{ e with popped := true }, e])).any (fun r => r.entries.find? (fun e => !e.popped) == some e) = true ∧ s.grp.ld < 31 ∧
    s.grp.room (queueNames (s.queueConfig 0) 31) = .ok ∧ s.busyLocs ((List.range 16).map fun j => Loc.scr 0 0 (0 + j)) = false ∧
    s.poisonCheck (entryLanes s.grp.id 0 16) = none := by decide

/-- BarrierInstructions: the phase open and passed; configured, not, arrived already, split; a byte count at its edge. -/
theorem witness_BarrierInstructions :
    let s := wg fun g => { g with s := (g.s.set 1 1).set 2 0xFFFFFFFF }
    let bar := s.barOf 0
    let setBar (f : Barrier → Barrier) : State := { s with blocks := s.blocks.map fun b => { b with bars := b.bars.set 0 (f (b.bars.get 0)) } }
    s.issues ∧ s.grp.settledS 3 ∧ bar.gen = (s.readS 0).extractLsb' 0 16 ∧ bar.gen ≠ (s.readS 1).extractLsb' 0 16 ∧
    (s.barRef 0).isSome = true ∧ s.grp.tx = none ∧ bar.expected ≠ 0 ∧ s.grp.splits = [] ∧ (s.grp.id.blk, s.grp.id.g) ∉ bar.arrivals ∧
    s.quiet = true ∧ ((setBar fun b => { b with expected := 0 }).barOf 0).expected = 0 := by decide
theorem witness_BarrierInstructions_misuse :
    let setBar (f : Barrier → Barrier) : State := { w0 with blocks := w0.blocks.map fun b => { b with bars := b.bars.set 0 (f (b.bars.get 0)) } }
    (w0.grp.id.blk, w0.grp.id.g) ∈ ((setBar fun b => { b with arrivals := [(0, 0)] }).barOf 0).arrivals ∧ wSplit.grp.splits ≠ [] ∧
    2 ^ 32 ≤ ((setBar fun b => { b with target := 1 }).barOf 0).target.toNat + (0xFFFFFFFF#64).toNat ∧
    (w0.barOf 0).target.toNat + (0xFFFFFFFF#64).toNat < 2 ^ 32 ∧ (15#5).toNat < 16 ∧ w0.grp.ld = 0 ∧ w0.grp.mx = 0 := by decide

/-- PhaseCompletion: one of two arrivals, and the last. -/
theorem witness_PhaseCompletion :
    let s : State := w0.unfocus
    let b : Barrier := { Barrier.none with expected := 2, arrived := 1 }
    let full (y : Barrier) : Bool := y.expected != 0 && y.arrived == y.expected && y.bytes == y.target
    s.live = false ∧ (s.block? 0 0).isSome = true ∧ b.regroups = [] ∧ full b = false ∧ full { b with arrived := 2 } = true := by decide
/-- PhaseCompletion: a pair whose even group has the lower 16 lanes and whose odd group has 16 or 32; v4 is mapped in the odd group only. -/
def pairOf (om : Mask) (quota : Nat) : Group × Group :=
  let g : Group := { w0.grp with quota := quota }
  ({ g with frags := [{ w0.frag with em := 0xFFFF }] },
   { g with id := { g.id with g := 1 }, frags := [{ w0.frag with em := om }], v := g.v.set 4 (some [Lanes.splat 7]) })
theorem witness_PhaseCompletion_pair :
    let r : Regrouping := { g := 0, addr := 0x10004, cycle := 0, d := 0, a := 3, b := 5, dl := false }
    let p := { r with g := 1 }
    let b : Barrier := { Barrier.none with expected := 2, arrived := 2, regroups := [r, p] }
    let ok (x : Group × Group) : Prop := [x.1, x.2].map Group.id = [{ l := 0, blk := 0, g := 0 }, { l := 0, blk := 0, g := 1 }] ∧ x.1.kt = x.2.kt ∧
      ∀ h ∈ [x.1, x.2], h.lat = [] ∧ h.pending = [] ∧ h.tmode = false ∧ h.tx = none ∧ h.splits = [] ∧ h.frags.length = 1 ∧ h.held ≤ h.quota
    let count (x : Group × Group) : Nat := (lanesOf x.1.em).length + (lanesOf x.2.em).length
    let needs (h other : Group) : Nat := (((List.range 32).map (BitVec.ofNat 5)).filter fun m =>
      decide (max r.a.toNat p.a.toNat ≤ m.toNat ∧ m.toNat ≤ min r.b.toNat p.b.toNat) && !h.mapped m && other.mapped m).length * (h.kt + 1)
    b.expected ≠ 0 ∧ b.arrived = b.expected ∧ b.bytes = b.target ∧ r.g % 2 = 0 ∧ p.g = r.g + 1 ∧
    ok (pairOf 0xFFFF0000 64) ∧ count (pairOf 0xFFFF0000 64) = 32 ∧ ok (pairOf 0xFFFFFFFF 64) ∧ count (pairOf 0xFFFFFFFF 64) = 48 ∧
    (let x := pairOf 0xFFFFFFFF 64; needs x.1 x.2 + needs x.2 x.1 ≤ (x.1.quota - x.1.held) + (x.2.quota - x.2.held)) ∧
    (let x := pairOf 0xFFFFFFFF 64
     let full : Group × Group := ({ x.1 with quota := x.1.held }, { x.2 with quota := x.2.held })
     ok full ∧ (full.1.quota - full.1.held) + (full.2.quota - full.2.held) < needs full.1 full.2 + needs full.2 full.1) ∧
    w0.launches.any (fun x => x.uid == 0 && x.state < 3 && x.final.isNone) = true := by decide

/-- REGROUP (R21, R162; chapter 09, the gaps of `oddfilter`): two cycles after the issue S(d) is readable, however long the phase took. -/
theorem test_regroup_result_readable :
    (({ w0.grp with cycle := 7 } : Group).regroupDone 0 { g := 0, addr := 0, cycle := 5, d := 5, a := 0, b := 0, dl := false }).lat =
      w0.grp.lat ∧
    (({ w0.grp with cycle := 6 } : Group).regroupDone 0 { g := 0, addr := 0, cycle := 5, d := 5, a := 0, b := 0, dl := false }).lat.length =
      w0.grp.lat.length + 1 := by decide

/-- Table 5 of job 1, ordered, of one-word-wide rows: key 7 in slot 2 of four. -/
def t5 : Table :=
  { job := 1, num := 5, kind := 1, rsz := 0, hb := 0, hdie := 0, hslice := 0, rbhw := true, detres := 4, rpool := 0x140000,
    rcap := 4, ipool := 0x150000, ipages := 64, splits := 0, merges := 0, rows := [(7, 2)], gens := [],
    leaves := [{ keys := [(7, 2)] }], inner := [], buckets := [], frozen := [], root := 0, lost := 0, users := [0] }
/-- w0 with a table, its scalar 1 a descriptor of that table: one word at v8, predicate k1. -/
def wTable (t : Table) : State :=
  { w0 with tables := [t], grp := { w0.grp with s := (w0.grp.s.set 1 (0x200280005 : BitVec 64)).set 2 5 } }
/-- The group inside a transaction with cause `c`. -/
def inTx (c : Nat) (s : State) : State := { s with grp := { s.grp with tx := some { tx0 with cause := c } } }
/-- One lane of an insert. -/
def lane5 (k : BitVec 64) : KeyLane := { lane := 0, key := k, words := [9] }

/-- PointOperations: no table; words past v31, and past the row; a plain form, and a .Q form in and out of a transaction. -/
theorem witness_PointOperations :
    let s := wTable t5
    let desc := TDesc.ofWord (s.readS 1)
    w0.issues ∧ w0.tableOf 1 5 0 = none ∧ s.issues ∧ s.tableOf s.grp.job desc.table s.grp.id.l = some t5 ∧
    (TDesc.ofWord 0x5F0005).bad 0x5F0005 1 = true ∧ (TDesc.ofWord 0x10200005).passes t5 = true ∧
    desc.bad (s.readS 1) 1 = false ∧ desc.passes t5 = false ∧ desc.q = 1 ∧ s.grp.ld < 31 ∧ s.grp.room [30, 30 + 1, 8] = .ok ∧
    s.inTx = false ∧ (inTx 0 s).inTx = true ∧ (inTx 0 s).grp.doomed = false ∧ (inTx 2 s).grp.doomed = true := by decide
theorem witness_PointOperations_ready :
    let s := wTable t5
    let desc := TDesc.ofWord (s.readS 1)
    s.pointChecks desc t5 [lane5 7, { lane := 31, key := 0xFFFFFFFFFFFFFFFF, words := [9] }] [] = none ∧
    s.queueFull s.grp.place.part.cu .table = false ∧
    s.heldBack (.point .ins 3 desc [lane5 7]) = false ∧ plainFault [] = none ∧ rowPoison [] = none := by decide
theorem witness_PointOperations_lanes :
    let s := wTable t5
    let desc := TDesc.ofWord (s.readS 1)
    let x := s.pointLanes false s.grp.id s.grp.job .find desc [lane5 7]
    (s.pointChecks desc t5 [lane5 7] x.2 = none ∧ rowPoison x.2 = none ∧ plainFault x.2 = none) ∧
    ∃ e, plainFault (s.pointLanes false s.grp.id s.grp.job .ins desc [lane5 7]).2 = some e :=
  ⟨by decide, ⟨_, rfl⟩⟩

/-- PointOperations: a KEY watchpoint on key 7. -/
theorem witness_PointOperations_watched :
    let s := wTable t5
    ∃ e, ({ s with grp := { s.grp with w := s.grp.w.set 0 { kind := .key, lo := 7, hi := 7, table := 5, en := true } } } : State).pointChecks
      (TDesc.ofWord (s.readS 1)) t5 [lane5 7] [] = some (.trap e) := ⟨_, rfl⟩

/-- A launch in deterministic mode whose run of slots starts at 3. -/
def wRun : State :=
  { wTable t5 with launches := w0.launches.map fun x => { x with lrec := { x.lrec with flags := 8 }, detF := [(5, 3)] } }
/-- TableEffects: keys present and absent, room for an insert and none, rows in reach, a reference of the last slot. -/
theorem witness_TableEffects :
    let s := wRun
    let desc := TDesc.ofWord (s.readS 1)
    s.memWf ∧ s.tableOf 1 desc.table 0 = some t5 ∧ desc.passes t5 = false ∧ t5.find 7 = some 2 ∧ t5.find 8 = none ∧
    s.insertSlot s.grp.id { t5 with rows := [(7, 3)] } 0 = none ∧ s.insertSlot s.grp.id t5 0 = some 3 ∧
    (t5.insert 8 3).isSome = true ∧ s.rowLocs 0 { t5 with rpool := 0x80000000 } 3 0 16 = .lease ∧
    s.rowLocs 0 t5 2 0 t5.rowBytes = .ok ((List.range t5.rowBytes).map fun i => .dev (t5.rowVa 2 i)) ∧ t5.rcap ≤ 2 ^ 40 ∧ 3 < t5.rcap ∧ t5.slotOfRef (t5.ref 3) = some 3 ∧
    ({ t5 with num := 0 } : Table).ref 0 = 0 := by decide

/-- RowsByReference: lanes that name no table (w0), and lanes whose pair names row 2 of table 5. -/
def wRef : State :=
  { wTable t5 with grp := { (wTable t5).grp with
      v := (w0.grp.v.set 1 (some [Lanes.splat 0x200])).set 2 (some [Lanes.splat 0x50000]) } }
theorem witness_RowsByReference :
    let xs (s : State) : List RefLane := (lanesOf (s.active 0)).map fun l => { lane := l, ref := s.readPair 1 l, off := ((s.readV 3).get l).toNat }
    let tab (s : State) (x : RefLane) : Option Table := (s.tableOf s.grp.job (refTable x.ref) s.grp.id.l).map (s.seeTable s.inTx)
    let row (s : State) (x : RefLane) : Option Nat := (tab s x).bind fun t => (t.slotOfRef x.ref).map fun slot => t.rowVa slot x.off
    w0.issues ∧ w0.memWf ∧ (refCheck (tab w0) (fun x => (row w0 x).isNone) true 4 (xs w0)).isSome = true ∧
    wRef.issues ∧ wRef.memWf ∧ refCheck (tab wRef) (fun x => (row wRef x).isNone) true 4 (xs wRef) = none ∧
    wRef.queueFull wRef.grp.place.part.cu .table = false ∧ wRef.grp.ld < 31 ∧ wRef.grp.st < 31 ∧ wRef.grp.room (Width.names .w64 31) = .ok ∧ wRef.inTx = false ∧
    (inTx 0 wRef).inTx = true ∧ wRef.inj[wRef.grp.place.part.cu.die.toFin].en = false := by decide
theorem witness_RowsByReference_reach :
    let xs : List RefLane := (lanesOf 3).map fun l => { lane := l, ref := wRef.readPair 1 l, off := 0 }
    (∃ accs, wRef.refAccess .rd 4 (xs.map fun x => (x, t5.rowVa 2 12)) false = .ok accs ∧ wRef.heldBack (.store accs none) = false) ∧
    ∃ accs, wRef.refAccess .wr 4 (xs.map fun x => (x, t5.rowVa 2 12)) true = .ok accs ∧ wRef.heldBack (.store accs none) = false :=
  ⟨⟨_, rfl, by decide⟩, ⟨_, rfl, by decide⟩⟩

/-- RowsByReference: a plain STR in the injector's buffer, one that it has let go, one whose bytes the injector's range meets. -/
theorem witness_RowsByReference_held :
    let o : Op := { wRef.newOp none (.row true false 4 0 [{ lane := 0, ref := 0, off := 0, len := 4, locs := [], data := [] }]) with
      performed := true, hold := true, parts := [0] }
    let on : State := { wRef with inj := wRef.inj.set 0 { lo := 0, hi := BitVec.allOnes 52, en := true, n := 1 } }
    ({ wRef with ops := [o] } : State).heldStr = some o ∧ wRef.heldStr = none ∧
    ({ w0 with ops := [{ o with gid := w0.grp.id, addr := w0.latch.start, hold := false }] } : State).heldStr.isSome = true ∧
    ∃ x, on.holdParts { o with hold := false, parts := [] } [(0, 0x140000, 4)] = some x ∧ x.hold = true :=
  ⟨by decide, by decide, by decide, _, rfl, by decide⟩

/-- ScansAndStatistics: no table, an unordered and an ordered one; cursors open, busy, exhausted, with rows due and not. -/
theorem witness_ScansAndStatistics :
    let s := wTable t5
    let busy : State := { s with ops := [{ s.newOp (some .ld) (.tnext 1 8 0 (TDesc.ofWord 5) []) with performed := false }] }
    let c : Cursor := { slot := 1, lane := 0, table := 5, hi := 7, last := 7, returned := false, exhausted := false }
    wTx.grp.tx.isSome ∧ w0.tableOf 1 ((w0.readS 2).setWidth 16) 0 = none ∧ s.tableOf s.grp.job ((s.readS 2).setWidth 16) s.grp.id.l = some t5 ∧
    t5.ordered = true ∧ ({ t5 with kind := 2 } : Table).ordered = false ∧ s.cursorBusy 1 = false ∧ busy.cursorBusy 0 = false ∧
    s.watchKeys 5 [(0, 7, 7)] = .clear ∧ s.queueFull s.grp.place.part.cu .table = false ∧ s.grp.ld < 31 ∧ s.inTx = false ∧ (inTx 0 s).inTx = true ∧ (inTx 0 s).grp.doomed = false ∧
    (inTx 0 s).heldBack (.tstat .rows 3 5) = false ∧ (TDesc.ofWord 5).bad 5 8 = false ∧ (TDesc.ofWord 0x3F0005).bad 0x3F0005 8 = true ∧
    s.grp.room ((List.range 32).map fun i => 0 + BitVec.ofNat 5 i) = .ok ∧ (t5.rows.map Prod.fst).Nodup ∧
    t5.scan c 8 = [(7, 2)] ∧ t5.scan { c with returned := true } 8 = [] ∧ c.exhausted = false := by decide
theorem witness_ScansAndStatistics_step :
    let c : Cursor := { slot := 1, lane := 0, table := 5, hi := 7, last := 7, returned := false, exhausted := false }
    let s : State := { wTable t5 with grp := { (wTable t5).grp with cursors := [c] } }
    ∃ y, s.scanLanes s.grp.id s.grp.job 1 8 (TDesc.ofWord 5) [(0, some 5)] = .ok y ∧ ∀ r ∈ y.2, r.bad = none := ⟨_, rfl, by decide⟩

/-- Transactions: none, one idle, one with an access outstanding, doomed, live with stores and with an insert. -/
theorem witness_Transactions :
    let s := inTx 0 (wTable t5)
    let y : Tx := { tx0 with ops := [.ins 5 8 3], stores := [(0x100000, 1)], rows := [(0x140030, 9)] }
    s.issues ∧ s.grp.settledS 31 ∧ w0.grp.tx = none ∧ s.grp.tx = some tx0 ∧ s.busyLocs (tx0.stores.map fun c => .dev c.1) = false ∧
    (wOp (some .ld) .results id).grp.ld ≠ 0 ∧ s.grp.ld = 0 ∧ s.grp.st = 0 ∧ s.replayVerdict = .go ∧ (inTx 2 s).grp.tx = some { tx0 with cause := 2 } ∧
    tx0.cause = 0 ∧ s.quiet = true ∧ s.queueFull s.grp.place.part.cu .table = false ∧
    ({ s with ops := [s.newOp none (.store [acc0] none)] } : State).quiet = false ∧ (s.commit tx0).isSome = true ∧ (s.commit y).isSome = true ∧
    ({ s with tables := [{ t5 with ipages := 0 }] } : State).commit y = none ∧ s.memWf ∧ (y.rows.map Prod.fst).Nodup ∧ tx0.ops = [] := by decide

/-- A valid shape record: four bytes of binary32 at 0x100000, rank 1. -/
def shape1 : BitVec 512 := 0x100000 + (8 <<< 52) + (1 <<< 58)
/-- A block of 32 slots, two tiles and four scale registers; fmt of bfloat16 operands and a binary32 output; control word without
barrier in scalar 1, slot 4 in scalar 2, 64 rows in scalar 3, the largest slots in scalar 4, a shape in sh1 and in memory. -/
def wEng : State :=
  { w0 with
    mem := writeBytes w0.mem 0x100000 (leBytes 64 shape1.toNat),
    frag := { w0.frag with fmt := 0x828A },
    blocks := w0.blocks.map fun b => { b with
      slots := 32, ver := List.replicate 32 0, swz := List.replicate 32 false,
      sc := List.replicate 4 { bytes := List.replicate 128 0, poison := [], tag := none } },
    grp := { w0.grp with
      sh := w0.grp.sh.set 1 shape1, s := (((w0.grp.s.set 1 0x400000).set 2 4).set 3 0x8000).set 4 511 } }
/-- wEng with another fmt. -/
def wFmt (f : BitVec 64) : State := { wEng with frag := { wEng.frag with fmt := f } }

/-- SingleIssue: no lane active, and a transaction with lanes active. -/
theorem witness_SingleIssue :
    (wf fun f => { f with em := 0 }).issues ∧ (wf fun f => { f with em := 0 }).active 0 = 0 ∧ wTx.issues ∧ wTx.grp.tx.isSome ∧
    wTx.active 0 ≠ 0 := by decide

/-- CopiesStart: records that pass and fail; within and past the block's slots; barriers none, configured, not; a start condition. -/
theorem witness_CopiesStart :
    let c := wEng.readS 1
    let sh := Shape.of wEng.grp.sh[1]
    wEng.issues ∧ wEng.active 0 ≠ 0 ∧ wEng.grp.tx = none ∧ sh.bad = false ∧ (Shape.of wEng.grp.sh[0]).bad = true ∧
    sh.badCoords false (wEng.coords 8) = false ∧ sh.badCoords true (wEng.coords 8) = false ∧
    ctlSlot c + (sh.imgBytes + 1023) / 1024 ≤ wEng.mySlots ∧ sh.regs = 0 ∧ ¬ (ctlSlot 511 + (sh.imgBytes + 1023) / 1024 ≤ wEng.mySlots) ∧
    ctlTgt c < (wQueue []).clusterSize ∧ roomFor wEng .cp .copy none := by
  refine ⟨by decide, by decide, by decide, by decide, by decide, by decide, by decide, by decide, by decide, by decide, by decide, ?_⟩
  exact ⟨by decide, fun _ => by decide, fun h => absurd rfl h⟩
theorem witness_CopiesStart_bars :
    (∃ e, wEng.ctlBars 0x3E0000 0 true = .error e) ∧ wEng.ctlBars (wEng.readS 1) 0 true = .ok (none, none) ∧
    (∃ r g, wEng.ctlBars 0xC00000 0 true = .ok (none, some (r, g))) ∧ wEng.deferredCount < 2 := ⟨⟨_, rfl⟩, rfl, ⟨_, _, rfl⟩, by decide⟩
theorem witness_CopiesStart_record :
    ∃ accs, wEng.checkAccess .unwatched (segOf (wEng.readS 0)) (baseHigh (wEng.readS 0)) [0, 4] 1 64
      [{ lane := 0, off := (wEng.readS 0).toNat % 2 ^ 52 }] true = .ok accs ∧ wEng.busyLocs (accs.flatMap Acc.locs) = false ∧
      (Shape.of (BitVec.ofNat 512 (leNat (wEng.readNow (accs.flatMap Acc.locs))))).bad = false := ⟨_, rfl, by decide, by decide⟩
theorem witness_CopiesStart_bad :
    ∃ accs, w0.checkAccess .unwatched (segOf (w0.readS 0)) (baseHigh (w0.readS 0)) [0, 4] 1 64
      [{ lane := 0, off := (w0.readS 0).toNat % 2 ^ 52 }] true = .ok accs ∧
      (Shape.of (BitVec.ofNat 512 (leNat (w0.readNow (accs.flatMap Acc.locs))))).bad = true := ⟨_, rfl, by decide⟩

/-- ScaleRegisters: the last register of the share and the first past it, the last slot and the first past it. -/
theorem witness_ScaleRegisters :
    ∃ k, wEng.myBlock = some k ∧ (3#6).toNat < k.sc.length ∧ k.sc.length ≤ (4#6).toNat ∧ (31#64).toNat % 512 < k.slots ∧
      k.slots ≤ (32#64).toNat % 512 ∧ wEng.grp.settledS 3 := ⟨_, rfl, by decide, by decide, by decide, by decide, by decide⟩
theorem witness_ScaleRegisters_bytes : (0xFF : Byte) = 0xFF ∧ (0xFE : Byte) ≠ 0xFF ∧ wEng.issues ∧
    (wEng.myBlock.map fun k => k.scalePoison 3 120 8) = some none := by decide
theorem witness_ScaleRegisters_poison :
    let s : State := { wEng with blocks := wEng.blocks.map fun b => { b with sc := b.sc.map fun r => { r with poison := [127] } } }
    ∃ k e, s.myBlock = some k ∧ k.scalePoison 3 120 8 = some e := ⟨_, _, rfl, rfl⟩

/-- MatrixIssue: role, format pair, tile and ranges that pass and fail; a scaled operand that nothing is bound to. -/
theorem witness_MatrixIssue :
    let x := (wEng.readS 3).toNat
    wEng.issues ∧ wEng.grp.role = 2 ∧ (wg fun g => { g with role := 1 }).grp.role ≠ 2 ∧ matPairOk wEng.frag.fmt = true ∧
    matPairOk (wFmt 0x8202).frag.fmt = false ∧ (1#4).toNat < wEng.myTiles ∧ wEng.myTiles ≤ (2#4).toNat ∧
    x % 512 + matSlots 0x0A 64 ≤ wEng.mySlots ∧ (wEng.readS 2).toNat % 512 + matSlots 0x0A 64 ≤ wEng.mySlots ∧
    x / 2 ^ 16 % 512 + matSlots 0x0A 64 ≤ wEng.mySlots ∧ x / 2 ^ 9 % 2 ^ 14 ≠ 0 ∧ (wEng.readS 2).toNat / 2 ^ 9 % 2 ^ 14 = 0 ∧
    0 % 2 = 0 ∧ 8064 + 128 ≤ wEng.grp.limit 1 ∧ wEng.grp.limit 1 < 8066 + 128 := by decide
theorem witness_MatrixIssue_tags :
    ∃ k, wEng.myBlock = some k ∧ k.findTags (k.tags 0x0A false 0 64) = .ok [] ∧ (∃ e, k.findTags (k.tags 0x20 false 0 64) = .error e) ∧
      k.findTags (k.tags 0x20 true 0 64) = .ok [] := ⟨_, rfl, rfl, ⟨_, rfl⟩, rfl⟩
theorem witness_MatrixIssue_room : roomFor wEng .mx .matrix none := ⟨by decide, fun _ => by decide, fun h => absurd rfl h⟩
/-- MatrixIssue: a slot range past the block's share; a product whose first operand is bound and whose second is not. -/
theorem witness_MatrixIssue_stale :
    ¬ (511 + matSlots 0x0A 64 ≤ wEng.mySlots) ∧
    ∃ k, wEng.myBlock = some k ∧ (∃ rs, k.findTags (k.tags 0x20 true 0 64) = .ok rs) ∧ ∃ e, k.findTags (k.tags 0x20 false 0 64) = .error e :=
  ⟨by decide, _, rfl, ⟨_, rfl⟩, ⟨_, rfl⟩⟩

/-- AccumulatorsAndDrains: the last tile and slots, the first past them; a pitch too small; the last bytes of sg0; an
operation that still writes a slot. -/
theorem witness_AccumulatorsAndDrains :
    let busy : State := { wEng with ops := [{ wEng.newOp (some .cp) (.copy { dir := .into, shape := shape1, coords := [], ctl := 0, blk := 0, segs := [] }) with img := [(0, 0, 4)] }] }
    wEng.issues ∧ wEng.grp.tx = none ∧ wEng.active 0 ≠ 0 ∧ wEng.myTiles ≤ (2#4).toNat ∧ (1#4).toNat < wEng.myTiles ∧
    (16#64).toNat % 512 + 16 ≤ wEng.mySlots ∧ wEng.grp.room [28, 28 + 1, 28 + 2, 28 + 3] = .ok ∧
    16 * ctlPitch 0x10000000000000 < 256 ∧ ctlPitch (wEng.readS 1) = 0 ∧ (floatFmt (fmtOF wEng.frag.fmt)).isSome = true ∧ fmtOF wEng.frag.fmt ≠ 0x0B ∧
    segOf 0xC000 = 0 ∧ baseHigh 0xC000 = false ∧ 0xC000 + 63 * 256 + 256 ≤ wEng.grp.limit 0 ∧ 0xC000 % 4 = 0 ∧ 256 % 4 = 0 ∧
    512 < (513#64).toNat % 1024 ∧ wEng.mySlots < 1 + (32#64).toNat % 1024 ∧ 0 + (32#64).toNat % 1024 ≤ wEng.mySlots ∧
    (∃ o ∈ busy.ops, o.gid.l = busy.grp.id.l ∧ ∃ r ∈ o.img, r.1 = busy.grp.id.blk ∧ 0 < 1 ∧ r.2.1 / 1024 < 0 + 1 ∧ 0 * 1024 < r.2.1 + r.2.2) ∧
    (∀ o ∈ busy.ops, o.kind.fills = true) ∧ wEng.ops = [] := by decide
theorem witness_AccumulatorsAndDrains_room :
    roomFor wEng .cp .drain none ∧ ∃ k, wEng.myBlock = some k ∧ wEng.detFits k 16448 = true :=
  ⟨⟨by decide, fun _ => by decide, fun h => absurd rfl h⟩, ⟨_, rfl, by decide⟩⟩

/-- The copy of shape1 into slot 0, with its one part to come. -/
def copy1 (d : CopyDir) : CopyOp := { dir := d, shape := shape1, coords := wEng.coords 8, ctl := 0x400000, blk := 0, segs := [(0x100000, 0x110000)] }
/-- An operation of wEng's group alone in flight. -/
def wEop (c : Option Ctr) (k : OpKind) (f : Op → Op) : State :=
  { wEng with grp := { wEng.grp with cp := 1, mx := 1 }, ops := [f (wEng.newOp c k)], nextId := wEng.nextId + 1 }
theorem witness_EngineEvents_copyStart :
    let s := wEop (some .cp) (.copy (copy1 .into)) id
    ∃ o, s.atEvent.op? 1 = some o ∧ s.atEvent.nextCopy o.cu = some o := ⟨_, rfl, by decide⟩
theorem witness_EngineEvents_copyPart :
    let s := wEop (some .cp) (.copy (copy1 .into)) fun o => { o with started := true }
    ∃ o p d, s.atEvent.op? 1 = some o ∧ o.started = true ∧ s.atEvent.mayPerform o = true ∧ o.parts.contains 0 = false ∧ (copy1 .into).memParts[0]? = some p ∧
      (copy1 .into).out = false ∧ s.atEvent.readPart o (copy1 .into) 0 p = some d := ⟨_, _, _, rfl, by decide, by decide, by decide, rfl, by decide, rfl⟩
theorem witness_EngineEvents_copyWrite :
    let s := wEop (some .cp) (.copy (copy1 .out)) fun o => { o with started := true }
    ∃ o p v d e, s.atEvent.op? 1 = some o ∧ s.atEvent.mayPerform o = true ∧ (copy1 .out).memParts[0]? = some p ∧ (copy1 .out).out = true ∧
      s.atEvent.writePart o (copy1 .out) 0 p = some (v, d, e) := ⟨_, _, _, _, _, rfl, by decide, rfl, by decide, rfl⟩
theorem witness_EngineEvents_copyComplete :
    let s := wEop (some .cp) (.copy (copy1 .into)) fun o => { o with started := true, parts := [0], buf := [{ i := 0, bytes := leBytes 16 1, fate := .ok }] }
    ∃ o x, s.atEvent.op? 1 = some o ∧ (∀ n, n < (copy1 .into).memParts.length → n ∈ o.parts) ∧ o.spoilt = [] ∧ o.ctr = some .cp ∧
      s.atEvent.block? o.gid.l (copy1 .into).blk = some x ∧ s.memWf ∧ o.bar = none ∧ ((copy1 .into).image o.buf).bytes.length = 4 :=
  ⟨_, _, rfl, by decide, by decide, by decide, rfl, by decide, by decide, by decide⟩
theorem witness_EngineEvents_deferred :
    let r := BarRef.block 0 0 0
    let s := wEop (some .cp) (.copy (copy1 .into)) fun o => { o with deferred := some (r, 1) }
    ∃ o y x, s.atEvent.op? 1 = some o ∧ s.atEvent.bar? r = some y ∧ y.gen ≠ 1 ∧ s.atEvent.block? 0 0 = some x ∧ x.cu.isSome = true ∧ x.saved = false ∧
      s.atEvent.queueFull o.cu o.kind.queue = false := ⟨_, _, _, rfl, rfl, by decide, rfl, by decide, by decide, by decide⟩
theorem witness_EngineEvents_matrix :
    let s := wEop (some .mx) (.mat .amzero 1 0x828A) id
    ∃ o x, s.atEvent.op? 1 = some o ∧ s.atEvent.block? o.gid.l o.gid.blk = some x ∧ s.atEvent.matrixReady o = true ∧ o.ctr = some .mx ∧
      ∀ d ∈ s.dbg, d.stopped = false := ⟨_, _, rfl, rfl, by decide, by decide, by decide⟩
theorem witness_EngineEvents_drain :
    let k : OpKind := .drain true 1 0x828A false 0x100000 4 4 false
    let s := wEop (some .cp) k id
    let v := wEop (some .cp) k fun o => { o with started := true }
    (s.atEvent.op? 1).any (fun o => (s.atEvent.block? o.gid.l o.gid.blk).isSome && s.atEvent.drainReady o) = true ∧
    (v.atEvent.op? 1).any (fun o => o.bar == none && o.ctr == some .cp && (v.atEvent.block? 0 0).isSome && (v.atEvent.drainCst o 0x100000 4 4).isSome) = true := by decide
theorem witness_EngineEvents_apply :
    let s : State := { wEop (some .cp) .results id with launches := w0.launches.map fun x => { x with done := 1 } }
    ∃ l, s.atEvent.launch? 0 = some l ∧ l.done = l.blocksTotal ∧ l.final = none ∧ l.state = 2 := ⟨_, rfl, by decide, by decide, by decide⟩
/-- EngineEvents: operations that count on a barrier without REGROUPs, on one of theirs, and on none; what an engine may do in sg1 and memory. -/
theorem witness_EngineEvents_bars :
    let r := BarRef.block 0 0 0
    let s := wEop (some .cp) (.copy (copy1 .into)) fun o => { o with started := true, bar := some r, bytes := 16 }
    let o := wEng.newOp (some .cp) (.copy (copy1 .into))
    plainBar s.atEvent { o with bar := some r } ∧ plainBar s.atEvent o ∧ (s.atEvent.bar? r).isSome = true := by
  refine ⟨.inr ⟨rfl, fun r y h hy => ?_⟩, .inl rfl, by decide⟩
  obtain rfl : _ = r := Option.some.inj h
  have : y = Barrier.none ∨ y.regroups = [] := .inr (by
    have e := hy
    revert e
    generalize hz : State.bar? _ _ = z
    intro e
    subst e
    exact (Option.some.inj (hz.symm.trans rfl)).symm ▸ rfl)
  rcases this with rfl | h
  · rfl
  · exact h
theorem witness_EngineEvents_places :
    let s := wEop (some .cp) (.copy (copy1 .into)) fun o => { o with started := true, parts := [0] }
    let e := wEop (some .cp) (.copy (copy1 .out)) fun o => { o with started := true, parts := [0] }
    (s.atEvent.op? 1).any (fun o => s.atEvent.engineMay o false (s.atEvent.partLocs o (copy1 .into) 0x10000) &&
      s.atEvent.engineMay o true (scratchPlaces 0 0 (4 * 1024) 4)) = true ∧
    (e.atEvent.op? 1).any (fun o => e.atEvent.engineMay o true (e.atEvent.partLocs o (copy1 .out) 0x10000) && e.atEvent.engineMay o true []) = true ∧
    s.atEvent.walkMissing 0 none 1 [0x100000] = none := by decide
/-- EngineEvents: drains into sg1, memory and the determinism buffer, ready to write. -/
theorem witness_EngineEvents_drains :
    let s (scratch : Bool) (base : Nat) (buffered : Bool) := wEop (some .cp) (.drain true 1 0x828A scratch base 256 256 buffered) fun o => { o with started := true }
    ((s true 0 false).atEvent.op? 1).any (fun o => (s true 0 false).atEvent.engineMay o true
      ((drainPieces 0 256 256).flatMap fun p => (s true 0 false).atEvent.drainPlaces o true p.1 p.2.2)) = true ∧
    ((s false 0x100000 false).atEvent.op? 1).any (fun o => (s false 0x100000 false).atEvent.engineMay o true
      ((drainPieces 0x100000 256 16).flatMap fun p => (s false 0x100000 false).atEvent.drainPlaces o false p.1 p.2.2)) = true ∧
    (s false 0x100000 false).atEvent.walkMissing 0 none 1 ((drainPieces 0x100000 256 256).map Prod.fst) = none := by decide
theorem witness_EngineEvents_amst :
    let s := wEop (some .mx) (.mat (.amst 16) 1 0x828A) fun o => { o with started := true, buf := [{ i := 0, bytes := List.replicate 16384 0, fate := .ok }] }
    (s.atEvent.op? 1).any (fun o => o.started && o.spoilt.isEmpty && s.atEvent.engineMay o true (scratchPlaces 0 0 (1024 * 16) 64)) = true := by decide

/-- A cache record: table 5, one head of 64 elements, four blocks of 4 KiB at 0x200000. -/
def cache1 : BitVec 512 := 0x200000 + (12 <<< 52) + (5 <<< 64) + (4 <<< 96) + (0x160000 <<< 128) + (0x170000 <<< 192)
/-- Logical block 0 of sequence 0 in slot 2. -/
def tKv : Table := { t5 with rows := [(0, 2)], leaves := [{ keys := [(0, 2)] }] }
/-- w0 with a cache record at the start of sg0 and the table `t`. -/
def wKv (t : Table) : State := { w0 with mem := writeBytes w0.mem 0x100000 (leBytes 64 cache1.toNat), tables := [t] }
theorem witness_ReedInstructions_record : cacheRecord (wKv tKv) 0 cache1 tKv := ⟨_, rfl, by decide, by decide, by decide, by decide⟩
theorem witness_ReedInstructions :
    let s := wKv tKv
    let k := Cache.of cache1
    s.issues ∧ s.active 0 ≠ 0 ∧ s.grp.tx = none ∧ (30#5).toNat + 2 * k.nk ≤ 32 ∧ k.nh < 1 ∧ (0#64).toNat ≤ k.nh ∧ s.grp.st < 31 ∧
    s.kvWaits tKv = false ∧ ({ s with grp := { s.grp with st := 31 } } : State).kvWaits tKv = true ∧ s.indexLeased 0 tKv = true ∧ tKv.find (blockKey 0 0) = some 2 ∧ t5.find (blockKey 0 0) = none ∧
    (wKv t5).word? t5.hdie k.free = some 0 ∧ k.dh ≠ 128 ∧ k.rs = 272 ∧
    6016 % 16 = 0 ∧ 6016 + 8 * 272 ≤ s.grp.limit 1 ∧ s.grp.limit 1 < 6032 + 8 * 272 ∧ s.namedBar 0 31 = none ∧ s.namedBar 0 0 ≠ none ∧
    s.inj[s.grp.place.part.cu.die.toFin].en = false := by decide
theorem witness_ReedInstructions_block :
    ∃ blk v accs, (wKv tKv).kvBlock (Cache.of cache1) tKv (blockKey 0 0) (wKv tKv).frag.em = .ok (blk, v) ∧
      (wKv tKv).tokenAccs ((wKv tKv).tokenBytes (Cache.of cache1) blk 0 15 3 8) = .ok accs := ⟨_, _, _, rfl, rfl⟩
theorem witness_ReedInstructions_drop :
    let s := wKv tKv
    (match s.kvRow tKv 2 tKv.rowBytes 0 1 with | .ok ps => (s.dropKey (Cache.of cache1) tKv 2 0 ps).isSome | .error _ => false) = true ∧
    (match s.kvRow tKv 2 4 0 1 with | .ok _ => true | .error _ => false) = true := by decide
theorem witness_ReedInstructions_load : (match (wKv tKv).loadBlocks (Cache.of cache1) 0 0 2 with | .ok _ => true | .error _ => false) = true := by decide
theorem witness_ReedInstructions_room : roomFor (wKv tKv) .cp .reed none := ⟨by decide, fun _ => by decide, fun h => absurd rfl h⟩
theorem witness_ReedInstructions_walked :
    (wKv tKv).kvMissing (Cache.of cache1) tKv (blockKey 0 0) = none ∧ (match (wKv tKv).kvRow tKv 2 4 (blockKey 0 0) 1 with
      | .ok ps => (match (wKv tKv).kvBlock (Cache.of cache1) tKv (blockKey 0 0) 1 with
        | .ok (b, _) => b == leNat ((wKv tKv).readLocs ps) | .error _ => false)
      | .error _ => false) = true := by decide
theorem witness_ReedInstructions_get :
    let locs : List Loc := (List.range 272).map fun j => Loc.scr 0 0 (7920 + j)
    7920 % 16 = 0 ∧ 7920 + 272 ≤ w0.grp.limit 1 ∧ w0.grp.limit 1 < 8192 + 16 ∧ w0.busyLocs locs = false ∧ (∀ p ∈ locs, w0.poisoned p = false) ∧
    w0.grp.ld < 31 ∧ w0.grp.room ((List.range 6).map fun k => 26 + BitVec.ofNat 5 k) = .ok := by decide

/-- AttentionMerge: six names, one of them also a source; triples with a NaN, empty, and one of each. -/
theorem witness_AttentionMerge :
    w0.writesV 0 [] ((List.range 6).map fun k => 26 + BitVec.ofNat 5 k) ∧ w0.grp.tx = none ∧
    isNan32 0x7FC00000 = true ∧ isNan32 0xFF800000 = false ∧ isNan32 0 = false ∧ emptyTriple [0xFF800000, 0, 0, 0, 0, 0] = true ∧
    finite32 0x7F7FFFFF = true := by decide

/-- A query of one block in flight. -/
def query1 : Query := { crec := cache1, seq := 0, n := 16, h := 0, sigma := 0, q := [Lanes.splat 0], dest := 0, l := 0, blk := 0, die := 0 }
/-- w0 with that query alone in flight. -/
def wQuery (f : Op → Op) : State :=
  { wKv tKv with grp := { w0.grp with cp := 1 }, ops := [f (w0.newOp (some .cp) (.query query1))], nextId := w0.nextId + 1, ready := 0xFFFFFFF }
theorem witness_QueryEvents_resolve :
    let s := wQuery id
    (s.atEvent.op? 1).any (fun o => o.kind == .query query1 && s.atEvent.mayPerform o && (opsBefore s.atEvent.ops 1).isEmpty &&
      decide (o.resolved.length < query1.blocks) && (match s.atEvent.resolveOne o query1 o.resolved.length with | .ok (_, some _) => true | _ => false)) = true := by decide
theorem witness_QueryEvents_stack :
    let s := wQuery fun o => { o with started := true, resolved := [{ lb := 0, block := some (0, 0x200000), prot := false }] }
    ∃ o, s.atEvent.op? 1 = some o ∧ o.started = true ∧ s.atEvent.mayPerform o = true ∧ query1.blocks ≤ o.resolved.length ∧ 7 < 8 ∧ 7 ∉ o.records ∧ opsBefore s.atEvent.ops 1 = [] :=
  ⟨_, rfl, by decide, by decide, by decide, by decide, by decide, by decide⟩
theorem witness_QueryEvents_complete :
    let s := wQuery fun o => { o with started := true, records := List.range 8 }
    ∃ o x, s.atEvent.op? 1 = some o ∧ (∀ n, n < 8 → n ∈ o.records) ∧ o.ctr = some .cp ∧ o.bar = none ∧ o.spoilt = [] ∧ s.atEvent.sourceLost o = false ∧ s.memWf ∧
      s.atEvent.block? o.gid.l query1.blk = some x := ⟨_, _, rfl, by decide, by decide, by decide, by decide, by decide, by decide, rfl⟩
theorem witness_QueryEvents_places :
    let s := wQuery fun o => { o with started := true, records := List.range 8, buf := [{ i := 0, bytes := List.replicate 272 0, fate := .ok }],
                                      resolved := [{ lb := 0, block := some (0, 0x200000), prot := false }] }
    (s.atEvent.op? 1).any (fun o => o.resolved.all (fun r => decide (r.lb < query1.blocks)) &&
      s.atEvent.engineMay o true (scratchPlaces 0 0 query1.dest 272)) = true := by decide

/-- A finished graph counter, and one that has not begun. -/
def counter (st n : Nat) : Counter := { lvl := .graph, id := 1, job := 1, expected := 3, state := st, cause := 0, done := n }
/-- WorkInstructions: counters terminal, short of the count and at it; idle and with an access outstanding; a record in reach. -/
theorem witness_WorkInstructions :
    let s (c : Counter) : State := { w0 with counters := [c], grp := { w0.grp with s := (w0.grp.s.set 1 1).set 2 2 } }
    let word (c : Counter) := (s c).readCounter .graph 1 (((s c).readS 1).setWidth 32)
    wTx.issues ∧ wTx.grp.tx.isSome ∧ w0.grp.tx = none ∧ w0.grp.settledS 31 ∧ terminal (wordState (word (counter 3 3))) = true ∧
    terminal (wordState (word (counter 2 1))) = false ∧ wordDone (word (counter 2 1)) < ((s (counter 2 1)).readS 2).toNat % 2 ^ 48 ∧
    ((s (counter 2 2)).readS 2).toNat % 2 ^ 48 ≤ wordDone (word (counter 2 2)) ∧ w0.quiet = true ∧
    (wOp (some .st) (.store [acc0] none) id).quiet = false := by decide
theorem witness_WorkInstructions_record : (∃ accs, w0.checkRecord (w0.readS 0) 256 = .ok accs) ∧ segOf 0xE000000000000000 = 7 := ⟨⟨_, rfl⟩, by decide⟩

/-- Operands of a transfer of 16 bytes to device 0 without a signal (scalars 8 and 9), and with a misaligned signal (10). -/
def wLink : State := wg fun g => { g with s := ((g.s.set 8 0x1000000).set 9 0x3FFFFF).set 11 4 }
/-- LinkInstructions: operands legal and not, a fold and none; barriers none, configured and not; idle and not. -/
theorem witness_LinkInstructions :
    let y := wLink.readS 8
    wLink.issues ∧ (wf fun f => { f with em := 0 }).active 0 = 0 ∧ wLink.active 0 ≠ 0 ∧ (wLink.readS 1).toNat < 2 ^ 52 ∧
    y.toNat / 2 ^ 22 % 4 = 0 ∧ y.toNat < 2 ^ 48 ∧ y.getLsbD 21 = false ∧ (wLink.readS 9).getLsbD 21 = true ∧ (wLink.readS 10).toNat % 8 = 0 ∧
    (wLink.readS 11).toNat % 8 ≠ 0 ∧ (0x100#64).setWidth 3 = (0#3) ∧ (0x100#64).extractLsb' 8 24 ≠ 0#24 ∧ 4 < (5#3).toNat ∧
    wTx.grp.tx.isSome ∧ wLink.grp.tx = none ∧ wLink.quiet = true ∧ wLink.linksBusy = false ∧
    (wOp (some .st) (.store [acc0] none) id).quiet = false ∧ 2 ^ 21 ≤ (0x200000#64).toNat ∧ (0x1FFFFF#64).toNat < 2 ^ 21 ∧
    (alignCheck 4 [{ lane := 0, off := 2 }]).isSome = true ∧ alignCheck 4 [{ lane := 0, off := 4 }] = none ∧ wLink.grp.ld < 31 ∧
    wLink.grp.room [30, 30 + 1] = .ok ∧ wLink.queueFull wLink.grp.place.part.cu .link = false := by decide
theorem witness_LinkInstructions_buffer :
    (∃ b, wLink.localBuf 0xFFF0 [0, 1, 4] 16 = .ok b) ∧ (∃ b, wLink.localBuf 0 [0, 1] (aredBytes 0 1) = .ok b) ∧
    segCheck wLink.grp 0 false [0, 4] 4 [{ lane := 0, off := 0xFFFC }] = none ∧ wLink.linkBar 31 = .ok none ∧
    (∃ r, wLink.linkBar 0 = .ok (some r)) ∧ (∃ e, wLink.linkBar 30 = .error e) := ⟨⟨_, rfl⟩, ⟨_, rfl⟩, by decide, rfl, ⟨_, rfl⟩, ⟨_, rfl⟩⟩
theorem witness_LinkInstructions_room : roomFor wLink .cp .link none := ⟨by decide, fun _ => by decide, fun h => absurd rfl h⟩

/-- A launch record of job 1: one block of one group at 0x10000. -/
def placedRec : List Byte :=
  leBytes 8 0x10000 ++ leBytes 4 1 ++ leBytes 4 1 ++ leBytes 4 1 ++ [1, 0, 64, 0] ++ List.replicate 8 0 ++ leBytes 4 1 ++
    List.replicate 0x78 0 ++ leBytes 4 1 ++ List.replicate 96 0
/-- w0 with its launch queued at queue 0, its lease list (one range of 4 KiB) at 0x180000, an empty segment table after it. -/
def queued : Launch :=
  { smallLaunch 0 with state := 1, ready := false, pins := false, next := 0, leases := [], lrec := { smallRec with leasel := 0x180000, segt := 0x180100 } }
/-- Queue `q` holds launch `l` at level `n`. -/
def atQueue (s : State) (q : Fin 256) (n : BitVec 6) (l : Nat) (pq : Bool) : State :=
  { s with queues := s.queues.set q { s.queues[q] with level := n, job := 1, order := [l], places := [l], pq := pq } }
/-- That launch alone, nothing dispatched. -/
def wQueued : State :=
  { atQueue (State.small State.reset) 0 0 0 false with
    live := false, blocks := [], launches := [queued], ready := 0x7FFFFFFFFFFFFFFF,
    mem := writeBytes (smallMem []) 0x180000 (leBytes 8 0x100000 ++ leBytes 8 0x1000) }
/-- LaunchEvents: a record that is accepted, and one that is refused because its queue belongs to no job. -/
theorem witness_LaunchEvents_place :
    let r := LaunchRec.ofBytes placedRec
    ({ wQueued with launches := [] } : State).atEvent.placeStatus none 0 r = 0 ∧
    wQueued.atEvent.placementAllowed r.jobId = true ∧ wQueued.atEvent.placeStatus none 255 r = 3 ∧ Level.graph ≠ Level.launch := by decide
theorem witness_LaunchEvents_setup :
    let s := wQueued
    let list : List Lease := [{ lo := 0x100000, len := 0x1000, host := false }]
    let w := s.atEvent.updLaunch 0 fun x => { x with leases := list }
    let j := smallJob
    s.atEvent.launch? 0 = some queued ∧ queued.state = 1 ∧ queued.ready = false ∧ queued.final = none ∧ (s.queue 0).order.head? = some 0 ∧
    s.asleep = false ∧ s.placementAllowed 1 = true ∧ s.modeSplit.getLsbD taskLease = true ∧ s.request? taskLease [0] = none ∧
    s.atEvent.job? 1 = some j ∧ s.atEvent.sysWaits 1 0x180000 16 = false ∧ s.atEvent.sysWaits 1 0x180100 128 = false ∧
    (w.sysBytes j.id 0x180000 16).bind (fun bs => leaseList bs 1) = some [{ lo := 0x100000, len := 0x1000, host := false }] ∧
    hostPages list = [] ∧ s.atEvent.residency j.id 0x100000 = .ok ∧ j.tdir = 0 ∧ w.sysWaits 1 0x3FFFFFFF 1 = false ∧
    ({ w with ready := 0 } : State).sysWaits 1 0x3FFFFFFF 1 = true ∧ (w.bindTables j 0).runBases queued.lrec 0 = some [] ∧
    ((w.sysBytes j.id 0x180100 128).bind (segTable queued.lrec)).any (fun g => (g.getD 5 { base := 0, limit := 0 }).limit == 0) = true ∧
    queued.lrec.det = false := by decide
/-- Queue records of two queues of 16 slots each, side by side, and overlapping; a segment table with nine queues. -/
theorem witness_LaunchEvents_queues :
    let r : LaunchRec := { smallRec with scratch := 32768, clb := 1 }
    let e (at_ n : Nat) : List Byte := leBytes 8 (at_ + n * 2 ^ 9)
    (queueRecord r (e 0 16 ++ e 16 16 ++ List.replicate 48 0) 2).isSome = true ∧
    queueRecord r (e 0 16 ++ e 15 16 ++ List.replicate 48 0) 2 = none ∧
    segTable r (List.replicate 88 0 ++ leBytes 8 9 ++ List.replicate 32 0) = none ∧
    (segTable r (List.replicate 88 0 ++ leBytes 8 8 ++ List.replicate 32 0)).isSome = true := by decide
theorem witness_LaunchEvents_badList :
    let s : State := { wQueued with mem := smallMem [] }
    s.atEvent.job? 1 = some smallJob ∧
    (s.atEvent.sysBytes 1 0x180000 16).bind (fun bs => leaseList bs 1) = none := by decide
/-- A launch whose one block has completed, and one that has stopped. -/
def done1 : Launch := { smallLaunch 0 with done := 1 }
theorem witness_LaunchEvents_end :
    let s : State := { w0 with launches := [done1] }
    let c : State := { w0 with launches := [{ done1 with final := some (4, 0) }] }
    s.atEvent.launch? 0 = some done1 ∧ done1.state = 2 ∧ done1.final = none ∧ done1.done = done1.blocksTotal ∧
    ({ s with blocks := [] } : State).blocks = [] ∧ s.launchBusy 0 = false ∧ c.stopBusy 0 = false ∧
    (wOp (some .cp) (.send { scr := true, base := 0, len := 0 } 0 0 0 none) id).stopBusy 0 = true ∧ (c.atEvent.launch? 0).map Launch.final = some (some (4, 0)) ∧ 3 ≤ 4 ∧
    c.jobClearing 1 = false := by decide
/-- A block whose group has ended, before and after its registers returned. -/
def wEnded (ret : Mask) : State :=
  { w0 with
    live := false, groups := [{ w0.grp with ended := true, frags := [] }],
    blocks := w0.blocks.map fun b => { b with endedGroups := 1, returned := ret } }
theorem witness_LaunchEvents_block :
    (wEnded 0).atEvent.groups.find? (·.id == { l := 0, blk := 0, g := 0 }) = some { w0.grp with ended := true, frags := [] } ∧
    w0.grp.ld + w0.grp.st + w0.grp.cp + w0.grp.mx = 0 ∧
    ((wEnded 1).block? 0 0).any (fun b => !b.complete && !b.saved && !b.stopped && b.endedGroups &&& groupBits b.ngrp == groupBits b.ngrp &&
      b.returned &&& groupBits b.ngrp == groupBits b.ngrp) = true ∧ (wEnded 1).ops = [] := by decide

theorem witness_SchedulerEvents_table :
    let desc := TDesc.ofWord 0x280005
    let s (k : OpKind) : State := { wOp (some .ld) k id with tables := [t5] }
    ((s (.point .find 3 desc [lane5 7])).atEvent.op? 1).any (fun o => (s (.point .find 3 desc [lane5 7])).atEvent.mayPerform o && !o.performed &&
      ((s (.point .find 3 desc [lane5 7])).atEvent.pointLanes false o.gid o.job .find desc [lane5 7]).2.all fun r => match r.reach with | .ok _ => true | _ => false) = true ∧
    ((s (.tstat .rows 3 5)).atEvent.op? 1).any (fun o => (s (.tstat .rows 3 5)).atEvent.mayPerform o && !o.performed &&
      (s (.tstat .rows 3 5)).atEvent.tableOf o.job 5 o.gid.l == some t5) = true ∧
    ((s (.tnext 1 1 8 desc [])).atEvent.op? 1).any (fun o => (s (.tnext 1 1 8 desc [])).atEvent.mayPerform o && !o.performed &&
      match (s (.tnext 1 1 8 desc [])).atEvent.scanLanes o.gid o.job 1 1 desc [] with | .ok _ => true | .error _ => false) = true := by decide
/-- A table of two leaves of one key each under one root: they may merge. -/
def tTwo : Table := { t5 with rows := [(1, 0), (7, 2)], leaves := [{ keys := [(1, 0)] }, { keys := [(7, 2)] }], inner := [[2]] }
theorem witness_SchedulerEvents_rebalance :
    let s : State := { w0 with tables := [tTwo] }
    s.tables.find? (fun t => t.job == 1 && t.num == 5) = some tTwo ∧ tTwo.rbhw = true ∧ s.modeSplit.getLsbD taskRebal = true ∧
    tTwo.rebalance (.leaf 1) ≠ tTwo ∧
    ({ s with modeSplit := 0 } : State).modeSplit.getLsbD taskRebal = false ∧
    s.request? taskRebal (5 :: RebalanceStep.args (.leaf 1)) = none := by decide
/-- The launch of wQueued set up. -/
def wReady : State := { wQueued with launches := [{ queued with ready := true, pins := true, seg := smallSegs, leases := (smallLaunch 0).leases }] }
theorem witness_SchedulerEvents_dispatch :
    wReady.atEvent.hostPicks = false ∧ wReady.atEvent.selected.map Prod.fst = some 0 ∧ wReady.placementAllowed 1 = true ∧
    wReady.atEvent.selected.any (fun x => x.2.ready && x.2.final.isNone && (wReady.atEvent.fitNext x.2).isSome) = true ∧ wReady.savedBlocks 0 = [] ∧
    wReady.atEvent.selected.all (fun x => (followed x.2.lrec.jobId x.2.lrec.launchId wReady.follow).isNone) = true := by decide
/-- A followed log whose digest of page 0 differs, for one of two digests. -/
theorem witness_SchedulerEvents_refused (d : BitVec 256) :
    let s (x : BitVec 256) : State := { wReady with follow := [.dispatch 1 queued.lrec.launchId [(0, x)]] }
    followed 1 queued.lrec.launchId (s d).follow = some [(0, d)] ∧
      ((s d).atEvent.digestDiffers [(0, d)] = true ∨ (s (d ^^^ 1)).atEvent.digestDiffers [(0, d ^^^ 1)] = true) := by
  refine ⟨rfl, ?_⟩
  by_cases h : (State.atEvent { wReady with follow := [.dispatch 1 queued.lrec.launchId [(0, d)]] }).digestOf 0 = d
  · right
    simp only [State.digestDiffers, List.any_cons, List.any_nil, Bool.or_false, bne_iff_ne, ne_eq]
    intro h2
    have : d = d ^^^ 1 := h.symm.trans h2
    have h3 : d ^^^ d = d ^^^ (d ^^^ 1) := congrArg (d ^^^ ·) this
    rw [← BitVec.xor_assoc, BitVec.xor_self, BitVec.zero_xor] at h3
    exact absurd h3 (by decide)
  · left
    simpa [State.digestDiffers, bne_iff_ne] using h
/-- A pre-emptive queue of level 1 whose launch 7 asks for more than the device has left beside launch 0 of level 0. -/
def wPreempt : State :=
  { atQueue w0 1 1 7 true with
    launches := w0.launches ++ [{ smallLaunch 7 with state := 1, queue := 1, next := 0, lrec := { smallRec with regs := 2048 } }] }
theorem witness_SchedulerEvents_preemption :
    let s := wPreempt
    (s.atEvent.selected.map fun x => (x.1, x.2.uid)) = some (1, 7) ∧ ((s.queue 1).order.head?.bind s.launch?).map Launch.ready = some true ∧ (s.queue 1).pq = true ∧
    s.savedBlocks 7 = [] ∧ ((s.queue 1).order.head?.bind s.launch?).any (fun x => (s.atEvent.fitNext x).isNone) = true ∧
    (∀ b ∈ s.blocks, b.stopping = false ∧ b.cu.isSome = true ∧ b.complete = false) ∧ (s.launch? 0).map Launch.final = some none ∧
    (s.queue 0).level.toNat < (s.queue 1).level.toNat ∧ (s.launch? 0).any (fun y => (s.unitOf y 0).all fun c => !s.atEvent.blockHeld c) = true := by decide
/-- w0's block stopping, and saved. -/
def wStop (saved : Bool) : State :=
  { atQueue w0 0 0 0 false with
    live := false, ready := 0x7FFFFFFFFFFFFFFF, groups := [{ w0.grp with frags := [w0.frag] }],
    blocks := w0.blocks.map fun b => { b with stopping := !saved, saved := saved, cu := if saved then none else b.cu } }
theorem witness_SchedulerEvents_save :
    ((wStop false).block? 0 0).any (fun b => b.stopping && !b.stopped && !b.saved && !b.complete) = true ∧
    ((wStop false).launch? 0).map Launch.queue = some 0 ∧ (wStop false).ops = [] ∧ (wStop false).launches.map Launch.queue = [0] := by decide
/-- A context area whose parts have no place reads as what was meant for it. -/
theorem areaRead_unplaced (s : State) (job : BitVec 32) (h : ∀ va, s.areaPart job va = none)
    (hl : ∀ va, s.areaLocked job va = false) (n va : Nat) (bs : List Byte) :
    s.areaRead job n va bs = bs.take (16 * n) := by
  induction n generalizing va bs with
  | zero => rfl
  | succ n ih => simp only [State.areaRead, h, hl]; simp only [Bool.false_eq_true, if_false]; rw [ih, Nat.mul_succ, Nat.add_comm, List.take_add]
/-- A save area is whole parts long. -/
theorem saveBytes_length (b : Block) (r : LaunchRec) (gs : List Group) (defs : GroupId → List Nat) :
    16 * ((b.saveBytes r gs defs).length / 16) = (b.saveBytes r gs defs).length := by
  simp only [Block.saveBytes, exactly, List.length_take, List.length_append, List.length_replicate]; omega
/-- wStop with its job gone, its context area with it. -/
def wGone : State := { wStop true with jobs := [] }
theorem witness_SchedulerEvents_restore :
    let s := wGone
    ∃ x b, s.launch? 0 = some x ∧ s.atEvent.selected = some (0, x) ∧ x.lrec.clb = 0 ∧ x.lrec.usesLaunchBar = false ∧
      s.unitOf x 0 = [b] ∧ b.saved = true ∧ ((s.savedBlocks 0).map Block.idx).min? = some 0 ∧
      (∃ p, s.atEvent.fitSaved x = some [(b, p)]) ∧
      (let bs := s.atEvent.saveBytesOf x b
       s.atEvent.areaRead x.lrec.jobId (bs.length / 16) (x.lrec.saveAt b.area) bs = bs) := by
  refine ⟨_, _, rfl, rfl, by decide, by decide, rfl, rfl, by decide, ⟨_, rfl⟩, ?_⟩
  dsimp only
  rw [areaRead_unplaced _ _ (fun va => rfl) (fun va => rfl), State.saveBytesOf, saveBytes_length, List.take_length]
/-- wSplit with no group in focus and its second fragment written back under 65. -/
def wWritten : State :=
  { w0 with
    live := false, groups := [{ wSplit.grp with frags := [wSplit.frag, { wSplit.frag with entry := 65, written := true }] }] }
theorem witness_SchedulerEvents_reload :
    let s := wWritten
    (s.atEvent.groups.find? (·.id == { l := 0, blk := 0, g := 0 })).any (fun g => g.frags.head?.isSome &&
      g.frags.any fun x => x.entry == 65 && x.written) = true ∧ (s.block? 0 0).any (fun b => b.cu.isSome) = true ∧ 64 < 65 ∧
    ((s.atEvent.focusOn { l := 0, blk := 0, g := 0 } 1).makeRoom 1 64).tableFree.head?.isSome = true := by decide
/-- The one group of a block waits after its arrival at a barrier that expects two. -/
def wHang : State :=
  let w : Wait := { regroup := false, code := 0, gen := 0, addr := 0x10004, next := 0x10008, d := 0, a := 0, b := 0 }
  { w0 with live := false, groups := [{ w0.grp with frags := [w0.frag], wait := some w }] }
theorem witness_SchedulerEvents_hang :
    let a := wHang.atEvent
    let bar := BarRef.block 0 0 0
    (∀ h ∈ a.groups, BarRef.covers bar h = true → h.ended = false → a.haltedGroup h.id = false ∧ (a.block? h.id.l h.id.blk).any Block.runs = true ∧
      ∀ x ∈ h.frags, a.wtCode h x ≠ some (BarRef.code bar)) ∧
    (a.groups.filter (fun h => BarRef.covers bar h && !h.ended && h.waitsOn bar)).length = 1 ∧
    (∀ g ∈ a.groups, a.groups.find? (·.id == g.id) = some g ∧ g.frags = [w0.frag] ∧ g.wait.isSome = true ∧ g.tmode = false ∧
      (a.focusOn g.id w0.frag.entry).checkVector = .ok ∧ w0.frag.written = false ∧ g.splits = []) := by decide

/-- A buffer of one part at the start of sg0. -/
def buf1 : LocalBuf := { scr := false, base := 0x100000, len := 16 }
/-- A cp operation of w0's group, alone in flight. -/
def wCp (k : OpKind) (f : Op → Op) : State := wOp (some .cp) k f
/-- Whether pumping the links leaves the one operation as it is. -/
def pumped (s : State) : Bool := s.atEvent.pumpLinks.op? 1 == s.atEvent.op? 1
theorem witness_LinkEvents_send :
    let far := wCp (.send buf1 0x110000 16 16 none) fun o => { o with started := true, parts := [0] }
    let own := wCp (.send buf1 0x110000 0 16 none) id
    (far.atEvent.pumpLinks.op? 1).any (fun o => o.started && o.partsDone far.atEvent.pumpLinks.devId && o.bar == none && o.ctr == some .cp) = true ∧
    (own.atEvent.pumpLinks.op? 1).any (fun o => own.atEvent.pumpLinks.devId == 0 &&
      (own.atEvent.pumpLinks.ownParts o true buf1 0x110000 buf1.parts).isSome && o.started &&
      own.atEvent.pumpLinks.engineMay o false (own.atEvent.pumpLinks.bufLocs o buf1 buf1.parts) && o.unread buf1 == [0]) = true := by decide
theorem witness_LinkEvents_recv :
    let s := wCp (.recv buf1 0x110000 16 16 none) fun o => { o with started := true, buf := [{ i := 0, bytes := List.replicate 16 1, fate := .ok }] }
    (s.atEvent.pumpLinks.op? 1).any (fun o => o.started && o.partsDone s.atEvent.pumpLinks.devId) = true := by decide
/-- An ARED of one element in a list of this device alone, its contribution here. -/
def ared1 (list : Option (List (BitVec 32))) : OpKind := .ared buf1 0x100000 0x110000 list 0 1 9 0
def contribution1 : Contribution := { src := 0, job := 1, coll := 9, k := 0, op := 0, count := 1, list := [0], data := [1, 0, 0, 0] }
theorem witness_LinkEvents_ared :
    let s (b : Bool) : State := { wCp (ared1 (some [0])) (fun o => { o with performed := b, started := true }) with contributions := [contribution1] }
    ((s true).atEvent.pumpLinks.op? 1).any Op.performed = true ∧
    ((s false).atEvent.pumpLinks.op? 1).any (fun o => !o.performed && (s false).atEvent.pumpLinks.instanceOf o.job 9 0 [0] == some [contribution1] &&
      o.partsDone (s false).atEvent.pumpLinks.devId && !o.clobbered) = true ∧ agreed [contribution1] = true ∧
    agreed [contribution1, { contribution1 with count := 2 }] = false ∧
    ((wCp (ared1 none) id).atEvent.op? 1).isSome = true ∧ ((some [0]).bind ((wCp (ared1 (some [0])) id).atEvent.instanceOf 1 9 0)) = none := by decide
theorem witness_LinkEvents_aredWrite :
    let s : State := { wCp (ared1 (some [0])) id with contributions := [contribution1] }
    (s.atEvent.pumpLinks.op? 1).any (fun o => (s.atEvent.pumpLinks.writeBuf o buf1
      (wordBytes (foldRanks 0 ([contribution1].map fun c => wordsOf c.data (c.data.length / 4)))) buf1.parts).isSome) = true := by decide
theorem witness_LinkEvents_may :
    let s : State := { wCp (ared1 (some [0])) (fun o => { o with started := true }) with contributions := [contribution1] }
    let w := s.atEvent.pumpLinks
    (w.op? 1).any (fun o => w.engineMay o true (w.bufLocs o buf1 buf1.parts)) = true ∧ w.walkMissing 0 none 1 (buf1.vas buf1.parts) = none := by decide
theorem witness_LinkEvents_route :
    let s := wCp (.send buf1 0x110000 16 16 none) id
    (s.atEvent.op? 1).any (fun o => (s.atEvent.route o.gid 16).isNone) = true ∧ (16 : BitVec 21) ≠ s.devId := by decide
theorem witness_LinkEvents_ratom :
    let s (dev : BitVec 21) := wOp (some .ld) (.ratom .add false 3 dev [atom0]) id
    ((s 0).atEvent.pumpLinks.op? 1).any (fun o => !o.performed && o.started && (s 0).atEvent.pumpLinks.devId == 0 && o.buf.isEmpty &&
      (s 0).atEvent.pumpLinks.replayAllows ((s 0).atEvent.pumpLinks.ownRecords o false [atom0])) = true ∧
    ([atom0].map AtomLane.lane).Nodup ∧ [atom0].filter (fun x => [0].contains x.lane) = [atom0] ∧
    ((s 16).atEvent.op? 1).any (fun o => !o.performed && o.buf.all fun x => x.i != 0) = true ∧ (16 : BitVec 21) ≠ (s 16).devId ∧
    ∃ x ∈ [atom0], x.lane = 0 := by decide
/-- A flit that arrives on port 0. -/
def flitIn : FlitIn := { port := 0, seq := 0, key := false, authentic := true }
theorem witness_LinkEvents_readData :
    let s := wCp (.recv buf1 0x110000 16 16 none) fun o => { o with started := true }
    (s.atEvent.op? 1).any (fun o => o.started && buf1.parts.contains 0 && o.buf.isEmpty &&
      ((s.atEvent.ackFlit flitIn).writeLocal o buf1 { i := 0, bytes := List.replicate 16 1, fate := .ok }).isSome) = true ∧
    s.atEvent.walkMissing 0 none 1 (buf1.vas [0]) = none := by decide
/-- A request of device 16 to the last aligned part of the leased GiB, and one past it. -/
def request (seq : Nat) (va : VA) : ReqHeader := { flit := flitIn, src := 16, stream := 0, seq := seq, va := va, job := 1 }
theorem witness_LinkEvents_requests :
    let s : State := { w0 with rxStreams := [{ src := 16, stream := 0, expect := 1 }] }
    let due := ((s.rxStreams.find? fun r => r.src == 16 && r.stream == 0).map RxStream.expect).getD 0
    (request 0 0).seq < due ∧ due < (request 2 0).seq ∧ (request 1 0x3FFFFFFF).seq = due ∧ s.memWf ∧ [7#8] ≠ [] ∧ 0x3FFFFFFF % 16 + 1 ≤ 16 ∧
    s.remoteLocs 1 0x40000000 1 = none ∧ (s.remoteLocs 1 0x3FFFFFFF 1).isSome = true ∧ s.remoteLocs 1 0x40000000 16 = none ∧
    (s.remoteLocs 1 (0x3FFFFFFF / 16 * 16) 16).isSome = true ∧ 0x3FFFFFF8 % 8 = 0 ∧ 0x3FFFFFFC % 8 ≠ 0 ∧ (s.remoteLocs 1 0x3FFFFFF8 8).isSome = true := by decide
/-- A flit of a port: unacknowledged, in flight, and one answered busy. -/
def flit1 : Flit := { seq := 4, op := some 1, part := 0, sseq := 0, type := 1, dev := 16, va := 0, data := [], key := false, bytes := [] }
def wPort (n : Nat) : State :=
  { w0 with
    ready := 0x100, ports := State.reset.ports.set 0 { State.reset.ports[0] with en := true, st := 2, unacked := [flit1], inFlight := [flit1], busy := [{ flit1 with part := 1 }], replays := n } }
theorem witness_LinkEvents_ports :
    (∃ f ∈ (wPort 0).ports[0].unacked, f.seq = 4) ∧ (wPort 0).ports[0].busy.find? (fun f => f.op == some 1 && f.part == 1) = some { flit1 with part := 1 } ∧
    (wPort 0).portRoom 0 = true ∧ (wPort 0).portUp 0 = true ∧ (wPort 0).ports[0].en = true ∧ (wPort 0).ports[0].tier.toNat < 3 ∧
    (wPort 0).ports[0].unacked ≠ [] ∧ 8 ≤ (wPort 8).ports[0].replays ∧ (wPort 7).ports[0].replays < 8 ∧
    (∀ x ∈ w0.contributions, ¬ (x.src = 16 ∧ x.job = 1 ∧ x.coll = 9 ∧ x.k = 0)) ∧ (w0.bridle.toList[5]?).isSome = true := by decide

/-- An inward stream of port 0, and what it makes of flits. -/
def inStream (bad : Bool) : Stream := { ref := .tether 0 false, set0 := some 3, set1 := none, cur := false, flight := [], insecure := bad, job := 1 }
theorem witness_LinkEvents_takes :
    let s : State := { wPort 0 with streams := [inStream false] }
    Takes (wPort 0).atEvent flitIn ∧ Answers (wPort 0).atEvent flitIn 1 0 flit1 ∧ flit1.nonPosted = false ∧
    w0.portUp 1 = false ∧ s.portUp 0 = true ∧ s.inward 0 = some (inStream false) ∧ (inStream false).insecure = false ∧
    ({ flitIn with authentic := false } : FlitIn).authentic = false ∧ (wPort 0).portKey 0 false = none :=
  ⟨⟨by decide, fun x h => absurd h (by simp [show (wPort 0).atEvent.inward flitIn.port = none from rfl])⟩,
   ⟨⟨by decide, fun x h => absurd h (by simp [show (wPort 0).atEvent.inward flitIn.port = none from rfl])⟩, rfl,
    fun h => absurd rfl h⟩, by decide, by decide, by decide, rfl, rfl, rfl, rfl⟩
theorem witness_LinkEvents_takesKeyed : Answers ({ wPort 0 with streams := [inStream false] } : State).atEvent flitIn 1 0 flit1 :=
  ⟨⟨by decide, fun x h => by
    have : x = inStream false := Option.some.inj (h.symm.trans rfl)
    subst this; exact ⟨rfl, rfl⟩⟩, rfl, fun _ => rfl⟩

theorem witness_HostEvents_pages :
    let host : State := { w0 with modeSplit := 0 }
    w0.modeSplit.getLsbD taskWalk = true ∧ (w0.walk 1 0x3FFFFFFF).isSome = true ∧ host.modeSplit.getLsbD taskWalk = false ∧
    host.walkRequest 0 none 1 0 = none ∧ w0.walkRequest 0 (some 39) 1 0x3FFFFFFF = none ∧ HostOut.ats 1 7 ∈ [HostOut.ats 1 7] ∧ HostOut.pri 1 7 ∈ [HostOut.pri 1 7] := by decide
theorem witness_HostEvents_pri :
    let x : Launch := { smallLaunch 0 with leases := [{ lo := 0x7000, len := 0x1000, host := true }] }
    let s : State := { w0 with launches := [x], out := [.pri 1 7] }
    HostOut.pri 1 7 ∈ s.out ∧ s.atEvent.launch? 0 = some x ∧ x.state < 3 ∧ x.final = none ∧ x.hostLeased (7 * 4096) = true ∧
    (s.atEvent.job? x.lrec.jobId).map Job.pasid = some 1 := by decide
/-- w0's job sealed, its bucket holding 15 bytes. -/
def sealedJob : Job := { smallJob with sealed := some { slots := [3], tokens := 15, burst := 16, rate := 1, lo := 0, hi := 0 } }
theorem witness_HostEvents_bar2 :
    w0.memWf ∧ (w0.barRange 0xFFFFFFFF 1).isSome = true ∧ w0.barRange 0xFFFFFFFF 2 = none ∧ (∀ j ∈ w0.jobs, j.sealed = none) ∧
    (let s : State := { w0 with
       jobs := [sealedJob], jobPages := [(1, 0x100)] }
     match s.atEvent.readTokens ((List.range 16).map (0x100000 + ·)) (s.jobs.filter fun j => j.sealed.isSome) with
     | .error j => j == 1
     | .ok _ => false) = true := by decide
theorem witness_HostEvents_scrub : backed (64 * 0x1FFFFFFFF) = true ∧ w0.modeSplit.getLsbD taskScrub = true := by decide
theorem witness_HostEvents_power :
    w0.power = .d0 ∧ ({ w0 with power := .d3hot } : State).power ≠ .d0 ∧ w0.firmwareOnly 0x100000 = false ∧
    ({ w0 with log := { w0.log with seq := 1 } } : State).firmwareOnly Config.accessRingAt = true := by
  refine ⟨rfl, by decide, by decide, ?_⟩
  have : 0 < logRingBytes := Nat.lt_of_lt_of_le (by decide) (Nat.le_mul_of_pos_right 4096 (Nat.succ_pos _))
  simp [State.firmwareOnly, this]
theorem witness_HostEvents_registers : State.reset.jobLive 1 = false ∧ (∀ t ∈ w0.tdis, t.locks = false) ∧ 600 ≤ 600 ∧ 600 ≤ 2400 := by decide
/-- An answer awaited for lease setup, and one for a measurement. -/
def hostReq (task : Nat) : HostReq := { id := 0, task := task, job := 1, args := [6], answered := none }
theorem witness_HostEvents_answers :
    ({ w0 with hostReqs := [hostReq taskLease] } : State).hostReqs.find? (fun r => r.id == 0) = some (hostReq taskLease) ∧
    (hostReq taskMeas).task ≠ taskLease ∧ (hostReq taskMeas).task ≠ taskWalk ∧ (hostReq taskWalk).task = taskWalk ∧ (hostReq taskMeas).args = [6] ∧ 1 ≤ 6 := by decide
/-- The access log's ring has room for a record while it is empty. -/
theorem logRoom_of_empty (s : State) (more : Nat) (h : s.log.ring = []) (hs : s.log.seq = 0) (hm : more ≤ 4032) : s.logRoom more = true := by
  have hb : 4096 ≤ logRingBytes := Nat.le_mul_of_pos_right _ (Nat.succ_pos _)
  simp [State.logRoom, AccessLog.used, h, hs]; omega
theorem mayLog_of_empty (s : State) (more : Nat) (hh : s.log.held = []) (hw : s.log.waiting = []) (h : s.log.ring = []) (hs : s.log.seq = 0)
    (hm : more ≤ 4032) : s.mayLog more = true := by
  simp [State.mayLog, hh, hw, logRoom_of_empty s more h hs hm]
theorem witness_HostEvents_firmware :
    State.reset.ready = 0 ∧ State.reset.hasFirmware true = false ∧ State.reset.mayLog 0 = true :=
  ⟨by decide, by decide, mayLog_of_empty _ _ rfl rfl rfl rfl (by decide)⟩
/-- Both images loaded. -/
def wBoot : State :=
  { State.reset with firmware := [{ security := true, bytes := [], signature := [] }, { security := false, bytes := [], signature := [] }] }
theorem witness_HostEvents_ready :
    wBoot.ready.getLsbD (ReadyBit.index (.clu 19)) = false ∧ wBoot.mayBeReady (.clu 19) = true ∧ w0.ready.getLsbD 63 = false := by decide

/-- Partition 0 of CU 0. -/
def part0 : Partition := { cu := CuRef.zero, part := 0 }
/-- w0 with a TDI in a state, and its partition stopped. -/
def wTdi (st : TdiSt) : State := { w0 with tdis := [{ n := 0, job := 1, st := st, digest := 0, stopping := false, failing := false }] }
def wStopped : State := { w0 with dbg := [{ DebugPart.start part0 with stopped := true }] }
theorem witness_DebugAndClockEvents :
    let prot : State := { w0 with clusters := [{ n := 0, job := some 1, clearing := false, toJob := none }] }
    (∀ t ∈ w0.tdis, t.locks = false) ∧ w0.protectedPart part0 = false ∧ (w0.debugPart part0).stopped = false ∧ prot.protectedPart part0 = true ∧
    (∃ t ∈ (wTdi .locked).tdis, t.locks = true) ∧ (wStopped.debugPart part0).stopped = true ∧ (∀ j ∈ w0.jobs, j.sealed = none) ∧
    (({ w0 with dbg := [{ DebugPart.start part0 with stepping := true }] } : State).debugPart part0).stepping = true := by decide
theorem witness_DebugAndClockEvents_clocks :
    let s : State := { w0 with lock := some .mhz3600 }
    let broken : State := { s with lockBroken := 1, clocks := Vector.replicate 4 .mhz3000 }
    s.lock.isSome = true ∧ ClockStep.mhz .mhz3000 < ClockStep.mhz s.clocks[(0 : BitVec 2).toFin] ∧ s.clockLocked 0 = true ∧
    broken.lock = some .mhz3600 ∧ broken.lockBroken.getLsbD 0 = true ∧ broken.clockLocked 0 = false ∧ w0.lock = none ∧ w0.clockLocked 3 = false := by decide

/-- A key in slot 3 of job 1, which set 0 of IDE stream 0 names; a request of operation 5 in flight under index 0. -/
def wKey (cur : Bool) : State :=
  { w0 with
    kslots := [{ n := 3, twbase := 0, job := 1, kind := 2, live := true, key := 0 }],
    streams := [{ ref := .ide 0, set0 := some 3, set1 := none, cur := cur, flight := [], insecure := false, job := 1 }] }
theorem witness_TrustEvents_log : w0.mayLog 0 = true ∧ w0.log.waiting = [] ∧ w0.log.held = [] ∧ w0.secured = false ∧
    ({ w0 with log := { w0.log with waiting := [(1, 0, [])] } } : State).mayLog 0 = false :=
  ⟨mayLog_of_empty _ _ rfl rfl rfl rfl (by decide), rfl, rfl, by decide, rfl⟩
theorem witness_TrustEvents_keys :
    (wKey false).keySlot? 3 ≠ none ∧ (wKey false).keySlot? 4 = none ∧
    (∀ x ∈ (wKey true).streams, ¬ (x.oldKey = some 3 ∧ (wKey true).oldInFlight x = true)) ∧ (w0.job? 1).isSome = true ∧
    (w0.jobs.filter fun x => x.id != 1 && x.sealed.isSome).length < 16 ∧ (({ w0 with jobs := [sealedJob] } : State).job? 1).bind Job.sealed = sealedJob.sealed ∧
    w0.log.refusals = 0 ∧ ((wKey true).streams.find? fun x => x.ref == .ide 0).any (fun x => x.oldKey == some 3 && !(wKey true).oldInFlight x) = true ∧
    ((wKey false).stream (.ide 0) 1).set1 = none := by decide
theorem witness_TrustEvents_clear :
    let s : State := { w0 with clusters := [{ n := 0, job := none, clearing := true, toJob := some 1 }] }
    let free : State := { s with blocks := s.blocks.map fun b => { b with complete := true } }
    (s.clusters.find? fun p => p.n == 0).any ClusterProt.clearing = true ∧ (∀ b ∈ free.blocks, ∀ c, b.cu = some c → inCluster 0 c = true → b.complete = true) ∧
    ({ s with clusters := [{ n := 0, job := some 1, clearing := true, toJob := some 1 }] } : State).clusters.all (fun p => p.toJob == p.job) = true ∧
    w0.log.next = 0 := by
  refine ⟨by decide, ?_, by decide, by decide⟩
  intro b hb c _ _
  simp only [List.mem_map] at hb
  obtain ⟨x, _, rfl⟩ := hb
  rfl
theorem witness_TrustEvents_tdi :
    let sec (st : TdiSt) : State := { wTdi st with spdm := { w0.spdm with sessions := [(1, true, [])] } }
    (sec .run).secured = true ∧ (∃ x ∈ (sec .run).launches, x.lrec.jobId = 1 ∧ x.state = 2) ∧
    ((sec .run).tdis.find? fun t => t.n == 0).any (fun t => t.locks && t.st != .error && t.st != .unlocked) = true ∧
    ((sec .unlocked).tdis.find? fun t => t.n == 0).map Tdi.st = some .unlocked ∧
    ((sec .locked).tdis.find? fun t => t.n == 0).any (fun t => t.st == .locked && !t.stopping) = true := by decide
theorem witness_TrustEvents_digest (d : BitVec 256) :
    let s : State := { w0 with tdis := [{ n := 0, job := 1, st := .run, digest := w0.rwlDigest, stopping := false, failing := false }] }
    (∀ t ∈ s.tdis, t.digest = s.rwlDigest) ∧ (d ≠ w0.rwlDigest ∨ d ^^^ 1 ≠ w0.rwlDigest) := by
  refine ⟨?_, ?_⟩
  · intro t ht; simp only [List.mem_singleton] at ht; subst ht; rfl
  · by_cases h : d = w0.rwlDigest
    · right; rw [← h]; intro h2
      have : d ^^^ (d ^^^ 1) = d ^^^ d := by rw [h2]
      rw [← BitVec.xor_assoc, BitVec.xor_self, BitVec.zero_xor] at this
      exact absurd this (by decide)
    · exact .inl h
theorem witness_TrustEvents_flight :
    let x : Stream := { ref := .ide 0, set0 := none, set1 := none, cur := false, flight := [(5, false)], insecure := false, job := 1 }
    ({ w0 with streams := [x] } : State).streams.find? (fun x => x.ref == .ide 0) = some x ∧ x.flight.find? (fun f => f.1 == 5) = some (5, false) ∧
    ¬ (true = (5, false).2 ∧ true = true) := by decide

theorem witness_ResponderEvents : w0.mayLog 0 = true ∧ w0.mayLog checkpointBytes = true ∧ w0.keyFits (.ide 0) 3 1 = true ∧
    (wKey false).keyFits (.ide 0) 3 1 = false ∧ ({ w0 with log := { w0.log with waiting := [(1, 0, [])] } } : State).mayLog 0 = false :=
  ⟨mayLog_of_empty _ _ rfl rfl rfl rfl (by decide), mayLog_of_empty _ _ rfl rfl rfl rfl (by decide), by decide, by decide, rfl⟩

/-- DecodeEncode: words that decode, and a well-formed instruction. -/
theorem witness_DecodeEncode :
    Instr.wf (.mul 7 { ub := false, ua := true, lb := true, la := false } 31 31 31) = true ∧
    encode (.mul 7 { ub := false, ua := true, lb := true, la := false } 31 31 31) ≠ [] ∧ (0x00C00007#32).getLsbD 0 = true ∧
    decodeWord 0x00C00007 = .ok .endFrag ∧ (0x3842#16).getLsbD 0 = false ∧ decodeHalf 0x3842 = .ok (.movi16bit 1 7) := by
  refine ⟨by decide, by decide, by decide, rfl, by decide, rfl⟩

/-- StepRunsDecoded: an agenda, nothing to issue, a fragment picked, a DL latched; bundles good and malformed, slots that hold
an instruction, the rest of one, and none. -/
def wIdle : State := { w0.unfocus with agenda := [] }
theorem witness_StepRunsDecoded :
    (w0.live = true ∧ w0.latch.dl = none) ∧ ({ wIdle with agenda := [.issueRunEnd] } : State).agenda = [.issueRunEnd] ∧ State.reset.pick = none ∧
    wIdle.pick.isSome = true ∧ wIdle.latch.dl = none ∧ wDl.live = true ∧ wDl.latch.dl = some false := by decide
theorem witness_StepRunsDecoded_bundle :
    (∃ b, w0.fetch 0x10004 = .bundle b ∧ b.ok = true ∧ b.code 0 ≠ 0 ∧ b.code 1 = 0 ∧ (∃ e, b.instr 0 = .error e) ∧ ∃ x, b.instr 2 = .ok x) ∧
    ∃ b, w0.fetch 0x10024 = .bundle b ∧ b.ok = false :=
  ⟨⟨_, rfl, by decide, by decide, by decide, ⟨_, rfl⟩, ⟨_, rfl⟩⟩, ⟨_, rfl, by decide⟩⟩

/-- NothingStops: events and encoded instructions, with and without a fragment in focus. -/
theorem witness_NothingStops :
    Instr.isEvent .fatalState = true ∧ Instr.isEvent .nop = false ∧ w0.live = true ∧ State.reset.live = false ∧
    (∀ e ∈ State.reset.agenda, Instr.isEvent e = true) ∧ State.reset.pick = none ∧ wIdle.pick.any (fun t => t.live) = true := by decide

/-- StepKeepsMemory: reset, and the small launch. -/
theorem witness_StepKeepsMemory : State.reset.memWf ∧ ∃ t, step State.reset = .next t := ⟨by decide, ⟨_, rfl⟩⟩

/-! ### Single steps, their results worked out by hand from the rules named -/

/-- The state after an instruction; the state before it if the model stops. -/
def after (i : Instr) (s : State) : State := match exec i s with | .next t => t | _ => s
/-- wAt with v1 holding x, v2 holding y in every lane, s1 and s2 holding a and b, under the field `fmt`. -/
def wVals (fmt : BitVec 64) (x y : BitVec 32) (a b : BitVec 64) : State :=
  { wAt with
    frag := { wAt.frag with fmt := fmt },
    grp := { wAt.grp with v := (wAt.grp.v.set 1 (some [Lanes.splat x])).set 2 (some [Lanes.splat y]), s := (wAt.grp.s.set 1 a).set 2 b } }
/-- Lane 31 of component 0 of v3 after an instruction. -/
def lane3 (i : Instr) (s : State) : BitVec 32 := (after i s).grp.lane 3 0 31
/-- CODE and info of TCAUSE after an instruction. -/
def causeOf (i : Instr) (s : State) : Nat := (after i s).grp.tcause.toNat

-- R78: 32-bit wrap; the last-read source is freed.
theorem test_add_wraps : lane3 (.add 0 { no2 with lb := true } 3 1 2) (wVals 2 0xFFFFFFFF 2 0 0) = 1 ∧
    (after (.add 0 { no2 with lb := true } 3 1 2) (wVals 2 0xFFFFFFFF 2 0 0)).grp.mapped 2 = false := by decide
theorem test_sub_operands : lane3 (.sub 0 no2 3 1 2) (wVals 2 5 7 0 0) = 0xFFFFFFFE := by decide
theorem test_andn_operands : lane3 (.andn 0 no2 3 1 2) (wVals 2 0xFF 0x0F 0 0) = 0xF0 := by decide
theorem test_shl_count_mod_width : lane3 (.shl 0 no2 3 1 2) (wVals 2 3 33 0 0) = 6 := by decide
theorem test_popc : lane3 (.popc 0 no1 3 1) (wVals 2 0xF0F 0 0 0) = 8 := by decide
-- R83: a scalar form is 64 bits wide.
theorem test_addi_scalar : (after (.addiScalar 4 1 0xFFF) (wVals 2 0 0 0 0)).grp.s[4] = 0xFFFFFFFFFFFFFFFF := by decide
-- binary32: 1 + 2 = 3; an addition that rounds to even.
theorem test_fadd : lane3 (.fadd 0 no2 3 1 2) (wVals 0x828A 0x3F800000 0x40000000 0 0) = 0x40400000 ∧
    lane3 (.fadd 0 no2 3 1 2) (wVals 0x828A 0x4B800000 0x3F800000 0 0) = 0x4B800000 := by decide
theorem test_fmax_of_zeros : lane3 (.fmax 0 no2 3 1 2) (wVals 0x828A 0x80000000 0 0 0) = 0 := by decide
-- R330: TRAP 0x25 takes cause 26 with its number above it, from its own address.
theorem test_trap : causeOf (.trap 0x25) wAt = 0x251A ∧ (after (.trap 0x25) wAt).grp.tepc = 0x10004 ∧
    (after (.trap 0x25) wAt).grp.tmode = true ∧ (after (.trap 0x25) wAt).frag.pc = wAt.grp.trapVec := by decide
-- R337: ERET outside a handler is an illegal encoding.
theorem test_eret_outside : causeOf .eret wAt = 1 := by decide
-- R99: a call to the next bundle pushes 16 bytes and goes there.
theorem test_call : (after (.call 4) wAt).grp.sp = 16 ∧ (after (.call 4) wAt).frag.pc = 0x1000C ∧ (after (.call 4) wAt).ops.length = 1 := by decide
theorem test_ret_underflow : causeOf .ret wAt = 6 := by decide
-- A branch whose predicate holds in no lane goes on after itself.
theorem test_bra_not_taken : (after (.bra 1 4) { wAt with grp := { wAt.grp with k := wAt.grp.k.set 1 0 } }).frag.pc = 0x10008 ∧
    (after (.bra 0 4) wAt).frag.pc = 0x1000C := by decide
-- R235: a misaligned atomic; R104: the byte past the limit of sg0.
theorem test_atomic_misaligned : causeOf (.atomAddW32 0 no1 3 1 1) (wVals 2 2 0 0 0) = 9 := by decide
theorem test_load_past_limit : causeOf (.ld 0 .w32 .lane false 3 1 1) (wVals 2 0 0 0xFFFD 0) = 7 ∧
    (after (.ld 0 .w32 .lane false 3 1 1) (wVals 2 0 0 0xFFFC 0)).grp.ld = 1 := by decide
-- STORE.COMPLETE writes the store's bytes, little-endian.
theorem test_store_bytes : readBytes (after (.storeComplete 1) (wOp (some .st) (.store [acc0] none) id)).mem 0x100000 5 = [1, 2, 3, 4, 0] := by decide
theorem test_exchange : atomLane (.atom .xchg) 32 7 9 0 = (some 9, 7) ∧ atomLane (.atom .min) 32 0xFFFFFFFF 1 0 = (some 0xFFFFFFFF, 0xFFFFFFFF) := by decide
-- R230: TXB inside a transaction; TXA outside one.
theorem test_transaction_misuse : causeOf .txb wTx = 20 ∧ causeOf .txa wAt = 20 := by decide
-- R250: an insert of a present key by a plain form.
theorem test_duplicate_key : causeOf (.tins 0 4 6 1) { wTable t5 with grp := { (wTable t5).grp with v := (w0.grp.v.set 6 (some [Lanes.splat 7])) } } % 256 = 18 := by decide
-- R312: 2^1 times 2^1 is 2^2, and NaN stays.
theorem test_scale_product : scaleMul 0x80 0x80 = 0x81 ∧ scaleMul 0xFF 0 = 0xFF ∧ scaleMul 0 0 = 0 := by decide
theorem test_mma_role : causeOf (.mma 0 false false true 0 1 2) { wEng with grp := { wEng.grp with role := 1 } } = 10 := by decide
-- An empty queue answers 2^63.
theorem test_qpop_empty : (after (.qpop 0 2 7) (wQueue [])).grp.s[7] = 0x8000000000000000 := by decide
-- The only fragment ends, and with it the group.
theorem test_end : (after .endFrag wAt).groups.all (fun g => g.ended) = true ∧ (after .endFrag wAt).live = false := by decide
-- Reset.
theorem test_reset : State.reset.mem = [] ∧ State.reset.modeSplit = 0x3F ∧ State.reset.live = false := by decide
-- The first step of the small launch runs the placed instruction, MOVI of 7 to v1 (0x3842).
theorem test_placed : (match step (State.reset.withFetchWord 16 0x3842) with | .next t => t.grp.lane 1 0 31 == 7 && t.frag.pc == 0x10006 | _ => false) = true := by
  decide
end

section
/-! PROOFS. Number formats (R55 to R67): a value that a format holds rounds to its own code, and what one draw does.
The magnitude of a code is treated for every format, its sign for every IEEE format; binary32 is an instance. -/

namespace Sys2Proof.Machine

/-! ### Rounding at an exponent the value already has -/

@[simp] theorem roundAt_same_exponent (tieUp : Bool) (rm : RM) (neg : Bool) (m : Nat) (e : Int) (u : Nat) :
    roundAt tieUp rm neg m e e u = m := by
  simp only [roundAt, Int.le_refl, if_true, Int.sub_self, Int.toNat_zero, Nat.pow_zero, Nat.mul_one]

theorem ulpExp_emin {p m : Nat} (emin : Int) (hm : m < 2 ^ (p - 1)) : ulpExp p emin m emin = emin := by
  have hlog : m.log2 ≤ p - 1 := by
    by_cases h0 : m = 0
    · simp only [h0, Nat.log2_zero, Nat.zero_le]
    · exact Nat.le_of_lt ((Nat.log2_lt h0).2 hm)
  unfold ulpExp
  omega

theorem ulpExp_normal {p m : Nat} {emin e : Int} (hm : m < 2 ^ (p - 1)) (he : emin ≤ e) :
    ulpExp p emin (2 ^ (p - 1) + m) e = e := by
  have hlog : (2 ^ (p - 1) + m).log2 = p - 1 :=
    (Nat.log2_eq_iff (by omega)).2 ⟨by omega, by rw [Nat.pow_succ]; omega⟩
  unfold ulpExp
  omega

/-! ### Magnitude codes of a format: subnormal and normal -/

theorem FFmt.magVal_subnormal {f : FFmt} {mag : Nat} (neg : Bool) (h : mag < 2 ^ f.t) :
    f.magVal neg mag = .fin neg mag f.emin := by
  simp only [FFmt.magVal, Nat.div_eq_of_lt h, Nat.mod_eq_of_lt h, if_true]

theorem FFmt.magVal_normal {f : FFmt} {m : Nat} (neg : Bool) (k : Nat) (h : m < 2 ^ f.t) :
    f.magVal neg ((k + 1) * 2 ^ f.t + m) = .fin neg (2 ^ f.t + m) (f.emin + k) := by
  have hdiv : ((k + 1) * 2 ^ f.t + m) / 2 ^ f.t = k + 1 := by
    rw [Nat.add_comm, Nat.add_mul_div_right _ _ (Nat.two_pow_pos _), Nat.div_eq_of_lt h, Nat.zero_add]
  have hmod : ((k + 1) * 2 ^ f.t + m) % 2 ^ f.t = m := by
    rw [Nat.add_comm, Nat.add_mul_mod_self_right, Nat.mod_eq_of_lt h]
  simp only [FFmt.magVal, hdiv, hmod, Nat.succ_ne_zero, if_false, Nat.add_sub_cancel]

theorem FFmt.roundMag_subnormal {f : FFmt} {mag : Nat} (rm : RM) (neg : Bool) (u : Nat) (h : mag < 2 ^ f.t) :
    f.roundMag rm neg mag f.emin u = mag := by
  have hle : 2 ^ f.t ≤ 2 ^ f.prec := Nat.pow_le_pow_right (by decide) (Nat.sub_le _ _)
  have hlt : mag ≠ 2 ^ f.prec := by omega
  simp only [FFmt.roundMag, ulpExp_emin f.emin h, roundAt_same_exponent, FFmt.magCode, hlt, h, if_false, if_true]

theorem FFmt.roundMag_normal {f : FFmt} {m : Nat} (rm : RM) (neg : Bool) (k u : Nat) (hp : 0 < f.prec) (h : m < 2 ^ f.t) :
    f.roundMag rm neg (2 ^ f.t + m) (f.emin + k) u = (k + 1) * 2 ^ f.t + m := by
  have hprec : 2 ^ f.prec = 2 ^ f.t * 2 := by rw [← Nat.pow_succ, FFmt.t, Nat.succ_eq_add_one, Nat.sub_add_cancel hp]
  have hq : ulpExp f.prec f.emin (2 ^ f.t + m) (f.emin + k) = f.emin + k := ulpExp_normal h (by omega)
  have hlt : 2 ^ f.t + m ≠ 2 ^ f.prec := by omega
  have hnormal : ¬ 2 ^ f.t + m < 2 ^ f.t := by omega
  have hfield : (f.emin + (k : Int) - f.emin).toNat = k := by omega
  simp only [FFmt.roundMag, hq, roundAt_same_exponent, FFmt.magCode, hlt, hnormal, hfield, if_false, Nat.add_sub_cancel_left]

/-- R65: the unbounded result of a finite value of the format is that value's own magnitude code. -/
theorem FFmt.roundf_magVal {f : FFmt} {mag : Nat} (rm : RM) (u : Nat) (neg : Bool) (hp : 0 < f.prec) (hmax : mag ≤ f.maxMag) :
    f.roundf rm u (f.magVal neg mag) = f.signed' neg mag := by
  rcases Nat.lt_or_ge mag (2 ^ f.t) with hsub | hnorm
  · rw [magVal_subnormal neg hsub]
    by_cases h0 : mag = 0
    · simp only [FFmt.roundf, h0, if_true]
    · simp only [FFmt.roundf, h0, roundMag_subnormal rm neg u hsub, hmax, if_false, if_true]
  · obtain ⟨k, hk⟩ : ∃ k, mag / 2 ^ f.t = k + 1 :=
      Nat.exists_eq_add_one.2 (Nat.div_pos hnorm (Nat.two_pow_pos _))
    have hm : mag % 2 ^ f.t < 2 ^ f.t := Nat.mod_lt _ (Nat.two_pow_pos _)
    have hmag : (k + 1) * 2 ^ f.t + mag % 2 ^ f.t = mag := by rw [← hk, Nat.mul_comm, Nat.div_add_mod]
    have hround := roundMag_normal rm neg k u hp hm
    rw [hmag] at hround
    have hval := magVal_normal neg k hm
    rw [hmag] at hval
    have hne : 2 ^ f.t + mag % 2 ^ f.t ≠ 0 := by omega
    simp only [hval, FFmt.roundf, hround, hne, hmax, if_false, if_true]

/-! ### Codes of an IEEE format: sign and magnitude -/

/-- R55, R56, R65: in an IEEE format, rounding the value of a code that is no NaN gives the code back. -/
theorem FFmt.roundf_val_ieee {f : FFmt} {c : Nat} (rm : RM) (u : Nat) (hk : f.kind = .ieee) (hp : 0 < f.prec)
    (hb : 0 < f.bits) (hc : c < 2 ^ f.bits) (hn : c % 2 ^ (f.bits - 1) ≤ 2 ^ (f.bits - 1) - 2 ^ f.t) :
    f.roundf rm u (f.val c) = c := by
  have hbits : 2 ^ f.bits = 2 ^ (f.bits - 1) * 2 := by rw [← Nat.pow_succ, Nat.succ_eq_add_one, Nat.sub_add_cancel hb]
  have hcode : c % 2 ^ (f.bits - 1) + (if 2 ^ (f.bits - 1) ≤ c then 2 ^ (f.bits - 1) else 0) = c := by
    split
    case isTrue hneg => rw [Nat.mod_eq_sub_mod hneg, Nat.mod_eq_of_lt (by omega), Nat.sub_add_cancel hneg]
    case isFalse hpos => rw [Nat.mod_eq_of_lt (by omega), Nat.add_zero]
  by_cases hinf : c % 2 ^ (f.bits - 1) = 2 ^ (f.bits - 1) - 2 ^ f.t
  · have hval : f.val c = .inf (2 ^ (f.bits - 1) ≤ c) := by
      simp only [FFmt.val, hk, Nat.mod_eq_of_lt hc, hinf, if_true]
    simpa only [hval, FFmt.roundf, FFmt.infCode, hk, hinf, Option.getD_some, decide_eq_true_eq] using hcode
  · have hval : f.val c = f.magVal (2 ^ (f.bits - 1) ≤ c) (c % 2 ^ (f.bits - 1)) := by
      simp only [FFmt.val, hk, Nat.mod_eq_of_lt hc, hinf, Nat.not_lt.2 hn, if_false]
    have hmax : c % 2 ^ (f.bits - 1) ≤ f.maxMag := by simp only [FFmt.maxMag, hk]; omega
    simpa only [hval, roundf_magVal rm u _ hp hmax, FFmt.signed', hk, decide_eq_true_eq] using hcode

/-- Settles O11: binary32 is an IEEE format, and a code that is no NaN lies at or below the infinity of its sign. -/
theorem roundingKeepsValues : Obligations.RoundingKeepsValues := by
  intro x rm u _ hnan
  have hmag : x.toNat % 2 ^ (f32.bits - 1) ≤ 2 ^ (f32.bits - 1) - 2 ^ f32.t :=
    Nat.not_lt.1 (of_decide_eq_false hnan)
  rw [round32, val32, FFmt.roundf_val_ieee rm u rfl (by decide) (by decide) x.isLt hmag, BitVec.ofNat_toNat, BitVec.setWidth_eq]

/-! ### The draw -/

theorem toNat_extract_upper24 (s : BitVec 32) : (s.extractLsb' 8 24).toNat = s.toNat / 2 ^ 8 := by
  rw [BitVec.extractLsb'_toNat, Nat.shiftRight_eq_div_pow, Nat.mod_eq_of_lt (by omega)]

/-- Settles O10: the draw's steps are R66's, and dividing by 2^8 leaves bits [31:8]. -/
theorem seedDraw : Obligations.SeedDraw := by
  intro seed
  exact Prod.ext rfl (toNat_extract_upper24 _).symm

end Sys2Proof.Machine
end

section
/-! PROOFS. Tangent arithmetic (R128 to R130): what two writes in turn come to, and the float instructions under a DL 0
that acts. -/

namespace Sys2Proof.Machine

/-! ### Two writes in turn -/

/-- A write of one name leaves every other name settled (R21, R22). -/
theorem WroteV.settledV_other {s t : State} {srcs frees : List Reg} {d n : Reg} {m : Mask} {w : Nat}
    {r : Nat → Nat → BitVec 32} (h : WroteV s srcs frees d m w r t) (hne : n ≠ d) (hn : s.grp.settledV n) :
    t.grp.settledV n := by
  obtain ⟨x, hlat, hcls, hname, -⟩ := h.late
  have hpending : t.grp.pending = (s.grp.freed frees).pending := by rw [h.frame]
  have hcycle : t.grp.cycle = s.grp.cycle := by rw [h.frame, Group.freed_frame]
  have hother : d.toNat ≠ n.toNat := fun e => hne (BitVec.eq_of_toNat_eq e.symm)
  constructor
  · have hfreed := Group.freed_isPending frees .vec n.toNat s.grp
    unfold Group.isPending at hfreed ⊢
    rw [hpending, hfreed]
    exact hn.1
  · have hlate := hn.2
    unfold Group.late at hlate ⊢
    rw [hlat, hcycle, List.find?_cons_of_neg (by simp [hcls, hname, hother]), hlate]

/-- A pair of names written one after the other, nothing being still to come to either (R12, R13, R130). -/
theorem writeV_writeV_wrote (s : State) (srcs frees : List Reg) (d e : Reg) (m : Mask) (x y : VReg) (w : Nat)
    (hd : s.grp.settledV d) (he : s.grp.settledV e) (hne : e ≠ d) (hw : w ≠ 0) :
    WroteV s srcs frees d m w (fun j l => (compAt x j).get l) ((s.readied srcs frees).writeV d m x w) ∧
      WroteV ((s.readied srcs frees).writeV d m x w) [] [] e m w (fun j l => (compAt y j).get l)
        (((s.readied srcs frees).writeV d m x w).writeV e m y w) := by
  have hfirst := writeV_wrote s srcs frees d m x w hd hw
  exact ⟨hfirst, writeV_wrote _ [] [] e m y w (hfirst.settledV_other hne he) hw⟩

/-! ### What a lane-wise instruction writes into -/

/-- With an active lane and room for its destinations a lane-wise instruction writes, its sources noted and its frees
applied (R12 to R14, R78). -/
theorem lanewise_done {s : State} {g : PReg} {frees dsts : List Reg} (srcs : List Reg) (w : Mask → State → State)
    (hact : s.active g ≠ 0) (hroom : (s.grp.freed frees).room dsts = .ok) :
    lanewise s g srcs frees dsts w = .done (w (s.active g) (s.readied srcs frees)) := by
  have hready : ((s.touch srcs).freeNames frees).grp.room dsts = .ok := by
    change (s.readied srcs frees).grp.room dsts = .ok
    rw [readied_grp, ← hroom]
    rfl
  simp only [lanewise, hact, if_false, hready]
  rfl

theorem readied_frag (s : State) (srcs frees : List Reg) : (s.readied srcs frees).frag = s.frag := by
  rw [readied_frame]

@[simp] theorem seeded_grp (f : Nat → LaneFn) (act : Mask) (s : State) : (seeded f act s).grp = s.grp := rfl

/-- The lanes' draws may be taken before the reads are noted and the frees applied. -/
theorem readied_seeded (f : Nat → LaneFn) (act : Mask) (s : State) (srcs frees : List Reg) :
    (seeded f act s).readied srcs frees =
      { s.readied srcs frees with frag := { (s.readied srcs frees).frag with
          fmt := fmtWithSeed (s.readied srcs frees).frag.fmt (runLanes f (lanesOf act) (fmtSeed s.frag.fmt)).1 } } := by
  rw [readied_frag]
  unfold State.readied
  rw [touch_eq, touch_eq]
  rfl

theorem compAt_take_one (r : VReg) : compAt (r.take 1) 0 = compAt r 0 := by
  cases r <;> rfl

theorem compAt_drop_one (r : VReg) : compAt (r.drop 1) 0 = compAt r 1 := by
  cases r <;> rfl

/-- The components gathered from the lanes' results. -/
theorem gather_get (f : Nat → LaneFn) (act : Mask) (s : State) {n j l : Nat} (hj : j < n) (hl : l < 32) :
    (compAt (gather n (runLanes f (lanesOf act) (fmtSeed s.frag.fmt)).2) j).get l = laneResult f act s j l := by
  rw [gather, compAt_map_range _ _ _ hj, Lanes.get_ofFn _ _ hl]
  rfl

/-! ### The float instructions under DL 0 with K = 0 -/

theorem kt_of_dlDual {s : State} (h : s.dlDual = true) : s.grp.kt = 0 := by
  simp only [State.dlDual, Bool.and_eq_true, beq_iff_eq] at h
  exact h.2

/-- R130: v31 as a value operand raises tangent capacity. -/
theorem floatOp_v31_traps {s : State} {vals : List Reg} {d : Reg} (g : PReg) (others frees : List Reg) (lat : Nat)
    (f : Nat → LaneFn) (hdual : s.dlDual = true) (h31 : 31#5 ∈ d :: vals) :
    floatOp g vals others frees d lat f s = .trap (exc 12) :=
  if_pos ⟨hdual, List.contains_iff_mem.2 h31⟩

/-- R130: the lanes' primals go to the destination, then their tangents to the name after it. -/
theorem floatOp_dual {s : State} {g : PReg} {vals frees : List Reg} {d : Reg} (others : List Reg) (lat : Nat)
    (f : Nat → LaneFn) (hdual : s.dlDual = true) (h31 : 31#5 ∉ d :: vals) (hact : s.active g ≠ 0)
    (hroom : (s.grp.freed frees).room [d, d + 1] = .ok) :
    floatOp g vals others frees d lat f s =
      let c := gather 2 (runLanes f (lanesOf (s.active g)) (fmtSeed s.frag.fmt)).2
      .done ((((seeded f (s.active g) s).readied (vals ++ vals.map (· + 1) ++ others) frees).writeV d (s.active g)
        (c.take 1) lat).writeV (d + 1) (s.active g) (c.drop 1) lat) := by
  have hno : ¬(d :: vals).contains 31 = true := fun h => h31 (List.contains_iff_mem.1 h)
  simp only [floatOp, hdual, hno, Bool.false_eq_true, and_false, if_false, if_true, State.tangents,
    lanewise_done _ _ hact hroom, readied_seeded]

/-- R130: a float instruction without v31 writes the pair d, d + 1, the primal first. -/
theorem floatOp_dual_wrote {s : State} {g : PReg} {vals frees : List Reg} {d : Reg} {lat : Nat} (others : List Reg)
    (f : Nat → LaneFn) (hdual : s.dlDual = true) (h31 : 31#5 ∉ d :: vals) (hact : s.active g ≠ 0)
    (hroom : (s.grp.freed frees).room [d, d + 1] = .ok) (hd : s.grp.settledV d) (hd1 : s.grp.settledV (d + 1))
    (hlat : lat ≠ 0) :
    ∃ t u, floatOp g vals others frees d lat f s = .done t ∧
      WroteV (seeded f (s.active g) s) (vals ++ vals.map (· + 1) ++ others) frees d (s.active g) lat
        (laneResult f (s.active g) s) u ∧
      WroteV u [] [] (d + 1) (s.active g) lat (fun _ => laneResult f (s.active g) s 1) t := by
  have hkt : s.grp.kt = 0 := kt_of_dlDual hdual
  have hne : d + 1 ≠ d := by bv_omega
  have hdone := floatOp_dual others lat f hdual h31 hact hroom
  obtain ⟨hprimal, htangent⟩ := writeV_writeV_wrote (seeded f (s.active g) s)
    (vals ++ vals.map (· + 1) ++ others) frees d (d + 1) (s.active g) _ _ lat hd hd1 hne hlat
  refine ⟨_, _, hdone, hprimal.congr fun j hj l hl => ?_, htangent.congr fun j hj l hl => ?_⟩
  · obtain rfl : j = 0 := by rwa [seeded_grp, hkt, Nat.le_zero] at hj
    rw [compAt_take_one, gather_get f (s.active g) s (by decide) hl]
  · obtain rfl : j = 0 := by
      rwa [hprimal.frame, Group.freed_frame, seeded_grp, hkt, Nat.le_zero] at hj
    rw [compAt_drop_one, gather_get f (s.active g) s (by decide) hl]

/-- Each row of R130's float instructions is of the shared float shape. -/
theorem exec_floatRows {s : State} (hlive : s.live = true) (g : PReg) (m : Marks2) (m1 : Marks1) (mode : BitVec 4)
    (dst src : BitVec 6) (d a b c : Reg) : ∀ p ∈ floatRows g m m1 mode dst src d a b c s,
      exec p.1 s = finish s (floatOp g p.2.1 p.2.2.1 p.2.2.2.1 d p.2.2.2.2.1 p.2.2.2.2.2 s) := by
  unfold floatRows
  repeat refine List.forall_mem_cons.2 ⟨if_pos hlive, ?_⟩
  exact List.forall_mem_nil _

theorem floatRows_latency_ne_zero (g : PReg) (m : Marks2) (m1 : Marks1) (mode : BitVec 4) (dst src : BitVec 6)
    (d a b c : Reg) (s : State) : ∀ p ∈ floatRows g m m1 mode dst src d a b c s, p.2.2.2.2.1 ≠ 0 := by
  unfold floatRows
  repeat refine List.forall_mem_cons.2 ⟨Nat.succ_ne_zero _, ?_⟩
  exact List.forall_mem_nil _

/-! ### Instructions that DL 0 may not stand before -/

/-- R130: under a DL 0 that acts, an instruction outside R130's list raises illegal encoding. -/
theorem issue_dlDual {s : State} (f : State → Eff) (hlive : s.live = true) (hdual : s.dlDual = true) :
    issue s f = finish s (.trap excIllegal) := by
  simp only [issue, hlive, hdual, if_true]

/-- The integer instructions of two sources issue as instructions outside R130's list. -/
theorem exec_vectorInt2 (g : PReg) (m : Marks2) (d a b : Reg) (s : State) :
    ∀ p ∈ vectorInt2, ∃ f, exec (p.1 g m d a b) s = issue s f := by
  unfold vectorInt2
  repeat refine List.forall_mem_cons.2 ⟨⟨_, rfl⟩, ?_⟩
  exact List.forall_mem_nil _

/-- Settles O8: the float instructions share one shape, which faults on v31 and else writes its pair; the integer
instructions are refused before their effect. -/
theorem dualPrefix : Obligations.DualPrefix := by
  intro g m m1 mode dst src d a b c s hlive hdual
  constructor
  · rintro ⟨i, vals, others, frees, lat, f⟩ hp
    have hexec : exec i s = finish s (floatOp g vals others frees d lat f s) :=
      exec_floatRows hlive g m m1 mode dst src d a b c _ hp
    constructor
    · intro h31
      rw [floatOp_v31_traps g others frees lat f hdual h31] at hexec
      exact hexec
    · intro h31 hact hroom hd hd1
      have hlat : lat ≠ 0 := floatRows_latency_ne_zero g m m1 mode dst src d a b c s _ hp
      obtain ⟨t, u, hdone, hwrites⟩ := floatOp_dual_wrote others f hdual h31 hact hroom hd hd1 hlat
      rw [hdone] at hexec
      exact ⟨t, hexec, u, hwrites⟩
  · intro p hp
    obtain ⟨f, hissue⟩ := exec_vectorInt2 g m d a b s p hp
    exact hissue.trans (issue_dlDual f hlive hdual)

end Sys2Proof.Machine
end
